-- ==== Sys2Proof/Word.lean ====
section
/-! DEFINITION. The word types of the machine and the sparse stores that hold its arrays. -/

namespace Sys2Proof

/-- One byte of memory (R5). -/
abbrev Byte := BitVec 8
/-- A 64-bit value: scalar and uniform registers, addresses, control registers (Table 1-4). -/
abbrev Word := BitVec 64
/-- One lane's 32-bit element of a vector register (Table 1-4). -/
abbrev W32 := BitVec 32
/-- A scalar register number, s0 to s63 (R50). -/
abbrev SReg := BitVec 6
/-- A register field of a lane word: 0 to 639, or a special source operand (R39, R54). -/
abbrev VReg := BitVec 10

/-- A sparse array: key and value pairs, keys strictly rising, no value equal to the array's default. -/
abbrev Store (α : Type) := List (Nat × α)

end Sys2Proof
end

