-- ==== Sys2Proof/Syntax.lean ====
section
/-! DEFINITION. The instruction words and events of the module: one constructor of `Instr` for each row of
spec/opcode_table.json. Word constructors hold the operand fields of Tables 2-1, 2-5, 2-11, 2-13 and 2-16; event
constructors hold what names the event (which core, slot, die, command or mailbox operands). -/

namespace Sys2Proof

/-- Element types, Table 2-7. -/
inductive EType where
  | f32 | f16 | bf16 | e4m3 | e5m2 | e2m1 | s8 | s16 | s32 | s64 | z8 | z16 | z32 | z64 | b32 | b64
  deriving DecidableEq, Repr

/-- Access sizes of the scalar loads and stores (R285). -/
inductive Size where
  | b | h | w | d
  deriving DecidableEq, Repr

/-- Operations of SATOM and VATOM (Table 2-8, R365). -/
inductive AtomOp where
  | add | min | max | and | or | xor | swap | cas
  deriving DecidableEq, Repr

/-- Extended-block sizes that RACQ names (R300). -/
inductive Rows where
  | r64 | r128 | r256 | r512
  deriving DecidableEq, Repr

/-- In-flight counters and paths, Tables 2-12 and 6-4. -/
inductive Path where
  | vlt | glb | stk | fab | eng | nma
  deriving DecidableEq, Repr

/-- DRAM access granules, Table 9-5. -/
inductive Granule where
  | g0 | g1 | g2 | g3
  deriving DecidableEq, Repr

/-- Format L3, Table 2-5, without the opcode. -/
structure L3 where
  vd : VReg
  va : VReg
  vb : VReg
  vc : VReg
  mods : BitVec 6
  clamp : BitVec 2
  dscale : BitVec 4
  look : BitVec 4
  cmask : BitVec 4
  mreg : BitVec 4
  ty : EType
  route : BitVec 6
  aux : BitVec 12
  deriving DecidableEq, Repr

/-- Format LM, Table 2-11, without the opcode and without the fields that must be zero ([40], [36:34], route). -/
structure LM where
  vd : VReg
  kb : BitVec 4
  vo : VReg
  scl : BitVec 2
  imm : BitVec 14
  scope : BitVec 5
  path : BitVec 3
  look : BitVec 4
  cmask : BitVec 4
  mreg : BitVec 4
  ty : EType
  aux : BitVec 12
  deriving DecidableEq, Repr

/-- One slot of a pair word (Table 2-13): destination, two sources and the modifiers neg a, abs a, neg b, abs b. -/
structure Slot where
  vd : VReg
  va : VReg
  vb : VReg
  mods : BitVec 4
  deriving DecidableEq, Repr

/-- Slot Y operations of Table 2-15. -/
inductive YOp where
  | iadd | isub | and | or | xor | shl | shr | sar | imin | imax | mov | cvtF32S32 | cvtS32F32 | fkey | xbfly
  deriving DecidableEq, Repr

/-- Slot X operations of Table 2-15. -/
inductive XOp where
  | faddF32 | fsubF32 | fmulF32 | fmacF32 | fminF32 | fmaxF32 | faddF16 | fsubF16 | fmulF16 | fmacF16
  deriving DecidableEq, Repr

/-- A pair word whose slot X is named by the constructor: slot X, slot Y (none when idle), and the word's fields. -/
structure PairX where
  x : Slot
  y : Option (YOp × Slot)
  look : BitVec 4
  mreg : BitVec 4
  deriving DecidableEq, Repr

/-- A pair word whose slot X is idle and whose slot Y is named by the constructor. -/
structure PairY where
  y : Slot
  look : BitVec 4
  mreg : BitVec 4
  deriving DecidableEq, Repr

/-- Near-memory format NA, Table 2-16, without op6. -/
structure NA where
  wd : BitVec 4
  wa : BitVec 4
  wb : BitVec 4
  wc : BitVec 4
  ty : EType
  sub : BitVec 6
  imm : BitVec 32
  deriving DecidableEq, Repr

/-- Near-memory format NM, Table 2-16, without op6 and the fields that must be zero. -/
structure NM where
  wd : BitVec 4
  bslot : BitVec 4
  ty : EType
  sub : BitVec 6
  off : BitVec 32
  deriving DecidableEq, Repr

/-- Near-memory format NC, Table 2-16, without op6 and the fields that must be zero. -/
structure NC where
  wa : BitVec 4
  wb : BitVec 4
  cond : BitVec 3
  ty : EType
  sub : BitVec 6
  cnt : BitVec 16
  off : BitVec 16
  deriving DecidableEq, Repr

/-- Who asks the walker for a translation (R223): a stream of a group, or an engine or matrix command by its number. -/
inductive Requester where
  | scalar (core slot : Nat)
  | lane (core slot : Nat)
  | command (id : Nat)
  deriving DecidableEq, Repr

/-- A walk request (R223): requester, address, access kind code of Table 9-3, user mode, context. -/
structure WalkReq where
  who : Requester
  va : Word
  kind : BitVec 2
  user : Bool
  ctx : Nat
  deriving DecidableEq, Repr

/-- What a mailbox command carries beside its operands: its slot, TAG and the fields that must be zero or give a length (Table 20-2). -/
structure MbHdr where
  slot : Nat
  tag : W32
  /-- Bits 31:14 of the command. -/
  rz : BitVec 18
  /-- Bits 95:64 and 511:96 of a command that uses the operand buffer. -/
  len : W32
  rest : BitVec 416
  deriving DecidableEq, Repr

/-- The state that a signed configuration record fixes at reset (R276): the units present (Table 10-12). -/
structure Capability where
  dies : BitVec 8
  hbmStacks : BitVec 32
  hubs : BitVec 2
  links : BitVec 18
  cxl : BitVec 4
  /-- Cores present, 256 bits per die from die 0. -/
  cores : BitVec 2048
  /-- Vaults present, 64 bits per die from die 0. -/
  vaults : BitVec 512
  /-- Pseudo-channels present, 128 bits per stack from stack 0. -/
  pcs : BitVec 4096
  deriving DecidableEq, Repr

/-- A firmware image in flash (R419): its bytes, its version, whether its signature verifies. -/
structure FwImage where
  bytes : List Byte
  version : Nat
  signed : Bool
  deriving DecidableEq, Repr

/-- A configuration record in flash (R276, R420): which one it is, its version, whether its signature verifies, the units that it
leaves enabled, whether it enables memory encryption (R230). -/
structure CfgRecord where
  id : Nat
  version : Nat
  signed : Bool
  units : Capability
  encryption : Bool
  deriving DecidableEq, Repr

/-- What the management controller reads from flash at a reset: firmware images, configuration records (R419, R420). -/
structure Boot where
  images : List FwImage
  records : List CfgRecord
  deriving DecidableEq, Repr

/-- A message on a fabric flow (R272, R417): its sequence number, its step tag, a write at a physical address of the receiver, poison. -/
structure FabricMsg where
  flow : Nat
  seq : Nat
  tag : Nat
  addr : Nat
  bytes : List Byte
  poisoned : Bool
  deriving DecidableEq, Repr

/-- One member's contribution to a collective step (R315): its elements in element order, and those that arrive poisoned (R248). -/
structure Contribution where
  elems : List W32
  bad : List Nat
  deriving DecidableEq, Repr

/-- One constructor for each row of spec/opcode_table.json. -/
inductive Instr where
  /-- ADD (R281). Writes the 64-bit wrapping sum of sa and sb to sd. -/
  | add (d a b : SReg)
  /-- SUB (R281). Writes sa minus sb, wrapping, to sd. -/
  | sub (d a b : SReg)
  /-- MUL (R281). Writes the low 64 bits of sa times sb to sd. -/
  | mul (d a b : SReg)
  /-- MULH (R281). Writes the high 64 bits of the signed 128-bit product to sd. -/
  | mulh (d a b : SReg)
  /-- MULHZ (R281). Writes the high 64 bits of the unsigned 128-bit product to sd. -/
  | mulhz (d a b : SReg)
  /-- DIV (R281). Writes the signed quotient truncated toward zero, with defined results for a zero divisor and overflow. -/
  | div (d a b : SReg)
  /-- DIVZ (R281). Writes the unsigned quotient, all ones for a zero divisor. -/
  | divz (d a b : SReg)
  /-- REM (R281). Writes the signed remainder with the sign of the dividend. -/
  | rem (d a b : SReg)
  /-- REMZ (R281). Writes the unsigned remainder, sa for a zero divisor. -/
  | remz (d a b : SReg)
  /-- AND (R281). Writes the bitwise AND of sa and sb to sd. -/
  | and (d a b : SReg)
  /-- OR (R281). Writes the bitwise OR of sa and sb to sd. -/
  | or (d a b : SReg)
  /-- XOR (R281). Writes the bitwise XOR of sa and sb to sd. -/
  | xor (d a b : SReg)
  /-- ANDN (R281). Writes sa AND NOT sb to sd. -/
  | andn (d a b : SReg)
  /-- SHL (R281). Shifts sa left by sb[5:0]. -/
  | shl (d a b : SReg)
  /-- SHR (R281). Shifts sa logically right by sb[5:0]. -/
  | shr (d a b : SReg)
  /-- SAR (R281). Shifts sa arithmetically right by sb[5:0]. -/
  | sar (d a b : SReg)
  /-- ROTR (R281). Rotates sa right by sb[5:0]. -/
  | rotr (d a b : SReg)
  /-- MIN (R281). Writes the signed minimum of sa and sb. -/
  | min (d a b : SReg)
  /-- MAX (R281). Writes the signed maximum of sa and sb. -/
  | max (d a b : SReg)
  /-- MINZ (R281). Writes the unsigned minimum of sa and sb. -/
  | minz (d a b : SReg)
  /-- MAXZ (R281). Writes the unsigned maximum of sa and sb. -/
  | maxz (d a b : SReg)
  /-- SLT (R281). Writes 1 if sa is less than sb signed, else 0. -/
  | slt (d a b : SReg)
  /-- SLTZ (R281). Writes 1 if sa is less than sb unsigned, else 0. -/
  | sltz (d a b : SReg)
  /-- CLZ (R281). Writes the count of leading zero bits of sa, 64 for zero. -/
  | clz (d a : SReg)
  /-- POPC (R281). Writes the count of set bits of sa. -/
  | popc (d a : SReg)
  /-- SEXT_B (R281). Sign-extends the low 8 bits of sa. -/
  | sextB (d a : SReg)
  /-- SEXT_H (R281). Sign-extends the low 16 bits of sa. -/
  | sextH (d a : SReg)
  /-- SEXT_W (R281). Sign-extends the low 32 bits of sa. -/
  | sextW (d a : SReg)
  /-- ZEXT_B (R281). Zero-extends the low 8 bits of sa. -/
  | zextB (d a : SReg)
  /-- ZEXT_H (R281). Zero-extends the low 16 bits of sa. -/
  | zextH (d a : SReg)
  /-- ZEXT_W (R281). Zero-extends the low 32 bits of sa. -/
  | zextW (d a : SReg)
  /-- SEL (R282). Writes sa to sd when sc is non-zero and sb otherwise. -/
  | sel (d a b c : SReg)
  /-- ADDI (R283). Adds the sign-extended 12-bit immediate to sa. -/
  | addi (d a : SReg) (imm : BitVec 12)
  /-- ANDI (R283). ANDs sa with the sign-extended immediate. -/
  | andi (d a : SReg) (imm : BitVec 12)
  /-- ORI (R283). ORs sa with the sign-extended immediate. -/
  | ori (d a : SReg) (imm : BitVec 12)
  /-- XORI (R283). XORs sa with the sign-extended immediate. -/
  | xori (d a : SReg) (imm : BitVec 12)
  /-- SHLI (R283). Shifts sa left by an immediate amount 0 to 63. -/
  | shli (d a : SReg) (n : BitVec 6)
  /-- SHRI (R283). Shifts sa logically right by an immediate amount. -/
  | shri (d a : SReg) (n : BitVec 6)
  /-- SARI (R283). Shifts sa arithmetically right by an immediate amount. -/
  | sari (d a : SReg) (n : BitVec 6)
  /-- SLTI (R283). Writes 1 if sa is less than the signed immediate. -/
  | slti (d a : SReg) (imm : BitVec 12)
  /-- LHI (R284). Writes the sign-extended imm20 shifted left by 12 to sd. -/
  | lhi (d : SReg) (imm : BitVec 20)
  /-- PCHI (R284). Writes the word's address plus the sign-extended imm20 shifted left by 12. -/
  | pchi (d : SReg) (imm : BitVec 20)
  /-- LDS (R285). Loads a sign-extended value of the size in sub2 from global or stack memory. -/
  | lds (d a : SReg) (z : Size) (imm : BitVec 12)
  /-- LDZ (R285). Loads a zero-extended value of the size in sub2. -/
  | ldz (d a : SReg) (z : Size) (imm : BitVec 12)
  /-- ST (R285). Stores the low bytes of sd to memory, counted on GLB or STK. -/
  | st (d a : SReg) (z : Size) (imm : BitVec 12)
  /-- SATOM_W (R287). Performs a scoped 32-bit atomic at the memory side and returns the old value. -/
  | satomW (d a b : SReg) (op : AtomOp) (scope : BitVec 5)
  /-- SATOM_D (R287). Performs a scoped 64-bit atomic at the memory side and returns the old value. -/
  | satomD (d a b : SReg) (op : AtomOp) (scope : BitVec 5)
  /-- B (R289). Branches to the word offset off26. -/
  | b (off : BitVec 26)
  /-- CALL (R289). Writes the return address to s62 and branches by off26. -/
  | call (off : BitVec 26)
  /-- BC_EQ (R289). Branches when sa equals sb. -/
  | bcEq (a b : SReg) (off : BitVec 11)
  /-- BC_NE (R289). Branches when sa differs from sb. -/
  | bcNe (a b : SReg) (off : BitVec 11)
  /-- BC_LT (R289). Branches when sa is less than sb, signed. -/
  | bcLt (a b : SReg) (off : BitVec 11)
  /-- BC_GE (R289). Branches when sa is at least sb, signed. -/
  | bcGe (a b : SReg) (off : BitVec 11)
  /-- BC_LTZ (R289). Branches when sa is less than sb, unsigned. -/
  | bcLtz (a b : SReg) (off : BitVec 11)
  /-- BC_GEZ (R289). Branches when sa is at least sb, unsigned. -/
  | bcGez (a b : SReg) (off : BitVec 11)
  /-- CALLR (R289). Reads sa, writes the return address to s62 and jumps to the value read. -/
  | callr (a : SReg)
  /-- RET (R289). Jumps to the address held in s62. -/
  | ret
  /-- JR (R289). Jumps to the address in sa. -/
  | jr (a : SReg)
  /-- LISSUE (R290). Appends a lane block, with a copy of k0-k15, to the group's lane queue. -/
  | lissue (n : BitVec 6) (blk : BitVec 20)
  /-- LQWAIT (R291). Acts as a join and completes once the lane queue is empty. -/
  | lqwait
  /-- MOVK (R292). Writes sa to the live uniform register kN. -/
  | movk (k : BitVec 4) (a : SReg)
  /-- SPOP (R293). Removes the oldest return-slot value into sd, stalling while the slot is empty. -/
  | spop (d : SReg)
  /-- REGROUP (R294). Team-wide rendezvous that redistributes lanes among the team's groups by key. -/
  | regroup (v : VReg)
  /-- BAR (R295). Arrives at the team barrier and waits for the phase. -/
  | bar (d : SReg)
  /-- BARARRIVE (R295). Arrives at the team barrier and continues. -/
  | bararrive (d : SReg)
  /-- BARWAIT (R295). Waits for the phase of the group's pending barrier arrival. -/
  | barwait (d : SReg)
  /-- FENCE (R164). Full fence at the named scope, acting as a join. -/
  | fence (scope : BitVec 5)
  /-- FENCE_ACQ (R164). Acquire fence at the named scope. -/
  | fenceAcq (scope : BitVec 5)
  /-- FENCE_REL (R164). Release fence at the named scope. -/
  | fenceRel (scope : BitVec 5)
  /-- WAITP (R149). Waits until the named path's in-flight counter falls to the threshold in sa. -/
  | waitp (p : Path) (a : SReg)
  /-- WAITG (R179). Waits on a task, engine-command or group handle with a timeout and writes a status. -/
  | waitg (d a b : SReg)
  /-- WAITG_TIMEOUT (R179). A WAITG's timeout count expires and it writes TIMEOUT. -/
  | waitgTimeout (core slot : Nat)
  /-- YIELD (R298). Moves the group to PENDING if another ready PENDING group exists. -/
  | yield
  /-- SLEEP (R299). Makes the group WAITING for the number of cycles in sa. -/
  | sleep (a : SReg)
  /-- SLEEP_EXPIRY (R299). A SLEEP's cycle count expires and the group becomes PENDING. -/
  | sleepExpiry (core slot : Nat)
  /-- FNFENCE (R126). Waits until every earlier FLOAD of the group has switched. -/
  | fnfence
  /-- RACQ (R300). Acquires an extended register block of 64 to 512 rows from the team's reservation. -/
  | racq (n : Rows)
  /-- RREL (R300). Frees the group's extended register block after its pending writes complete. -/
  | rrel
  /-- TLAUNCH (R318). Releases an Almanac record of the context with a MODULE-scope decrement and returns its task handle. -/
  | tlaunch (d a : SReg)
  /-- GEXIT (R319). Drains the group's work and ends it in EXITED. -/
  | gexit
  /-- GROUP_EXIT_COMPLETE (R319). Once its queue, counters, near-memory atomics and batches drain, the exiting group releases and becomes EXITED. -/
  | groupExitComplete (core slot : Nat)
  /-- TRETIRE (R320). Exits the group and stops and drains every other group of its team, retiring the team. -/
  | tretire
  /-- MLOOP (R302). Issues a matrix command accumulating K-blocks of A and B into an accumulator. -/
  | mloop (a : SReg)
  /-- MSTORE (R305). Issues a matrix command converting an accumulator and storing it to memory. -/
  | mstore (a : SReg)
  /-- MZERO (R307). Writes +0 to every element of an accumulator in stream order and clears its poison mark. -/
  | mzero (acc : BitVec 2) (stream : BitVec 3)
  /-- MFENCE (R308). Closes the group's matrix commands into a numbered batch. -/
  | mfence (d : SReg)
  /-- MWAIT (R308). Waits until a batch and all earlier batches are complete, raising any fault of them. -/
  | mwait (a : SReg)
  /-- MATRIX_COMMAND_COMPLETE (R301). A matrix command finishes its K-steps or stores, completing its batch when it is the last. -/
  | matrixCommandComplete (core cmd : Nat)
  /-- BFQPOST (R309). Enters an A row into the die's batch-forming queue and returns a ticket. -/
  | bfqpost (d a b : SReg)
  /-- BFQWAIT (R310). Waits until the results of a ticket are written. -/
  | bfqwait (a : SReg)
  /-- BATCH_FORM_TIMEOUT (R206). The oldest row of an identifier has waited 2048 cycles and a batch forms from every row present. -/
  | batchFormTimeout (die : Nat) (wid : Word)
  /-- BATCH_COMPLETE (R207). A formed batch's results are written to its posters' records, or NaN when no core registered the identifier. -/
  | batchComplete (die batch : Nat)
  /-- COPY (R312). Starts an engine copy of LEN bytes between global or vault operands. -/
  | copy (d a : SReg)
  /-- GATHER (R313). Starts an engine gather of table rows chosen by an index array. -/
  | gather (d a : SReg)
  /-- MCAST (R314). Starts an engine multicast from global memory into the windows of several teams. -/
  | mcast (d a : SReg)
  /-- COLL (R315). Starts one collective step of a host-set-up domain. -/
  | coll (d a : SReg)
  /-- NMLAUNCH (R316). Starts a near-memory program on an SDUE. -/
  | nmlaunch (d a : SReg)
  /-- ENGINE_COMMAND_COMPLETE (R154). An engine command has performed all its writes; its range locks are released and its ENG count falls. -/
  | engineCommandComplete (cmd : Nat)
  /-- COLLECTIVE_STEP_COMPLETE (R315). A collective step combines every member's sources and advances the domain's step count. -/
  | collectiveStepComplete (cmd : Nat) (members : List Contribution)
  /-- JRNL_ADD (R317). Appends a (node, counter, increment) entry to the die's count journal. -/
  | jrnlAdd (a b : SReg)
  /-- JRNL_COMMIT (R317). Applies and removes every journal entry of a node across the module as atomic adds. -/
  | jrnlCommit (a : SReg)
  /-- JRNL_DROP (R317). Removes a node's journal entries without applying them. -/
  | jrnlDrop (a : SReg)
  /-- TRAP (R321). Raises SOFTWARE with FAULTVA set from sa. -/
  | trap (a : SReg)
  /-- ERET (R238). Returns from the supervisor handler, performing any requested service and replaying the trapped word. -/
  | eret
  /-- BKPT (R321). Raises BREAKPOINT. -/
  | bkpt
  /-- TLBFILL (R224). Ends a walk request, installing the translation or faulting or freezing the requester. -/
  | tlbfill (a b : SReg)
  /-- TLBINV (R225). Invalidates one page or every page of the context in every TLB and waits for accesses through them. -/
  | tlbinv (a b : SReg)
  /-- FLOAD (R120). Reads and checks a function image and holds it aside for a function register. -/
  | fload (bank : Bool) (fn : BitVec 4) (a : SReg)
  /-- SETFMT (R322). Writes FMT from sa at its lane-queue position. -/
  | setfmt (a : SReg)
  /-- RNGSEED (R134). Sets RNGKEY and the draw index at its lane-queue position. -/
  | rngseed (a b : SReg)
  /-- CSRR (R323). Reads a control register into sd. -/
  | csrr (d : SReg) (r : BitVec 12)
  /-- CSRW (R323). Writes sa to a control register. -/
  | csrw (a : SReg) (r : BitVec 12)
  /-- CSRX (R323). Reads a control register into sd and writes sa to it. -/
  | csrx (d a : SReg) (r : BitVec 12)
  /-- LANE_QUEUE_SCALAR_EFFECT (R279). A SETFMT, RNGSEED or CSRW of FMT, RNGKEY or SLIM takes effect when the lane stream reaches its queue position. -/
  | laneQueueScalarEffect
  /-- FUNCTION_REGISTER_SWITCH (R123). A checked FLOAD image becomes the register's version when the lane stream reaches the FLOAD's position. -/
  | functionRegisterSwitch
  /-- FADD (R332). Lane floating-point addition rounded RNE with scale and clamp. -/
  | fadd (w : L3)
  /-- FSUB (R332). Lane floating-point subtraction. -/
  | fsub (w : L3)
  /-- FMUL (R332). Lane floating-point multiplication. -/
  | fmul (w : L3)
  /-- FFMA (R332). Lane fused multiply-add with one rounding. -/
  | ffma (w : L3)
  /-- FMIN (R332). Lane floating-point minimum by Table 4-8. -/
  | fmin (w : L3)
  /-- FMAX (R332). Lane floating-point maximum by Table 4-8. -/
  | fmax (w : L3)
  /-- FCMP (R333). Writes a floating-point comparison into a mask register. -/
  | fcmp (w : L3)
  /-- FSEL (R334). Selects a or b per lane by a mask bit. -/
  | fsel (w : L3)
  /-- FCLASS (R335). Writes a one-hot classification of the source. -/
  | fclass (w : L3)
  /-- FTRUNC (R336). Rounds toward zero to an integral value. -/
  | ftrunc (w : L3)
  /-- FROUND (R336). Rounds to an integral value by the encoded mode. -/
  | fround (w : L3)
  /-- APPLY (R116). Evaluates a bound function register per lane. -/
  | apply (w : L3)
  /-- APPLYD (R116). Evaluates the derivative polynomial of a function register per lane. -/
  | applyd (w : L3)
  /-- APPLY2 (R116). Evaluates value and derivative of a function register into a pair. -/
  | apply2 (w : L3)
  /-- OSMAX (R129). Online-softmax update of a (max, sum) pair with a new value. -/
  | osmax (w : L3)
  /-- OSMERGE (R129). Merges a second online-softmax pair into the destination pair. -/
  | osmerge (w : L3)
  /-- OSNORM (R130). Normalises a value by an online-softmax pair. -/
  | osnorm (w : L3)
  /-- IADD (R338). Lane integer addition, wrapping or saturating. -/
  | iadd (w : L3)
  /-- ISUB (R338). Lane integer subtraction. -/
  | isub (w : L3)
  /-- IMUL (R338). Lane integer multiplication, low part. -/
  | imul (w : L3)
  /-- IMULH (R338). Lane integer multiplication, high half. -/
  | imulh (w : L3)
  /-- IMAD (R338). Lane integer multiply-add. -/
  | imad (w : L3)
  /-- IMIN (R338). Lane integer minimum. -/
  | imin (w : L3)
  /-- IMAX (R338). Lane integer maximum. -/
  | imax (w : L3)
  /-- LANE_AND (R339). Lane bitwise AND. -/
  | laneAnd (w : L3)
  /-- LANE_OR (R339). Lane bitwise OR. -/
  | laneOr (w : L3)
  /-- LANE_XOR (R339). Lane bitwise XOR. -/
  | laneXor (w : L3)
  /-- LANE_SHL (R339). Lane shift left. -/
  | laneShl (w : L3)
  /-- LANE_SHR (R339). Lane logical shift right. -/
  | laneShr (w : L3)
  /-- LANE_SAR (R339). Lane arithmetic shift right. -/
  | laneSar (w : L3)
  /-- BFX (R340). Extracts a bit field. -/
  | bfx (w : L3)
  /-- BFI (R340). Inserts a bit field. -/
  | bfi (w : L3)
  /-- LANE_POPC (R341). Counts set bits per lane. -/
  | lanePopc (w : L3)
  /-- LANE_CLZ (R341). Counts leading zero bits per lane. -/
  | laneClz (w : L3)
  /-- BREV (R341). Reverses the bits of each lane's element. -/
  | brev (w : L3)
  /-- ICMP (R342). Writes an integer comparison into a mask register. -/
  | icmp (w : L3)
  /-- ISEL (R342). Selects bits of a or b per lane by a mask bit. -/
  | isel (w : L3)
  /-- MOV (R343). Copies a register's bits per lane. -/
  | mov (w : L3)
  /-- MOVI (R343). Writes a 22-bit immediate per lane. -/
  | movi (w : L3)
  /-- CVT (R344). Converts between element types by FMT.RND. -/
  | cvt (w : L3)
  /-- QBLK (R345). Quantises blocks of 32 lanes to MX element codes and side entries. -/
  | qblk (w : L3)
  /-- DQBLK (R346). Dequantises an MX element code with its side entry. -/
  | dqblk (w : L3)
  /-- FKEY (R347). Maps floating-point bits to an order-preserving unsigned key. -/
  | fkey (w : L3)
  /-- FUNKEY (R347). Maps a sort key back to floating-point bits. -/
  | funkey (w : L3)
  /-- XBFLY (R352). Butterfly exchange between lanes at a distance, plain, lo or hi. -/
  | xbfly (w : L3)
  /-- XPERM (R353). Permutes lanes by per-lane source indices. -/
  | xperm (w : L3)
  /-- XBCAST (R353). Broadcasts one lane's value to every active lane. -/
  | xbcast (w : L3)
  /-- XSCAN (R354). Computes an inclusive or exclusive, optionally segmented, prefix across lanes. -/
  | xscan (w : L3)
  /-- XRED (R356). Reduces across lanes and writes the total to every active lane. -/
  | xred (w : L3)
  /-- VOTE (R357). Writes any, all or ballot of a predicate into a mask register. -/
  | vote (w : L3)
  /-- SAMPLE (R132). Selects a lane index by weight using a prefix-sum tree. -/
  | sample (w : L3)
  /-- LRET (R358). Pushes one 64-bit value into the group's return slot. -/
  | lret (w : L3)
  /-- MAND (R359). ANDs two mask registers. -/
  | mand (w : L3)
  /-- MOR (R359). ORs two mask registers. -/
  | mor (w : L3)
  /-- MNOT (R359). Inverts a mask register. -/
  | mnot (w : L3)
  /-- MPOP (R359). Writes the population count of a mask to each active lane. -/
  | mpop (w : L3)
  /-- RAND (R133). Writes Philox draws per lane and advances the draw index. -/
  | rand (w : L3)
  /-- VLD (R362). Lane load from vault, global, stack or fabric path. -/
  | vld (w : LM)
  /-- VST (R362). Lane store to vault, global, stack or fabric path. -/
  | vst (w : LM)
  /-- VLDV (R363). Loads a short vector of N elements per lane. -/
  | vldv (w : LM)
  /-- VSTV (R363). Stores a short vector of N elements per lane. -/
  | vstv (w : LM)
  /-- VLDM (R364). Loads N registers per lane in ascending order with restartable progress. -/
  | vldm (w : LM)
  /-- VSTM (R364). Stores N registers per lane in ascending order with restartable progress. -/
  | vstm (w : LM)
  /-- VATOM (R365). Performs one memory-side read-modify-write per active lane, optionally returning the old value. -/
  | vatom (w : LM)
  /-- VATOMV (R366). Folds lanes of equal address and performs one return-free RMW per distinct address. -/
  | vatomv (w : LM)
  /-- VPREF (R367). Prefetches lines into the L1 data cache without faulting. -/
  | vpref (w : LM)
  /-- NMATOM (R369). Sends a return-free atomic per lane to the SDUE of the line's stack. -/
  | nmatom (w : LM)
  /-- NMFENCE (R370). Holds the lane stream until every earlier NMATOM of the group is performed. -/
  | nmfence (w : L3)
  /-- RPF (R371). Names the registers the fast-buffer partition holds and reloads them. -/
  | rpf (w : L3)
  /-- ACCRD (R372). Reads accumulator elements at per-lane positions. -/
  | accrd (w : L3)
  /-- ACCWR (R373). Writes or adds per-lane values into accumulator positions. -/
  | accwr (w : L3)
  /-- IF (R377). Pushes an IF entry and narrows EM by a mask. -/
  | ifWord (w : L3)
  /-- ELSE (R377). Switches EM to the lanes awaiting ELSE and restores FMT. -/
  | elseWord (w : L3)
  /-- ENDIF (R377). Restores EM and FMT and pops the entry. -/
  | endifWord (w : L3)
  /-- LOOPANY (R377). Pushes a LOOP entry recording the loop body. -/
  | loopany (w : L3)
  /-- BREAKIF (R377). Removes masked lanes from EM until the loop's ENDLOOP. -/
  | breakif (w : L3)
  /-- ENDLOOP (R377). Branches back while any lane remains, else restores EM and pops. -/
  | endloop (w : L3)
  /-- EXMR (R377). Copies EM into a mask register. -/
  | exmr (w : L3)
  /-- EXMW (R377). Writes EM from a mask limited by the enclosing entry. -/
  | exmw (w : L3)
  /-- PAIR_FADD_F32 (R73). Slot X FP32 addition of a pair word. -/
  | pairFaddF32 (p : PairX)
  /-- PAIR_FSUB_F32 (R73). Slot X FP32 subtraction. -/
  | pairFsubF32 (p : PairX)
  /-- PAIR_FMUL_F32 (R73). Slot X FP32 multiplication. -/
  | pairFmulF32 (p : PairX)
  /-- PAIR_FMAC_F32 (R73). Slot X FP32 multiply-accumulate into vd. -/
  | pairFmacF32 (p : PairX)
  /-- PAIR_FMIN_F32 (R73). Slot X FP32 minimum. -/
  | pairFminF32 (p : PairX)
  /-- PAIR_FMAX_F32 (R73). Slot X FP32 maximum. -/
  | pairFmaxF32 (p : PairX)
  /-- PAIR_FADD_F16 (R73). Slot X FP16 addition. -/
  | pairFaddF16 (p : PairX)
  /-- PAIR_FSUB_F16 (R73). Slot X FP16 subtraction. -/
  | pairFsubF16 (p : PairX)
  /-- PAIR_FMUL_F16 (R73). Slot X FP16 multiplication. -/
  | pairFmulF16 (p : PairX)
  /-- PAIR_FMAC_F16 (R73). Slot X FP16 multiply-accumulate. -/
  | pairFmacF16 (p : PairX)
  /-- PAIR_IADD_S32 (R73). Slot Y integer addition. -/
  | pairIaddS32 (p : PairY)
  /-- PAIR_ISUB_S32 (R73). Slot Y integer subtraction. -/
  | pairIsubS32 (p : PairY)
  /-- PAIR_AND_B32 (R73). Slot Y bitwise AND. -/
  | pairAndB32 (p : PairY)
  /-- PAIR_OR_B32 (R73). Slot Y bitwise OR. -/
  | pairOrB32 (p : PairY)
  /-- PAIR_XOR_B32 (R73). Slot Y bitwise XOR. -/
  | pairXorB32 (p : PairY)
  /-- PAIR_SHL_B32 (R73). Slot Y shift left. -/
  | pairShlB32 (p : PairY)
  /-- PAIR_SHR_B32 (R73). Slot Y logical shift right. -/
  | pairShrB32 (p : PairY)
  /-- PAIR_SAR_S32 (R73). Slot Y arithmetic shift right. -/
  | pairSarS32 (p : PairY)
  /-- PAIR_IMIN_S32 (R73). Slot Y integer minimum. -/
  | pairIminS32 (p : PairY)
  /-- PAIR_IMAX_S32 (R73). Slot Y integer maximum. -/
  | pairImaxS32 (p : PairY)
  /-- PAIR_MOV_B32 (R73). Slot Y register move. -/
  | pairMovB32 (p : PairY)
  /-- PAIR_CVT_F32_S32 (R73). Slot Y conversion of .s32 to FP32. -/
  | pairCvtF32S32 (p : PairY)
  /-- PAIR_CVT_S32_F32 (R73). Slot Y conversion of FP32 to .s32 with FMT rounding. -/
  | pairCvtS32F32 (p : PairY)
  /-- PAIR_FKEY_F32 (R73). Slot Y FP32 sort-key mapping. -/
  | pairFkeyF32 (p : PairY)
  /-- PAIR_XBFLY_B32 (R73). Slot Y plain butterfly exchange with distance in vb. -/
  | pairXbflyB32 (p : PairY)
  /-- NLD (R384). Near-memory load of L x 64 bytes into a wide register. -/
  | nld (w : NM)
  /-- NST (R384). Near-memory store of L x 64 bytes from a wide register. -/
  | nst (w : NM)
  /-- NFADD (R382). Element-wise floating-point addition on wide registers. -/
  | nfadd (w : NA)
  /-- NFMUL (R382). Element-wise floating-point multiplication. -/
  | nfmul (w : NA)
  /-- NFMA (R382). Element-wise fused multiply-add. -/
  | nfma (w : NA)
  /-- NFMAX (R382). Element-wise floating-point maximum. -/
  | nfmax (w : NA)
  /-- NFMIN (R382). Element-wise floating-point minimum. -/
  | nfmin (w : NA)
  /-- NAPPLY (R382). Checks an image held in wide registers and evaluates it per element. -/
  | napply (w : NA)
  /-- NCVT (R382). Converts elements between types with an encoded rounding mode. -/
  | ncvt (w : NA)
  /-- NSCALE (R382). Scales elements by a power of two. -/
  | nscale (w : NA)
  /-- NATOM (R384). Applies atomic add, min or max per element to memory. -/
  | natom (w : NM)
  /-- NLOCK (R386). Takes a 2 KiB lock row in ascending order, waiting while another SDUE holds it. -/
  | nlock (w : NM)
  /-- NUNLOCK (R386). Releases a held lock row after its stores perform. -/
  | nunlock (w : NM)
  /-- NLOOP_SET (R385). Sets a loop counter. -/
  | nloopSet (w : NC)
  /-- NLOOP_STEP (R385). Decrements a loop counter and branches while non-zero. -/
  | nloopStep (w : NC)
  /-- NBR (R385). Branches on a comparison of element 0 of two wide registers. -/
  | nbr (w : NC)
  /-- NEND (R385). Waits for stores, releases locks, writes the flag word and completes the program. -/
  | nend (w : NC)
  /-- NSIGNAL (R385). Decrements an Almanac record's counter at MODULE scope after earlier stores. -/
  | nsignal (w : NM)
  /-- NMOV (R383). Copies a wide register or fills it with an immediate. -/
  | nmov (w : NA)
  /-- NIADD (R383). Element-wise wrapping integer addition. -/
  | niadd (w : NA)
  /-- NCMP (R383). Element-wise comparison producing all-ones or zero. -/
  | ncmp (w : NA)
  /-- NSEL (R383). Element-wise selection by a third wide register. -/
  | nsel (w : NA)
  /-- NWAIT (R385). Polls a memory value until it reaches a bound. -/
  | nwait (w : NM)
  /-- NWAIT_EXPIRY (R385). An NWAIT's 2^20-cycle limit expires and it writes all ones. -/
  | nwaitExpiry (stack sdue : Nat)
  /-- NM_PROGRAM_START (R378). An SDUE takes the next delivered near-memory program and initialises its state. -/
  | nmProgramStart (stack sdue : Nat)
  /-- NMATOM_PERFORM (R369). An SDUE performs a queued near-memory atomic between program words. -/
  | nmatomPerform (stack n : Nat)
  /-- DEPCNT_DECREMENT (R185). A host FetchAdd of minus one on an Almanac record's dependency counter. -/
  | depcntDecrement (ctx index : Nat)
  /-- ALMANAC_RECORD_WRITE (R412). A posted host write of record bytes through BAR2. -/
  | almanacRecordWrite (ctx index offset : Nat) (bytes : List Byte)
  /-- RECORD_CHECK (R184). The walker checks a READY record and queues it at its priority or fails it. -/
  | recordCheck (ctx index : Nat)
  /-- RECORD_AGING (R188). A record that has waited AGE cycles moves to the tail of the next higher priority queue. -/
  | recordAging (die level : Nat)
  /-- HEAD_BLOCKING (R189). A queue head that failed placement for AGE cycles becomes blocking. -/
  | headBlocking (die level : Nat)
  /-- PLACEMENT_STEP (R189). The distributor scans queue heads and places the first that fits. -/
  | placementStep
  /-- TEAM_RETIREMENT (R191). When every group has exited, halted or frozen, the team's resources are freed. -/
  | teamRetirement (ctx index team : Nat)
  /-- COMMIT_PUBLISH (R258). When a commit task's last team retires, its sealed windows are checked and written as one event. -/
  | commitPublish (ctx index : Nat)
  /-- COMMIT_ABORT (R259). A commit task whose group ends by a fault is stopped, its windows discarded and the record relaunched or failed. -/
  | commitAbort (ctx index : Nat)
  /-- VIGIL_REPLAY (R262). A selected task is replayed team by team on another cluster. -/
  | vigilReplay (ctx index : Nat)
  /-- VIGIL_VERDICT (R263). Replay signatures are compared and a verdict written to the audit array. -/
  | vigilVerdict (ctx index : Nat)
  /-- GROUP_SWAP (R194). A vacant active-set place is filled by the oldest fitting PENDING group. -/
  | groupSwap (core : Nat)
  /-- STARVATION_FLAG (R194). A PENDING group unissued for STARVE cycles is flagged starved. -/
  | starvationFlag (core slot : Nat)
  /-- FORCED_SWAP (R194). A starved group waiting STARVE further cycles forces younger active groups out. -/
  | forcedSwap (core : Nat)
  /-- DEPENDENCE_RESOLVED (R14). A WAITING group's dependence resolves and it returns to PENDING. -/
  | dependenceResolved (core slot : Nat)
  /-- COMPACTION (R193). The core parks groups, moves register blocks to aligned rows and releases them. -/
  | compaction (core : Nat)
  /-- TEAM_SAVE (R198). A team is stopped, drained and written to the save area, then becomes SAVED. -/
  | teamSave (ctx index team : Nat)
  /-- TEAM_RESTORE (R199). A saved team is restored on its original core and its groups become PENDING. -/
  | teamRestore (ctx index team : Nat)
  /-- FP_SUBNORMAL_ASSIST (R104). The cluster control core computes exact subnormal results for the parked group and resumes it. -/
  | fpSubnormalAssist (core slot : Nat)
  /-- WALK_REQUEST (R223). A TLB miss starts the walker routine in slot 47. -/
  | walkRequest (core : Nat) (req : WalkReq)
  /-- PAGE_REQUEST_RESPONSE (R240). The host's page-request response arrives and the access replays or re-enters the handler. -/
  | pageRequestResponse (who : Requester) (ok : Bool)
  /-- ATS_INVALIDATE_REQUEST (R214). An ATS Invalidate Request completes after accesses through the translations complete. -/
  | atsInvalidateRequest (pasid : Nat) (va : Word)
  /-- ACCESS_COMPLETE (R147). A memory access completes and its path counter falls in issue order. -/
  | accessComplete (core slot : Nat) (path : Path) (n : Nat)
  /-- LOAD_DATA_ARRIVAL (R368). Load or returning-atomic data arrives and is written to the destination. -/
  | loadDataArrival (core slot : Nat) (path : Path) (n : Nat)
  /-- STACK_CACHE_WRITEBACK (R144). The stack cache writes back dirty lines before a wide release or a save. -/
  | stackCacheWriteback (core : Nat)
  /-- BATCH_TABLE_SNAPSHOT (R210). At each iteration the cluster control core snapshots its owned batch-table entries. -/
  | batchTableSnapshot (cluster ctx : Nat)
  /-- SCRUB_PASS (R265). The scrubber reads, corrects or marks each granule of formatted frames over its period. -/
  | scrubPass (stack frame granule : Nat)
  /-- BLOOM_FILTER_CLEAR (R268). On schedule the filter is cleared and EPOCH advances. -/
  | bloomFilterClear (stack : Nat)
  /-- STACK_SNAPSHOT_ACK (R273). A stack acknowledges marking its SNAP frames; when all have, the cut is taken and markers sent. -/
  | stackSnapshotAck (stack : Nat)
  /-- CUT_MARKER_RECEIVED (R271). A cut marker arrives on an enrolled flow; with all received the cut enters DRAINING. -/
  | cutMarkerReceived (flow : Nat)
  /-- SHADOW_COPY (R274). The first write to an uncopied SNAP frame waits while the SDUE copies it to a shadow. -/
  | shadowCopy (frame : Nat)
  /-- DRAIN_FRAME (R275). The drain engine sends a snapshot frame with its header over DFLOW. -/
  | drainFrame (frame : Nat)
  /-- CUT_FAILED (R271). A DFLOW error or host abort fails the cut, clearing marks and freeing shadows. -/
  | cutFailed
  /-- FABRIC_MESSAGE_ARRIVAL (R272). A fabric message arrives and is performed, held by its step tag, or refused. -/
  | fabricMessageArrival (msg : FabricMsg)
  /-- SUPPLY_SAG_TRIP (R421). A die's supply-sag detector trips and its clock drops to 8/16. -/
  | supplySagTrip (die : Nat)
  /-- SUPPLY_SAG_CLEAR (R421). The detector clears and the clock starts stepping up. -/
  | supplySagClear (die : Nat)
  /-- CLOCK_STEP_UP (R421). Every 1024 cycles the stretched clock rises by 1/16 until full speed. -/
  | clockStepUp (die : Nat)
  /-- SENSOR_SAMPLE (R420). Sensors are sampled every millisecond, raising alarms to the event queue. -/
  | sensorSample
  /-- MODULE_RESET (R419). The controller verifies firmware, applies signed configuration and releases the dies. -/
  | moduleReset (selfTest : Capability) (boot : Boot)
  /-- ATTESTATION_REQUEST (R419). A host request with a nonce has the attestation record signed. -/
  | attestationRequest (nonce : List Byte)
  /-- CREATE_CONTEXT (R212). Mailbox 0x01 creates a context or writes its descriptor. -/
  | createContext (h : MbHdr) (ctx : Nat) (desc : BitVec 1024)
  /-- RELEASE_CONTEXT (R229). Mailbox 0x02 releases a context once it has no resident group, destroying its keys. -/
  | releaseContext (h : MbHdr) (ctx : Nat)
  /-- INVALIDATE_TRANSLATIONS (R225). Mailbox 0x03 invalidates every translation of the context. -/
  | invalidateTranslations (h : MbHdr) (ctx : Nat)
  /-- GRANT_FRAMES (R228). Mailbox 0x04 grants, formats and zeroes frames. -/
  | grantFrames (h : MbHdr) (ctx frame count : Nat) (fmt : Granule)
  /-- ADD_PAGE_POOL (R228). Mailbox 0x04 adds formatted frames to the context's page pool. -/
  | addPagePool (h : MbHdr) (ctx frame count : Nat) (fmt : Granule)
  /-- ADD_SAVE_AREA_POOL (R228). Mailbox 0x04 adds formatted frames to the context's save-area pool. -/
  | addSaveAreaPool (h : MbHdr) (ctx frame count : Nat) (fmt : Granule)
  /-- REGISTER_ALMANAC_REGION (R183). Mailbox 0x05 registers the context's Almanac region. -/
  | registerAlmanacRegion (h : MbHdr) (ctx : Nat) (base : Word) (records : Nat)
  /-- PLACE_BAR2_WINDOW (R411). Mailbox 0x05 places the BAR2 aperture. -/
  | placeBar2Window (h : MbHdr) (base : Nat)
  /-- REGISTER_AUDIT_ARRAY (R263). Mailbox 0x05 registers the context's audit array. -/
  | registerAuditArray (h : MbHdr) (ctx : Nat) (base : Word)
  /-- REGISTER_BATCH_TABLE (R209). Mailbox 0x05 registers a batch table and its snapshot array. -/
  | registerBatchTable (h : MbHdr) (ctx : Nat) (base : Word) (entries : Nat) (snapshots : Word)
  /-- WRITE_SCOPE_TABLE (R151). Mailbox 0x06 writes scope-table entries. -/
  | writeScopeTable (h : MbHdr) (ctx first : Nat) (words : List W32)
  /-- PREEMPT (R197). Mailbox 0x07 requests pre-emption of a context or task. -/
  | preempt (h : MbHdr) (ctx : Nat) (task : Option Nat)
  /-- ENABLE_DISTRIBUTOR_PREEMPTION (R197). Mailbox 0x07 enables distributor pre-emption for a context. -/
  | enableDistributorPreemption (h : MbHdr) (ctx : Nat) (enable : Bool)
  /-- RELEASE_SLOT (R244). Mailbox 0x08 frees a halted or frozen group's slot. -/
  | releaseSlot (h : MbHdr) (core slot : Nat)
  /-- RELEASE_COMMAND_LOCKS (R244). Mailbox 0x08 releases a frozen command's range locks. -/
  | releaseCommandLocks (h : MbHdr) (cmd : Nat)
  /-- RESET_FLOW (R244). Mailbox 0x08 resets a frozen fabric flow. -/
  | resetFlow (h : MbHdr) (flow : Nat)
  /-- SET_UP_FLOW (R417). Mailbox 0x09 writes a fabric flow descriptor. -/
  | setUpFlow (h : MbHdr) (desc : BitVec 576)
  /-- SET_UP_DOMAIN (R418). Mailbox 0x0A sets up a collective domain with step count 0. -/
  | setUpDomain (h : MbHdr) (domain : Nat) (members flows : List Nat)
  /-- EQUINOX_ARM (R271). Mailbox 0x0B arms a cut from an arm request. -/
  | equinoxArm (h : MbHdr) (req : BitVec 512)
  /-- EQUINOX_DISARM (R271). Mailbox 0x0B disarms an armed cut. -/
  | equinoxDisarm (h : MbHdr)
  /-- EQUINOX_ACKNOWLEDGE (R271). Mailbox 0x0B acknowledges a finished cut, returning it to IDLE. -/
  | equinoxAcknowledge (h : MbHdr)
  /-- SET_AGE (R188). Mailbox 0x0C sets a die's AGE threshold. -/
  | setAge (h : MbHdr) (die value : Nat)
  /-- SET_SCRUB_PERIOD (R265). Mailbox 0x0C sets the scrub period. -/
  | setScrubPeriod (h : MbHdr) (value : Nat)
  /-- SET_FILTER_SCHEDULE (R268). Mailbox 0x0C sets the Bloom filter clearing schedule. -/
  | setFilterSchedule (h : MbHdr) (value : Nat)
  /-- SET_REPEAT_THRESHOLD (R268). Mailbox 0x0C sets the REPEAT event threshold. -/
  | setRepeatThreshold (h : MbHdr) (value : Nat)
  /-- SET_VIGIL_EXPONENT (R260). Mailbox 0x0C sets an audit class's exponent. -/
  | setVigilExponent (h : MbHdr) (cls : BitVec 4) (value : Option Nat)
  /-- MIGRATE_PAGE (R269). Mailbox 0x0D migrates a page to a new frame format. -/
  | migratePage (h : MbHdr) (ctx : Nat) (va : Word) (fmt : Granule)
  /-- READ_CAPABILITY_BLOCK (R276). Mailbox 0x0E returns the capability block. -/
  | readCapabilityBlock (h : MbHdr)
  /-- READ_PHYSICAL_MAP (R424). Mailbox 0x0E returns the physical map. -/
  | readPhysicalMap (h : MbHdr)
  /-- READ_SENSOR (R420). Mailbox 0x0E returns a sensor reading. -/
  | readSensor (h : MbHdr) (sensor : Nat)
  /-- ILLEGAL_OPCODE (R77). A scalar, lane or near-memory stream reaches a word that the opcode maps do not define, and it traps with ILLEGAL_OPCODE or ends the SDUE program. -/
  | illegalOpcode
  /-- FETCH_FAULT (R235). A scalar or lane stream reaches a word whose fetch fails translation or permission, and it raises FETCH_FAULT with EPCS or EPCL set to that word. -/
  | fetchFault
  /-- UNKNOWN_MAILBOX_OP (R413). A mailbox command whose OP is not in Table 20-3 is handed over with OWN, and the controller writes RESULT 0x03 and clears OWN. -/
  | unknownMailboxOp (h : MbHdr) (op : BitVec 8)
  deriving DecidableEq, Repr

end Sys2Proof
end

