-- ==== Sys2Proof/Decode.lean ====
section
/-! DEFINITION. The decoder of the three word sizes (02_words.md), total on every bit pattern and rejecting by the
cause that R71 to R76 name; the field rules of each entry; then the encoder, from the same tables. -/

namespace Sys2Proof

/-- Causes that a bit pattern alone can raise (R75, R76). `wrongFly` is an operation in slot X of the other class beside an XBFLY
of a distance: RESERVED_FIELD where the distance reaches the group's width (R69, R351), else PAIR_CONFLICT. -/
inductive DecodeError where
  | illegalOpcode | reservedField | pairConflict
  | wrongFly (distance : Nat)
  deriving DecidableEq, Repr

/-- What a word decodes to. A pair word whose slots are both idle is a word without an operation (R68). -/
inductive Decoded where
  | instr (i : Instr)
  | idle (look mreg : BitVec 4)
  | reject (e : DecodeError)
  deriving DecidableEq, Repr

/-- The first value under a key. -/
def lookupKey {α : Type} (k : Nat) : List (Nat × α) → Option α
  | [] => none
  | (j, a) :: rest => if j = k then some a else lookupKey k rest

/-! ### Codes -/

/-- Table 2-7. -/
def EType.ofCode (c : BitVec 4) : EType :=
  match lookupKey c.toNat [(0, .f32), (1, .f16), (2, .bf16), (3, .e4m3), (4, .e5m2), (5, .e2m1), (6, .s8), (7, .s16),
    (8, .s32), (9, .s64), (10, .z8), (11, .z16), (12, .z32), (13, .z64), (14, .b32), (15, EType.b64)] with
  | some t => t
  | none => .f32

/-- Table 2-7. -/
def EType.code : EType → BitVec 4
  | .f32 => 0 | .f16 => 1 | .bf16 => 2 | .e4m3 => 3 | .e5m2 => 4 | .e2m1 => 5 | .s8 => 6 | .s16 => 7
  | .s32 => 8 | .s64 => 9 | .z8 => 10 | .z16 => 11 | .z32 => 12 | .z64 => 13 | .b32 => 14 | .b64 => 15

/-- The three IEEE source formats that the floating-point instructions accept (R331). -/
def EType.isArith : EType → Bool
  | .f32 | .f16 | .bf16 => true
  | _ => false

/-- Any floating-point format. -/
def EType.isFloat : EType → Bool
  | .f32 | .f16 | .bf16 | .e4m3 | .e5m2 | .e2m1 => true
  | _ => false

/-- .s and .z types. -/
def EType.isInt : EType → Bool
  | .s8 | .s16 | .s32 | .s64 | .z8 | .z16 | .z32 | .z64 => true
  | _ => false

/-- Signed integer types. -/
def EType.isSigned : EType → Bool
  | .s8 | .s16 | .s32 | .s64 => true
  | _ => false

/-- Types that name an even-aligned register pair (R27, R55). -/
def EType.is64 : EType → Bool
  | .s64 | .z64 | .b64 => true
  | _ => false

/-- Bits of one element (Tables 4-1, 2-7). -/
def EType.bits : EType → Nat
  | .f32 | .s32 | .z32 | .b32 => 32
  | .f16 | .bf16 | .s16 | .z16 => 16
  | .e4m3 | .e5m2 | .s8 | .z8 => 8
  | .e2m1 => 4
  | .s64 | .z64 | .b64 => 64

/-- Bytes of one element in memory (R361). -/
def EType.bytes (t : EType) : Nat := t.bits / 8

/-- Table 2-8, op of SATOM; R365. -/
def AtomOp.ofCode (c : BitVec 3) : AtomOp :=
  match lookupKey c.toNat [(0, .add), (1, .min), (2, .max), (3, .and), (4, .or), (5, .xor), (6, .swap), (7, AtomOp.cas)] with
  | some o => o
  | none => .add

/-- Table 2-8, op of SATOM. -/
def AtomOp.code : AtomOp → BitVec 3
  | .add => 0 | .min => 1 | .max => 2 | .and => 3 | .or => 4 | .xor => 5 | .swap => 6 | .cas => 7

/-- sub2 of the scalar loads and stores (R285). -/
def Size.ofCode (c : BitVec 2) : Size :=
  match lookupKey c.toNat [(0, .b), (1, .h), (2, .w), (3, Size.d)] with
  | some z => z
  | none => .b

/-- sub2 of the scalar loads and stores (R285). -/
def Size.code : Size → BitVec 2
  | .b => 0 | .h => 1 | .w => 2 | .d => 3

/-- Path numbers, Tables 2-12 and 6-4. -/
def Path.code : Path → BitVec 3
  | .vlt => 0 | .glb => 1 | .stk => 2 | .fab => 3 | .eng => 4 | .nma => 5

/-- WAITP names paths 0 to 5 (R149). -/
def Path.ofCode (c : BitVec 3) : Option Path :=
  lookupKey c.toNat [(0, .vlt), (1, .glb), (2, .stk), (3, .fab), (4, .eng), (5, Path.nma)]

/-- fn8 of RACQ (R300). -/
def Rows.code : Rows → BitVec 8
  | .r64 => 1 | .r128 => 2 | .r256 => 3 | .r512 => 4

/-- Rows that RACQ names (R300). -/
def Rows.count : Rows → Nat
  | .r64 => 64 | .r128 => 128 | .r256 => 256 | .r512 => 512

/-- Slot X operations (Table 2-15). -/
def XOp.code : XOp → BitVec 7
  | .faddF32 => 0x01 | .fsubF32 => 0x02 | .fmulF32 => 0x03 | .fmacF32 => 0x04 | .fminF32 => 0x05 | .fmaxF32 => 0x06
  | .faddF16 => 0x09 | .fsubF16 => 0x0A | .fmulF16 => 0x0B | .fmacF16 => 0x0C

/-- Slot Y operations (Table 2-15). -/
def YOp.code : YOp → BitVec 7
  | .iadd => 0x41 | .isub => 0x42 | .and => 0x43 | .or => 0x44 | .xor => 0x45 | .shl => 0x46 | .shr => 0x47
  | .sar => 0x48 | .imin => 0x49 | .imax => 0x4A | .mov => 0x4B | .cvtF32S32 => 0x4C | .cvtS32F32 => 0x4D
  | .fkey => 0x4E | .xbfly => 0x4F

/-! ### Field rules of the lane words (R55 to R59, R64, R329 and each entry) -/

/-- A source field names a register or a listed special operand (R39, Table 1-7). -/
def srcOk (r : VReg) : Bool :=
  let n := r.toNat
  n < 640 || (640 ≤ n && n ≤ 660) || (664 ≤ n && n ≤ 671)

/-- A destination field names a register (R39). -/
def dstOk (r : VReg) : Bool := r.toNat < 640

/-- A mask field (R328): the number in bits [3:0], bits [9:4] zero. -/
def maskOk (r : VReg) : Bool := r.toNat < 16

/-- A mask destination is not m0 (R328). -/
def maskDstOk (r : VReg) : Bool := r.toNat < 16 && r.toNat != 0

/-- Only the modifier bits of `allowed` are set (R56). -/
def modsIn (w : L3) (allowed : BitVec 6) : Bool := (w.mods &&& ~~~allowed) == 0

/-- A result that may go to the register file, an A row buffer or a role queue, with its route bits (R59, R329). -/
def L3.anyConsumer (w : L3) : Bool :=
  w.cmask != 0 && w.cmask.getLsbD 3 == false
    && (!w.ty.is64 || w.cmask == 1)
    && (w.cmask.getLsbD 1 || w.route.extractLsb' 2 4 == 0)
    && (w.cmask.getLsbD 2 || w.route.extractLsb' 0 2 == 0)

/-- A result that takes the register file only (R328, R329). -/
def L3.regOnly (w : L3) : Bool := w.cmask == 1 && w.route == 0

/-- A word with no result (R59). -/
def L3.noResult (w : L3) : Bool := w.cmask == 0 && w.route == 0

/-- No clamp and no destination scale. -/
def L3.plain (w : L3) : Bool := w.clamp == 0 && w.dscale == 0

/-- FADD, FSUB, FMUL, FMIN, FMAX (Table 12-2). -/
def L3.floatTwo (w : L3) : Bool :=
  w.ty.isArith && dstOk w.vd && srcOk w.va && srcOk w.vb && w.vc == 0 && modsIn w 0x0F && w.aux == 0 && w.anyConsumer

/-- FFMA (Table 12-2). -/
def L3.floatThree (w : L3) : Bool :=
  w.ty.isArith && dstOk w.vd && srcOk w.va && srcOk w.vb && srcOk w.vc && w.aux == 0 && w.anyConsumer

/-- FCMP (R333). -/
def L3.fcmpOk (w : L3) : Bool :=
  w.ty.isArith && maskDstOk w.vd && srcOk w.va && srcOk w.vb && w.vc == 0 && modsIn w 0x0F && w.plain
    && w.aux.toNat < 8 && w.regOnly

/-- FSEL (R334). -/
def L3.fselOk (w : L3) : Bool :=
  w.ty.isArith && dstOk w.vd && srcOk w.va && srcOk w.vb && w.vc == 0 && modsIn w 0x0F && w.aux.toNat < 16 && w.anyConsumer

/-- FCLASS (R335). -/
def L3.fclassOk (w : L3) : Bool :=
  w.ty.isArith && dstOk w.vd && srcOk w.va && w.vb == 0 && w.vc == 0 && modsIn w 0x03 && w.plain && w.aux == 0 && w.anyConsumer

/-- FTRUNC with `limit` 1, FROUND with `limit` 3 (R336). -/
def L3.froundOk (w : L3) (limit : Nat) : Bool :=
  w.ty.isArith && dstOk w.vd && srcOk w.va && w.vb == 0 && w.vc == 0 && modsIn w 0x03 && w.aux.toNat < limit && w.anyConsumer

/-- Integer arithmetic (Table 12-5): the types, whether c is read, whether clamp 0b11 is accepted. -/
def L3.intOk (w : L3) (types : List EType) (three sat : Bool) : Bool :=
  types.contains w.ty && dstOk w.vd && srcOk w.va && srcOk w.vb && (if three then srcOk w.vc else w.vc == 0)
    && modsIn w (if three then 0x3F else 0x0F) && w.dscale == 0 && (w.clamp == 0 || (sat && w.clamp == 3))
    && w.aux == 0 && w.anyConsumer

/-- .s8 to .s64 and .z8 to .z64. -/
def intTypes : List EType := [.s8, .s16, .s32, .s64, .z8, .z16, .z32, .z64]

/-- Bit operations with two sources, no modifiers. -/
def L3.bitOk (w : L3) (types : List EType) (two : Bool) (aux : Bool) : Bool :=
  types.contains w.ty && dstOk w.vd && srcOk w.va && (if two then srcOk w.vb else w.vb == 0) && w.vc == 0
    && w.mods == 0 && w.plain && aux && w.anyConsumer

/-- pos + len ≤ n (R340). -/
def L3.fieldFits (w : L3) : Bool :=
  (w.aux.extractLsb' 0 6).toNat + (w.aux.extractLsb' 6 6).toNat + 1 ≤ w.ty.bits

/-- ICMP (R342, R333). -/
def L3.icmpOk (w : L3) : Bool :=
  w.ty.isInt && maskDstOk w.vd && srcOk w.va && srcOk w.vb && w.vc == 0 && w.mods == 0 && w.plain && w.aux.toNat < 6 && w.regOnly

/-- MOVI (R343): the immediate fills vc and aux. -/
def L3.moviOk (w : L3) : Bool :=
  [EType.s32, .z32, .f32].contains w.ty && dstOk w.vd && w.va == 0 && w.vb == 0 && w.mods == 0 && w.plain && w.anyConsumer

/-- The source type of CVT, QBLK and DQBLK (R344 to R346). -/
def L3.srcType (w : L3) : EType := EType.ofCode (w.aux.extractLsb' 0 4)

/-- CVT (R344). -/
def L3.cvtOk (w : L3) : Bool :=
  w.ty != .b32 && w.ty != .b64 && w.srcType != .b32 && w.srcType != .b64 && w.aux.toNat < 16
    && dstOk w.vd && srcOk w.va && w.vb == 0 && w.vc == 0 && modsIn w 0x03
    && (w.ty.isFloat || (w.dscale == 0 && (w.clamp == 0 || w.clamp == 3))) && w.anyConsumer

/-- X is legal only with .e2m1 (R345, R346). -/
def xBitOk (w : L3) (elem : EType) : Bool := !w.aux.getLsbD 4 || elem == .e2m1

/-- Element formats of MX blocks. -/
def EType.isElem : EType → Bool
  | .e4m3 | .e5m2 | .e2m1 => true
  | _ => false

/-- QBLK (R345). -/
def L3.qblkOk (w : L3) : Bool :=
  w.ty.isElem && w.srcType.isArith && w.aux.toNat < 32 && xBitOk w w.ty && dstOk w.vd && srcOk w.va && w.vb == 0 && w.vc == 0
    && modsIn w 0x03 && w.plain && w.regOnly

/-- DQBLK (R346). -/
def L3.dqblkOk (w : L3) : Bool :=
  w.ty.isArith && w.srcType.isElem && w.aux.toNat < 32 && xBitOk w w.srcType && dstOk w.vd && srcOk w.va && srcOk w.vb
    && w.vc == 0 && w.mods == 0 && w.anyConsumer

/-- APPLY, APPLYD, APPLY2 (Table 5-4). -/
def L3.applyOk (w : L3) (pair : Bool) : Bool :=
  (if pair then w.ty == .f32 && w.regOnly else w.ty.isArith && w.anyConsumer)
    && dstOk w.vd && srcOk w.va && w.vb == 0 && w.vc == 0 && modsIn w 0x03 && w.aux.toNat < 16

/-- OSMAX, OSMERGE, OSNORM (Table 5-4). A pair source is a register pair or a special operand pair is not named: R348. -/
def L3.softOk (w : L3) (norm : Bool) : Bool :=
  w.ty == .f32 && dstOk w.vd && srcOk w.va && (if norm then srcOk w.vb else w.vb == 0) && w.vc == 0 && w.mods == 0 && w.plain
    && w.aux.toNat < (if norm then 256 else 16) && w.regOnly

/-- Exchanges with a vector result (Table 12-9). -/
def L3.exchOk (w : L3) (types : List EType) (two aux : Bool) : Bool :=
  types.contains w.ty && dstOk w.vd && srcOk w.va && (if two then srcOk w.vb else w.vb == 0) && w.vc == 0 && w.mods == 0
    && w.plain && aux && w.anyConsumer

/-- .b32 and .b64. -/
def bTypes : List EType := [.b32, .b64]
/-- Types of XSCAN and XRED (Table 12-9). -/
def scanTypes : List EType := [.s32, .z32, .f32, .s64, .z64]

/-- XBFLY distances (R352). -/
def flyDistance (d : Nat) : Bool := d == 1 || d == 2 || d == 4 || d == 8 || d == 16 || d == 32

/-- XBFLY (R352). -/
def L3.xbflyOk (w : L3) : Bool :=
  let mode := (w.aux.extractLsb' 6 2).toNat
  w.exchOk bTypes (mode != 0) (flyDistance (w.aux.extractLsb' 0 6).toNat && mode != 3 && w.aux.extractLsb' 8 4 == 0)

/-- The operation of XSCAN and XRED suits the type (R354, Table 12-11). -/
def scanOpOk (op : Nat) (t : EType) : Bool := op < 6 && (t != .f32 || op < 3)

/-- XSCAN (R354). -/
def L3.xscanOk (w : L3) : Bool :=
  w.exchOk scanTypes false (scanOpOk (w.aux.extractLsb' 0 3).toNat w.ty && w.aux.extractLsb' 5 3 == 0
    && (w.aux.getLsbD 4 || w.aux.extractLsb' 8 4 == 0))

/-- XRED (R356). -/
def L3.xredOk (w : L3) : Bool := w.exchOk scanTypes false (scanOpOk w.aux.toNat w.ty)

/-- VOTE (R357). -/
def L3.voteOk (w : L3) : Bool :=
  w.ty == .b32 && maskDstOk w.vd && srcOk w.va && w.vb == 0 && w.vc == 0 && w.mods == 0 && w.plain && w.aux.toNat < 3 && w.regOnly

/-- SAMPLE (R349). -/
def L3.sampleOk (w : L3) : Bool :=
  w.ty == .s32 && dstOk w.vd && srcOk w.va && srcOk w.vb && w.vc == 0 && w.mods == 0 && w.plain && w.aux == 0 && w.regOnly

/-- LRET (R358). -/
def L3.lretOk (w : L3) : Bool :=
  w.vd == 0 && w.vb == 0 && w.vc == 0 && w.mods == 0 && w.plain && w.noResult
    && ((w.aux == 0 && bTypes.contains w.ty && srcOk w.va) || (w.aux == 1 && w.ty == .f32 && maskOk w.va))

/-- MAND, MOR, MNOT (R359). -/
def L3.maskOpOk (w : L3) (two : Bool) : Bool :=
  w.ty == .f32 && maskDstOk w.vd && maskOk w.va && (if two then maskOk w.vb else w.vb == 0) && w.vc == 0 && w.mods == 0 && w.plain
    && w.mreg == 0 && w.aux == 0 && w.regOnly

/-- MPOP (R359). -/
def L3.mpopOk (w : L3) : Bool :=
  w.ty == .z32 && dstOk w.vd && maskOk w.va && w.vb == 0 && w.vc == 0 && w.mods == 0 && w.plain && w.aux == 0 && w.anyConsumer

/-- RAND (R350). -/
def L3.randOk (w : L3) : Bool :=
  [EType.z32, .b32, .f32].contains w.ty && dstOk w.vd && w.va == 0 && w.vb == 0 && w.vc == 0 && w.mods == 0 && w.plain
    && w.aux.toNat < 3 && w.regOnly

/-- NMFENCE and the control words: every field zero but those that `vd` and `aux` allow (R370, R376). -/
def L3.controlOk (w : L3) (vd aux : Bool) : Bool :=
  vd && w.va == 0 && w.vb == 0 && w.vc == 0 && w.mods == 0 && w.plain && w.look == 0 && w.mreg == 0 && w.ty == .f32 && w.route == 0 && aux

/-- The registers of one RPF range: none when c = 7 (R371). -/
def rpfRange (first : VReg) (c : BitVec 3) : List Nat :=
  if c.toNat = 7 then [] else (List.range (2 ^ c.toNat)).map (first.toNat + ·)

/-- The distinct registers of `l`, first occurrence kept. -/
def distinct (l : List Nat) : List Nat := l.foldl (fun acc r => if acc.contains r then acc else acc ++ [r]) []

/-- The list that RPF names (R371). -/
def L3.rpfList (w : L3) : List Nat :=
  distinct (rpfRange w.vd (w.aux.extractLsb' 0 3) ++ rpfRange w.va (w.aux.extractLsb' 3 3)
    ++ rpfRange w.vb (w.aux.extractLsb' 6 3) ++ rpfRange w.vc (w.aux.extractLsb' 9 3))

/-- One RPF range's first register (R371). -/
def rpfFirstOk (first : VReg) (c : BitVec 3) : Bool := if c.toNat = 7 then first == 0 else dstOk first

/-- RPF (R371). -/
def L3.rpfOk (w : L3) : Bool :=
  rpfFirstOk w.vd (w.aux.extractLsb' 0 3) && rpfFirstOk w.va (w.aux.extractLsb' 3 3) && rpfFirstOk w.vb (w.aux.extractLsb' 6 3)
    && rpfFirstOk w.vc (w.aux.extractLsb' 9 3) && w.rpfList.length ≤ 64
    && w.mods == 0 && w.plain && w.look == 0 && w.mreg == 0 && w.ty == .f32 && w.noResult

/-- ACCRD (R372). -/
def L3.accrdOk (w : L3) : Bool :=
  dstOk w.vd && srcOk w.va && w.vb == 0 && w.vc == 0 && w.mods == 0 && w.plain && w.ty == .f32 && w.aux.toNat < 4 && w.regOnly

/-- ACCWR (R373). -/
def L3.accwrOk (w : L3) : Bool :=
  w.vd == 0 && srcOk w.va && srcOk w.vb && w.vc == 0 && w.mods == 0 && w.plain && w.ty == .f32 && w.aux.toNat < 8
    && w.cmask == 8 && w.route == 0

/-! ### Field rules of the LM words (Table 13-1) -/

/-- Paths by number (Table 2-12). -/
def LM.pathIn (w : LM) (ps : List Path) : Bool :=
  match Path.ofCode w.path with
  | some p => ps.contains p
  | none => false

/-- VLD, VST, VLDV, VSTV: order in aux[1:0] with its scope (R65, R66). `release` is set for stores. -/
def LM.orderOk (w : LM) (store : Bool) : Bool :=
  let o := (w.aux.extractLsb' 0 2).toNat
  (o == 0 && w.scope == 0) || (o == (if store then 2 else 1))

/-- Fields shared by the LM words: data operand, offset operand, consumer. The data of a store and of a return-free atomic is
a source, a register or a special operand (Table 2-11, R39). -/
def LM.fieldsOk (w : LM) (store : Bool) : Bool :=
  (if store then srcOk w.vd else dstOk w.vd) && srcOk w.vo && w.cmask == (if store then 0 else 1)

/-- Special operands in `n` data operands from `vd` are listed ones. -/
def LM.dataOk (w : LM) (n : Nat) : Bool :=
  w.vd.toNat < 640 || (List.range n).all fun j => srcOk (w.vd + BitVec.ofNat 10 j)

/-- VLD and VST (R362). -/
def LM.vldOk (w : LM) (store : Bool) : Bool :=
  w.fieldsOk store && w.ty != .e2m1 && w.pathIn [.vlt, .glb, .stk, .fab] && w.orderOk store && w.aux.toNat < 4

/-- VLDV and VSTV (R363). -/
def LM.vldvOk (w : LM) (store : Bool) : Bool :=
  w.fieldsOk store && w.ty != .e2m1 && !w.ty.is64 && w.pathIn [.vlt, .glb, .fab] && w.orderOk store && w.aux.toNat < 12
    && w.dataOk (2 ^ ((w.aux.extractLsb' 2 2).toNat + 1))

/-- VLDM and VSTM (R364). -/
def LM.vldmOk (w : LM) (store : Bool) : Bool :=
  w.fieldsOk store && w.ty == .b32 && w.pathIn [.vlt, .glb, .stk] && w.scope == 0 && w.aux.toNat < 512
    && w.vd.toNat + (w.aux.extractLsb' 0 6).toNat < 640

/-- The ops that VATOM allows for a type (R365). -/
def atomTypeOk (t : EType) (op : AtomOp) : Bool :=
  match t with
  | .s32 | .z32 => true
  | .b32 => [AtomOp.and, .or, .xor, .swap, .cas].contains op
  | .f32 => [AtomOp.add, .min, .max, .swap, .cas].contains op
  | _ => false

/-- The op of VATOM and VATOMV. -/
def LM.atomOp (w : LM) : AtomOp := AtomOp.ofCode (w.aux.extractLsb' 0 3)

/-- VATOM (R365). -/
def LM.vatomOk (w : LM) : Bool :=
  w.fieldsOk (!w.aux.getLsbD 3) && atomTypeOk w.ty w.atomOp && w.pathIn [.vlt, .glb] && w.aux.toNat < 16
    && w.dataOk (if w.atomOp == .cas then 2 else 1)

/-- VATOMV (R366). -/
def LM.vatomvOk (w : LM) : Bool :=
  w.fieldsOk true && atomTypeOk w.ty w.atomOp && w.aux.toNat < 6 && w.pathIn [.vlt, .glb]

/-- VPREF (R367). -/
def LM.vprefOk (w : LM) : Bool :=
  w.vd == 0 && srcOk w.vo && w.cmask == 0 && w.ty != .e2m1 && w.pathIn [.vlt, .glb, .fab] && w.scope == 0 && w.aux == 0

/-- NMATOM (R369). -/
def LM.nmatomOk (w : LM) : Bool :=
  w.fieldsOk true && [EType.s32, .z32, .f32].contains w.ty && w.path == 5 && w.aux.toNat < 3

/-! ### Field rules of the pair words (R68, R69) -/

/-- A slot's destination and sources. `two` is set where vb is a source. -/
def Slot.ok (s : Slot) (two : Bool) (mods : BitVec 4) : Bool :=
  dstOk s.vd && srcOk s.va && (if two then srcOk s.vb else s.vb == 0) && (s.mods &&& ~~~mods) == 0

/-- Slot Y by operation (Table 2-15, R69). -/
def yOk (op : YOp) (s : Slot) : Bool :=
  match op with
  | .iadd | .isub | .imin | .imax => s.ok true 0xF
  | .and | .or | .xor | .shl | .shr | .sar => s.ok true 0
  | .mov | .fkey => s.ok false 0
  | .cvtF32S32 | .cvtS32F32 => s.ok false 3
  | .xbfly => dstOk s.vd && srcOk s.va && s.mods == 0 && s.vb.toNat < 32 && flyDistance s.vb.toNat

/-- A pair word with an operation in slot X. -/
def PairX.ok (p : PairX) : Bool :=
  p.x.ok true 0xF
    && (match p.y with
        | none => p.look == 0
        | some (op, s) => yOk op s && (p.look == 0 || op == .xbfly))

/-- A pair word with an idle slot X. -/
def PairY.ok (p : PairY) (op : YOp) : Bool := yOk op p.y && (p.look == 0 || op == .xbfly)

/-! ### Field rules of the near-memory words (Table 13-7) -/

/-- Integer types of the near-memory words (R381). -/
def nmInt (t : EType) : Bool := t.isInt && !t.is64

/-- Source B is wB or `#imm` (R381). -/
def NA.immForm (w : NA) : Bool :=
  w.sub.toNat < 2 && (if w.sub.getLsbD 0 then w.wb == 0 else w.imm == 0)

/-- NFADD, NFMUL, NFMAX, NFMIN. -/
def NA.floatTwo (w : NA) : Bool := w.ty.isArith && w.immForm && w.wc == 0
/-- NFMA. -/
def NA.floatThree (w : NA) : Bool := w.ty.isArith && w.immForm
/-- NAPPLY. -/
def NA.applyOk (w : NA) : Bool := w.ty == .f32 && w.sub.toNat < 2 && w.wb.getLsbD 0 == false && w.wc == 0 && w.imm == 0
/-- The source type of NCVT. -/
def NA.srcType (w : NA) : EType := EType.ofCode (w.imm.extractLsb' 0 4)
/-- NCVT. -/
def NA.cvtOk (w : NA) : Bool :=
  (w.ty.isFloat || nmInt w.ty) && w.sub.toNat < 8 && w.imm.toNat < 16 && w.wb == 0 && w.wc == 0
    && w.srcType != .e2m1 && w.srcType != .b32 && w.srcType != .b64 && w.srcType != w.ty
/-- NSCALE: imm32 is a signed count from −512 to 511, or n is taken from wB (R382). -/
def NA.scaleOk (w : NA) : Bool :=
  w.ty.isArith && w.sub.toNat < 2 && w.wc == 0
    && (if w.sub.getLsbD 0 then w.imm == 0 else w.wb == 0 && -512 ≤ w.imm.toInt && w.imm.toInt ≤ 511)
/-- NMOV. -/
def NA.movOk (w : NA) : Bool :=
  w.ty != .e2m1 && w.sub.toNat < 2 && (if w.sub.getLsbD 0 then w.wa == 0 else w.imm == 0) && w.wb == 0 && w.wc == 0
/-- NIADD. -/
def NA.iaddOk (w : NA) : Bool := nmInt w.ty && w.immForm && w.wc == 0
/-- NCMP. -/
def NA.cmpOk (w : NA) : Bool :=
  (w.ty.isArith || nmInt w.ty) && w.sub.toNat < (if w.ty.isArith then 8 else 6) && w.wc == 0 && w.imm == 0
/-- NSEL. -/
def NA.selOk (w : NA) : Bool := w.ty != .e2m1 && w.sub == 0 && w.imm == 0

/-- NLD and NST. -/
def NM.ldOk (w : NM) : Bool := w.ty == .f32 && w.sub.toNat < 16
/-- NATOM. -/
def NM.atomOk (w : NM) : Bool := [EType.f32, .bf16, .s32, .z32].contains w.ty && (w.sub.extractLsb' 3 2).toNat != 3
/-- NLOCK and NUNLOCK. -/
def NM.lockOk (w : NM) : Bool := w.ty == .f32 && w.sub == 0 && w.wd == 0
/-- NSIGNAL. -/
def NM.signalOk (w : NM) : Bool := w.ty == .f32 && w.sub == 0 && w.wd == 0 && w.bslot == 0 && w.off.toNat < 2 ^ 20
/-- NWAIT. -/
def NM.waitOk (w : NM) : Bool := (w.ty == .z32 || w.ty == .z64) && w.sub == 0

/-- NLOOP.SET. -/
def NC.setOk (w : NC) : Bool :=
  (w.ty == .z32 || (w.ty == .f32 && w.wa == 0)) && w.sub.toNat < 4 && w.wb == 0 && w.cond == 0 && w.off == 0
/-- NLOOP.STEP. -/
def NC.stepOk (w : NC) : Bool :=
  w.ty == .f32 && w.wa == 0 && w.wb == 0 && w.cond == 0 && w.cnt == 0 && 16 ≤ w.sub.toNat && w.sub.toNat < 20
/-- NBR. -/
def NC.brOk (w : NC) : Bool := w.ty != .e2m1 && w.sub == 0 && w.cnt == 0 && w.cond != 6
/-- NEND. -/
def NC.endOk (w : NC) : Bool :=
  w.ty == .f32 && w.wa == 0 && w.wb == 0 && w.cond == 0 && w.sub == 0 && w.cnt == 0 && w.off == 0

/-! ### Opcode maps -/

/-- Table 2-17: three-register forms. -/
def aluThree : List (Nat × (SReg → SReg → SReg → Instr)) :=
  [(0x00, .add), (0x01, .sub), (0x02, .mul), (0x03, .mulh), (0x04, .mulhz), (0x05, .div), (0x06, .divz), (0x07, .rem),
   (0x08, .remz), (0x10, .and), (0x11, .or), (0x12, .xor), (0x13, .andn), (0x18, .shl), (0x19, .shr), (0x1A, .sar),
   (0x1B, .rotr), (0x20, .min), (0x21, .max), (0x22, .minz), (0x23, .maxz), (0x24, .slt), (0x25, .sltz)]

/-- Table 2-17: forms without sb. -/
def aluTwo : List (Nat × (SReg → SReg → Instr)) :=
  [(0x28, .clz), (0x29, .popc), (0x2A, .sextB), (0x2B, .sextH), (0x2C, .sextW), (0x2D, .zextB), (0x2E, .zextH), (0x2F, .zextW)]

/-- op6 0x02 to 0x05 and 0x09: immediate forms. -/
def immOps : List (Nat × (SReg → SReg → BitVec 12 → Instr)) :=
  [(0x02, .addi), (0x03, .andi), (0x04, .ori), (0x05, .xori), (0x09, .slti)]

/-- op6 0x06 to 0x08: shifts by an immediate. -/
def shiftOps : List (Nat × (SReg → SReg → BitVec 6 → Instr)) :=
  [(0x06, .shli), (0x07, .shri), (0x08, .sari)]

/-- Table 2-10: L3 words with their field rules. -/
def l3Ops : List (Nat × (L3 → Instr) × (L3 → Bool)) :=
  [(0x000, .fadd, L3.floatTwo), (0x001, .fsub, L3.floatTwo), (0x002, .fmul, L3.floatTwo), (0x003, .ffma, L3.floatThree),
   (0x004, .fmin, L3.floatTwo), (0x005, .fmax, L3.floatTwo), (0x006, .fcmp, L3.fcmpOk), (0x007, .fsel, L3.fselOk),
   (0x008, .fclass, L3.fclassOk), (0x009, .ftrunc, (L3.froundOk · 1)), (0x00A, .fround, (L3.froundOk · 3)),
   (0x010, .apply, (L3.applyOk · false)), (0x011, .applyd, (L3.applyOk · false)), (0x012, .apply2, (L3.applyOk · true)),
   (0x018, .osmax, (L3.softOk · false)), (0x019, .osmerge, (L3.softOk · false)), (0x01A, .osnorm, (L3.softOk · true))] ++
  [(0x100, .iadd, (L3.intOk · intTypes false true)), (0x101, .isub, (L3.intOk · intTypes false true)),
   (0x102, .imul, (L3.intOk · intTypes false true)),
   (0x103, .imulh, (L3.intOk · [.s32, .z32, .s64, .z64] false false)),
   (0x104, .imad, (L3.intOk · intTypes true true)),
   (0x105, .imin, (L3.intOk · intTypes false false)), (0x106, .imax, (L3.intOk · intTypes false false)),
   (0x108, .laneAnd, fun w => w.bitOk bTypes true (w.aux == 0)), (0x109, .laneOr, fun w => w.bitOk bTypes true (w.aux == 0)),
   (0x10A, .laneXor, fun w => w.bitOk bTypes true (w.aux == 0)), (0x10C, .laneShl, fun w => w.bitOk bTypes true (w.aux == 0)),
   (0x10D, .laneShr, fun w => w.bitOk bTypes true (w.aux == 0)),
   (0x10E, .laneSar, fun w => w.bitOk [.s32, .s64] true (w.aux == 0)),
   (0x110, .bfx, fun w => w.bitOk [.s32, .z32, .s64, .z64] false w.fieldFits),
   (0x111, .bfi, fun w => w.bitOk bTypes true w.fieldFits),
   (0x112, .lanePopc, fun w => w.bitOk bTypes false (w.aux == 0)), (0x113, .laneClz, fun w => w.bitOk bTypes false (w.aux == 0)),
   (0x114, .brev, fun w => w.bitOk bTypes false (w.aux == 0)), (0x118, .icmp, L3.icmpOk),
   (0x119, .isel, fun w => w.bitOk bTypes true (w.aux.toNat < 16)),
   (0x11C, .mov, fun w => w.bitOk bTypes false (w.aux == 0)), (0x11D, .movi, L3.moviOk)] ++
  [(0x200, .cvt, L3.cvtOk), (0x201, .qblk, L3.qblkOk), (0x202, .dqblk, L3.dqblkOk),
   (0x204, .fkey, fun w => w.bitOk [.f32, .f16, .bf16] false (w.aux == 0)),
   (0x205, .funkey, fun w => w.bitOk [.f32, .f16, .bf16] false (w.aux == 0)),
   (0x280, .xbfly, L3.xbflyOk), (0x281, .xperm, fun w => w.exchOk bTypes true (w.aux == 0)),
   (0x282, .xbcast, fun w => w.exchOk bTypes false (w.aux.toNat < 64)), (0x283, .xscan, L3.xscanOk), (0x284, .xred, L3.xredOk),
   (0x285, .vote, L3.voteOk), (0x286, .sample, L3.sampleOk), (0x287, .lret, L3.lretOk),
   (0x290, .mand, (L3.maskOpOk · true)), (0x291, .mor, (L3.maskOpOk · true)), (0x292, .mnot, (L3.maskOpOk · false)),
   (0x293, .mpop, L3.mpopOk)] ++
  [(0x310, .rpf, L3.rpfOk), (0x312, .nmfence, fun w => w.controlOk (w.vd == 0) (w.aux == 0 && w.cmask == 0)),
   (0x318, .accrd, L3.accrdOk), (0x319, .accwr, L3.accwrOk),
   (0x380, .ifWord, fun w => w.controlOk (w.vd == 0) (w.aux.toNat < 16 && w.cmask == 0)),
   (0x381, .elseWord, fun w => w.controlOk (w.vd == 0) (w.aux == 0 && w.cmask == 0)),
   (0x382, .endifWord, fun w => w.controlOk (w.vd == 0) (w.aux == 0 && w.cmask == 0)),
   (0x383, .loopany, fun w => w.controlOk (w.vd == 0) (w.aux == 0 && w.cmask == 0)),
   (0x384, .breakif, fun w => w.controlOk (w.vd == 0) (w.aux.toNat < 16 && w.cmask == 0)),
   (0x385, .endloop, fun w => w.controlOk (w.vd == 0) (w.aux == 0 && w.cmask == 0)),
   (0x386, .exmr, fun w => w.controlOk (maskDstOk w.vd) (w.aux == 0 && w.cmask == 1)),
   (0x387, .exmw, fun w => w.controlOk (w.vd == 0) (w.aux.toNat < 16 && w.cmask == 0)), (0x390, .rand, L3.randOk)]

/-- Table 2-10: LM words with their field rules. -/
def lmOps : List (Nat × (LM → Instr) × (LM → Bool)) :=
  [(0x300, .vld, (LM.vldOk · false)), (0x301, .vst, (LM.vldOk · true)), (0x302, .vldv, (LM.vldvOk · false)),
   (0x303, .vstv, (LM.vldvOk · true)), (0x304, .vldm, (LM.vldmOk · false)), (0x305, .vstm, (LM.vldmOk · true)),
   (0x306, .vatom, LM.vatomOk), (0x307, .vatomv, LM.vatomvOk), (0x308, .vpref, LM.vprefOk), (0x311, .nmatom, LM.nmatomOk)]

/-- Table 2-15, slot X. -/
def xOps : List (Nat × (PairX → Instr)) :=
  [(0x01, .pairFaddF32), (0x02, .pairFsubF32), (0x03, .pairFmulF32), (0x04, .pairFmacF32), (0x05, .pairFminF32),
   (0x06, .pairFmaxF32), (0x09, .pairFaddF16), (0x0A, .pairFsubF16), (0x0B, .pairFmulF16), (0x0C, .pairFmacF16)]

/-- Table 2-15, slot Y. -/
def yOps : List (Nat × YOp × (PairY → Instr)) :=
  [(0x41, .iadd, .pairIaddS32), (0x42, .isub, .pairIsubS32), (0x43, .and, .pairAndB32), (0x44, .or, .pairOrB32),
   (0x45, .xor, .pairXorB32), (0x46, .shl, .pairShlB32), (0x47, .shr, .pairShrB32), (0x48, .sar, .pairSarS32),
   (0x49, .imin, .pairIminS32), (0x4A, .imax, .pairImaxS32), (0x4B, .mov, .pairMovB32), (0x4C, .cvtF32S32, .pairCvtF32S32),
   (0x4D, .cvtS32F32, .pairCvtS32F32), (0x4E, .fkey, .pairFkeyF32), (0x4F, .xbfly, .pairXbflyB32)]

/-- Table 2-18: NA words. -/
def naOps : List (Nat × (NA → Instr) × (NA → Bool)) :=
  [(0x03, .nfadd, NA.floatTwo), (0x04, .nfmul, NA.floatTwo), (0x05, .nfma, NA.floatThree), (0x06, .nfmax, NA.floatTwo),
   (0x07, .nfmin, NA.floatTwo), (0x08, .napply, NA.applyOk), (0x09, .ncvt, NA.cvtOk), (0x0A, .nscale, NA.scaleOk),
   (0x12, .nmov, NA.movOk), (0x13, .niadd, NA.iaddOk), (0x14, .ncmp, NA.cmpOk), (0x15, .nsel, NA.selOk)]

/-- Table 2-18: NM words. -/
def nmOps : List (Nat × (NM → Instr) × (NM → Bool)) :=
  [(0x01, .nld, NM.ldOk), (0x02, .nst, NM.ldOk), (0x0B, .natom, NM.atomOk), (0x0C, .nlock, NM.lockOk),
   (0x0D, .nunlock, NM.lockOk), (0x11, .nsignal, NM.signalOk), (0x16, .nwait, NM.waitOk)]

/-- Table 2-18: NC words. NLOOP.SET and NLOOP.STEP share op6 0x0E (see `decodeNc`). -/
def ncOps : List (Nat × (NC → Instr) × (NC → Bool)) :=
  [(0x0F, .nbr, NC.brOk), (0x10, .nend, NC.endOk)]

/-! ### The scalar decoder (R49 to R53, R71, R76) -/

/-- The instruction, or RESERVED_FIELD where a field it does not use is not zero (R50). -/
def unless0 (ok : Bool) (i : Instr) : Decoded := if ok then .instr i else .reject .reservedField

/-- A scalar word. -/
def decodeScalar (w : BitVec 32) : Decoded :=
  let op := (w.extractLsb' 26 6).toNat
  let sd := w.extractLsb' 20 6
  let sa := w.extractLsb' 14 6
  let sb := w.extractLsb' 8 6
  let fn := w.extractLsb' 0 8
  let sub2 := w.extractLsb' 12 2
  let imm12 := w.extractLsb' 0 12
  let imm20 := w.extractLsb' 0 20
  let off11 := w.extractLsb' 0 11
  let off26 := w.extractLsb' 0 26
  let d0 := sd == 0
  let a0 := sa == 0
  let b0 := sb == 0
  let f0 := fn == 0
  let illegal : Decoded := .reject .illegalOpcode
  if op = 0x00 then
    match lookupKey fn.toNat aluThree with
    | some c => .instr (c sd sa sb)
    | none =>
      match lookupKey fn.toNat aluTwo with
      | some c => unless0 b0 (c sd sa)
      | none => illegal
  else if op = 0x01 then
    if w.extractLsb' 0 2 == 0 then .instr (.sel sd sa sb (w.extractLsb' 2 6)) else illegal
  else if op ≤ 0x09 then
    if sub2 == 0 then
      match lookupKey op immOps with
      | some c => .instr (c sd sa imm12)
      | none =>
        match lookupKey op shiftOps with
        | some c => unless0 (w.extractLsb' 6 6 == 0) (c sd sa (w.extractLsb' 0 6))
        | none => illegal
    else illegal
  else if op = 0x0A then .instr (.lhi sd imm20)
  else if op = 0x0B then .instr (.pchi sd imm20)
  else if op = 0x10 then .instr (.lds sd sa (Size.ofCode sub2) imm12)
  else if op = 0x11 then .instr (.ldz sd sa (Size.ofCode sub2) imm12)
  else if op = 0x12 then .instr (.st sd sa (Size.ofCode sub2) imm12)
  else if op = 0x13 then .instr (.satomW sd sa sb (AtomOp.ofCode (w.extractLsb' 5 3)) (w.extractLsb' 0 5))
  else if op = 0x14 then .instr (.satomD sd sa sb (AtomOp.ofCode (w.extractLsb' 5 3)) (w.extractLsb' 0 5))
  else if op = 0x18 then .instr (.b off26)
  else if op = 0x19 then .instr (.call off26)
  else if op = 0x1A then
    match lookupKey (w.extractLsb' 11 3).toNat
        [(0, Instr.bcEq), (1, .bcNe), (2, .bcLt), (3, .bcGe), (4, .bcLtz), (5, .bcGez)] with
    | some c => .instr (c sd sa off11)
    | none => .reject .reservedField
  else if op = 0x1B then unless0 (d0 && b0 && f0) (.callr sa)
  else if op = 0x1C then unless0 (d0 && a0 && b0 && f0) .ret
  else if op = 0x1D then unless0 (d0 && b0 && f0) (.jr sa)
  else if op = 0x20 then .instr (.lissue sd imm20)
  else if op = 0x21 then unless0 (d0 && a0 && b0 && f0) .lqwait
  else if op = 0x22 then unless0 (w.extractLsb' 24 2 == 0 && b0 && f0) (.movk (w.extractLsb' 20 4) sa)
  else if op = 0x23 then unless0 (a0 && b0 && f0) (.spop sd)
  else if op = 0x24 then unless0 (d0 && w.extractLsb' 10 10 == 0) (.regroup (w.extractLsb' 0 10))
  else if op = 0x28 then
    match lookupKey fn.toNat [(0, Instr.bar), (1, .bararrive), (2, .barwait)] with
    | some c => unless0 (a0 && b0) (c sd)
    | none => illegal
  else if op = 0x29 then
    match lookupKey (w.extractLsb' 5 3).toNat [(0, Instr.fence), (1, .fenceAcq), (2, .fenceRel)] with
    | some c => unless0 (d0 && a0 && b0) (c (w.extractLsb' 0 5))
    | none => illegal
  else if op = 0x2A then
    match if w.extractLsb' 3 5 == 0 then Path.ofCode (w.extractLsb' 0 3) else none with
    | some p => unless0 (d0 && b0) (.waitp p sa)
    | none => illegal
  else if op = 0x2B then if f0 then .instr (.waitg sd sa sb) else illegal
  else if op = 0x2C then
    if fn == 0 then unless0 (d0 && a0 && b0) .yield
    else if fn == 1 then unless0 (d0 && b0) (.sleep sa) else illegal
  else if op = 0x2D then unless0 (d0 && a0 && b0 && f0) .fnfence
  else if op = 0x2E then
    match lookupKey fn.toNat [(1, Instr.racq .r64), (2, .racq .r128), (3, .racq .r256), (4, .racq .r512), (0x10, .rrel)] with
    | some i => unless0 (d0 && a0 && b0) i
    | none => illegal
  else if op = 0x2F then
    if fn == 0 then unless0 b0 (.tlaunch sd sa)
    else if fn == 1 then unless0 (d0 && a0 && b0) .gexit
    else if fn == 2 then unless0 (d0 && a0 && b0) .tretire else illegal
  else if op = 0x30 then unless0 (d0 && b0 && f0) (.mloop sa)
  else if op = 0x31 then unless0 (d0 && b0 && f0) (.mstore sa)
  else if op = 0x32 then unless0 (d0 && a0 && b0 && w.extractLsb' 5 3 == 0) (.mzero (w.extractLsb' 0 2) (w.extractLsb' 2 3))
  else if op = 0x33 then unless0 (a0 && b0 && f0) (.mfence sd)
  else if op = 0x34 then unless0 (d0 && b0 && f0) (.mwait sa)
  else if op = 0x35 then unless0 f0 (.bfqpost sd sa sb)
  else if op = 0x36 then unless0 (d0 && b0 && f0) (.bfqwait sa)
  else if op = 0x38 then
    match lookupKey fn.toNat [(1, Instr.copy), (2, .gather), (3, .mcast), (4, .coll), (5, .nmlaunch)] with
    | some c => unless0 b0 (c sd sa)
    | none => illegal
  else if op = 0x39 then
    if fn == 1 then unless0 d0 (.jrnlAdd sa sb)
    else if fn == 2 then unless0 (d0 && b0) (.jrnlCommit sa)
    else if fn == 3 then unless0 (d0 && b0) (.jrnlDrop sa) else illegal
  else if op = 0x3C then
    if fn == 0x00 then unless0 (d0 && b0) (.trap sa)
    else if fn == 0x01 then unless0 (d0 && a0 && b0) .eret
    else if fn == 0x02 then unless0 (d0 && a0 && b0) .bkpt
    else if fn == 0x08 then unless0 d0 (.tlbfill sa sb)
    else if fn == 0x09 then unless0 d0 (.tlbinv sa sb)
    else if fn == 0x10 then unless0 (d0 && w.getLsbD 13 == false) (.fload (w.getLsbD 12) (w.extractLsb' 8 4) sa)
    else if fn == 0x11 then unless0 (d0 && b0) (.setfmt sa)
    else if fn == 0x12 then unless0 d0 (.rngseed sa sb) else illegal
  else if op = 0x3D then
    if sub2 == 0 then unless0 a0 (.csrr sd imm12)
    else if sub2 == 1 then unless0 d0 (.csrw sa imm12)
    else if sub2 == 2 then .instr (.csrx sd sa imm12) else illegal
  else illegal

/-! ### The lane decoder (R54 to R73, R75) -/

/-- The fields of format L3 (Table 2-5). -/
def l3Of (w : BitVec 96) : L3 where
  vd := w.extractLsb' 76 10
  va := w.extractLsb' 66 10
  vb := w.extractLsb' 56 10
  vc := w.extractLsb' 46 10
  mods := w.extractLsb' 40 6
  clamp := w.extractLsb' 38 2
  dscale := w.extractLsb' 34 4
  look := w.extractLsb' 30 4
  cmask := w.extractLsb' 26 4
  mreg := w.extractLsb' 22 4
  ty := EType.ofCode (w.extractLsb' 18 4)
  route := w.extractLsb' 12 6
  aux := w.extractLsb' 0 12

/-- The fields of format LM (Table 2-11). -/
def lmOf (w : BitVec 96) : LM where
  vd := w.extractLsb' 76 10
  kb := w.extractLsb' 72 4
  vo := w.extractLsb' 62 10
  scl := w.extractLsb' 60 2
  imm := w.extractLsb' 46 14
  scope := w.extractLsb' 41 5
  path := w.extractLsb' 37 3
  look := w.extractLsb' 30 4
  cmask := w.extractLsb' 26 4
  mreg := w.extractLsb' 22 4
  ty := EType.ofCode (w.extractLsb' 18 4)
  aux := w.extractLsb' 0 12

/-- The fields of format LM that must be zero: [40], [36:34] and route. -/
def lmZero (w : BitVec 96) : Bool := w.extractLsb' 40 1 == 0 && w.extractLsb' 34 3 == 0 && w.extractLsb' 12 6 == 0

/-- Slot X of a pair word (Table 2-13). -/
def slotX (w : BitVec 96) : Slot := ⟨w.extractLsb' 65 10, w.extractLsb' 55 10, w.extractLsb' 45 10, w.extractLsb' 41 4⟩

/-- Slot Y of a pair word (Table 2-13). -/
def slotY (w : BitVec 96) : Slot := ⟨w.extractLsb' 24 10, w.extractLsb' 14 10, w.extractLsb' 4 10, w.extractLsb' 0 4⟩

/-- Every field of an idle slot is zero (R68). -/
def Slot.zero (s : Slot) : Bool := s.vd == 0 && s.va == 0 && s.vb == 0 && s.mods == 0

/-- The registers that a slot names exist (R39). -/
def Slot.named (s : Slot) : Bool := dstOk s.vd && srcOk s.va && srcOk s.vb

/-- The fields of slot X as its op7 reads them, in the slot of the other class too. -/
def slotXFields (o : Nat) (s : Slot) : Bool :=
  if o = 0 then s.zero
  else if o < 0x40 then s.ok true 0xF
  else
    match lookupKey o yOps with
    | some (op, _) => yOk op s
    | none => s.named

/-- The same for slot Y. -/
def slotYFields (o : Nat) (s : Slot) : Bool :=
  if o = 0x40 then s.zero
  else
    match lookupKey o yOps with
    | some (op, _) => yOk op s
    | none => if (lookupKey o xOps).isSome then s.ok true 0xF else s.named

/-- The exchange distance that a slot holds, 0 where it holds none. -/
def slotFly (o : Nat) (s : Slot) : Nat :=
  match lookupKey o yOps with
  | some (.xbfly, _) => s.vb.toNat
  | _ => 0

/-- The checks of a pair word with an operation in the slot of the other class (R68, R75): the fields of both slots and look first, then
PAIR_CONFLICT. -/
def wrongClass (w : BitVec 96) (look : BitVec 4) (xo yo : Nat) : DecodeError :=
  let d := Nat.max (slotFly xo (slotX w)) (slotFly yo (slotY w))
  if !(slotXFields xo (slotX w) && slotYFields yo (slotY w) && (look == 0 || yo == 0x4F)) then .reservedField
  else if d = 0 then .pairConflict
  else .wrongFly d

/-- A pair word (R67 to R69, R73). An op7 of the slot's own class that Table 2-15 does not list is ILLEGAL_OPCODE; one of the
other class is PAIR_CONFLICT, after the field checks. -/
def decodePair (w : BitVec 96) : Decoded :=
  let look := w.extractLsb' 88 4
  let mreg := w.extractLsb' 84 4
  let xo := (w.extractLsb' 75 7).toNat
  let yo := (w.extractLsb' 34 7).toNat
  let listed := (xo == 0 || 0x40 ≤ xo || (lookupKey xo xOps).isSome) && (yo ≤ 0x40 || (lookupKey yo yOps).isSome)
  if !listed then .reject .illegalOpcode
  else if w.extractLsb' 82 2 != 0 then .reject .reservedField
  else if 0x40 ≤ xo || yo < 0x40 then .reject (wrongClass w look xo yo)
  else
    match lookupKey xo xOps, lookupKey yo yOps with
    | none, none =>
      if (slotX w).zero && (slotY w).zero && look == 0 then .idle look mreg else .reject .reservedField
    | some cx, none =>
      let p : PairX := ⟨slotX w, none, look, mreg⟩
      if (slotY w).zero && p.ok then .instr (cx p) else .reject .reservedField
    | none, some (yop, cy) =>
      let p : PairY := ⟨slotY w, look, mreg⟩
      if (slotX w).zero && p.ok yop then .instr (cy p) else .reject .reservedField
    | some cx, some (yop, _) =>
      let p : PairX := ⟨slotX w, some (yop, slotY w), look, mreg⟩
      if p.ok then .instr (cx p) else .reject .reservedField

/-- A lane word. -/
def decodeLane (w : BitVec 96) : Decoded :=
  let op := (w.extractLsb' 86 10).toNat
  if 0x3C0 ≤ op then decodePair w
  else
    match lookupKey op l3Ops with
    | some (c, ok) => if ok (l3Of w) then .instr (c (l3Of w)) else .reject .reservedField
    | none =>
      match lookupKey op lmOps with
      | some (c, ok) => if lmZero w && ok (lmOf w) then .instr (c (lmOf w)) else .reject .reservedField
      | none => .reject .illegalOpcode

/-! ### The near-memory decoder (R70, R74, R380) -/

/-- Format NA (Table 2-16). -/
def naOf (w : BitVec 64) : NA :=
  ⟨w.extractLsb' 54 4, w.extractLsb' 50 4, w.extractLsb' 46 4, w.extractLsb' 42 4, EType.ofCode (w.extractLsb' 38 4),
   w.extractLsb' 32 6, w.extractLsb' 0 32⟩

/-- Format NM (Table 2-16). -/
def nmOf (w : BitVec 64) : NM :=
  ⟨w.extractLsb' 54 4, w.extractLsb' 50 4, EType.ofCode (w.extractLsb' 38 4), w.extractLsb' 32 6, w.extractLsb' 0 32⟩

/-- Format NC (Table 2-16). -/
def ncOf (w : BitVec 64) : NC :=
  ⟨w.extractLsb' 54 4, w.extractLsb' 50 4, w.extractLsb' 47 3, EType.ofCode (w.extractLsb' 38 4), w.extractLsb' 32 6,
   w.extractLsb' 16 16, w.extractLsb' 0 16⟩

/-- A near-memory word. -/
def decodeNm (w : BitVec 64) : Decoded :=
  let op := (w.extractLsb' 58 6).toNat
  match lookupKey op naOps with
  | some (c, ok) => unless0 (ok (naOf w)) (c (naOf w))
  | none =>
    match lookupKey op nmOps with
    | some (c, ok) => unless0 (w.extractLsb' 42 8 == 0 && ok (nmOf w)) (c (nmOf w))
    | none =>
      let n := ncOf w
      let z := w.extractLsb' 42 5 == 0
      if op = 0x0E then
        if n.sub.getLsbD 4 then unless0 (z && n.stepOk) (.nloopStep n) else unless0 (z && n.setOk) (.nloopSet n)
      else
        match lookupKey op ncOps with
        | some (c, ok) => unless0 (z && ok n) (c n)
        | none => .reject .illegalOpcode

/-- A word of 32, 64 or 96 bits, by its size. -/
def decodeBits (nbits w : Nat) : Decoded :=
  if nbits ≤ 32 then decodeScalar (BitVec.ofNat 32 w)
  else if nbits ≤ 64 then decodeNm (BitVec.ofNat 64 w)
  else decodeLane (BitVec.ofNat 96 w)

/-- The instruction that the decoder reads from a word numbered as spec/opcode_table.json numbers it (bit 0 is bit 0 of
the byte at the lowest address, R5), or none where the decoder refuses. -/
def decodeTableWord (nbits w : Nat) : Option Instr :=
  match decodeBits nbits w with
  | .instr i => some i
  | _ => none

/-! ### The encoder -/

/-- An encoded word. -/
inductive Encoded where
  | scalar (w : BitVec 32)
  | lane (w : BitVec 96)
  | nm (w : BitVec 64)
  | event
  deriving DecidableEq, Repr

/-- Format SR. -/
def srWord (op : BitVec 6) (d a b : SReg) (fn : BitVec 8) : Encoded := .scalar (op ++ d ++ a ++ b ++ fn)
/-- Format SI. -/
def siWord (op : BitVec 6) (d a : SReg) (sub : BitVec 2) (imm : BitVec 12) : Encoded := .scalar (op ++ d ++ a ++ sub ++ imm)
/-- Formats SU and SL. -/
def suWord (op : BitVec 6) (d : BitVec 6) (imm : BitVec 20) : Encoded := .scalar (op ++ d ++ imm)
/-- Format SB. -/
def sbWord (a b : SReg) (cond : BitVec 3) (off : BitVec 11) : Encoded := .scalar ((0x1A : BitVec 6) ++ a ++ b ++ cond ++ off)

/-- Format L3. -/
def l3Word (op : BitVec 10) (w : L3) : Encoded :=
  .lane (op ++ w.vd ++ w.va ++ w.vb ++ w.vc ++ w.mods ++ w.clamp ++ w.dscale ++ w.look ++ w.cmask ++ w.mreg ++ w.ty.code
    ++ w.route ++ w.aux)

/-- Format LM. -/
def lmWord (op : BitVec 10) (w : LM) : Encoded :=
  .lane (op ++ w.vd ++ w.kb ++ w.vo ++ w.scl ++ w.imm ++ w.scope ++ (0 : BitVec 1) ++ w.path ++ (0 : BitVec 3) ++ w.look
    ++ w.cmask ++ w.mreg ++ w.ty.code ++ (0 : BitVec 6) ++ w.aux)

/-- A pair word. -/
def pairWord (look mreg : BitVec 4) (xo : BitVec 7) (x : Slot) (yo : BitVec 7) (y : Slot) : Encoded :=
  .lane ((0xF : BitVec 4) ++ look ++ mreg ++ (0 : BitVec 2) ++ xo ++ x.vd ++ x.va ++ x.vb ++ x.mods ++ yo ++ y.vd ++ y.va
    ++ y.vb ++ y.mods)

/-- The fields of an idle slot. -/
def Slot.idle : Slot := ⟨0, 0, 0, 0⟩

/-- A pair word with an operation in slot X. -/
def pairXWord (op : XOp) (p : PairX) : Encoded :=
  match p.y with
  | none => pairWord p.look p.mreg op.code p.x 0x40 Slot.idle
  | some (yo, y) => pairWord p.look p.mreg op.code p.x yo.code y

/-- A pair word with an idle slot X. -/
def pairYWord (op : YOp) (p : PairY) : Encoded := pairWord p.look p.mreg 0x00 Slot.idle op.code p.y

/-- Format NA. -/
def naWord (op : BitVec 6) (w : NA) : Encoded :=
  .nm (op ++ w.wd ++ w.wa ++ w.wb ++ w.wc ++ w.ty.code ++ w.sub ++ w.imm)
/-- Format NM. -/
def nmWord (op : BitVec 6) (w : NM) : Encoded :=
  .nm (op ++ w.wd ++ w.bslot ++ (0 : BitVec 8) ++ w.ty.code ++ w.sub ++ w.off)
/-- Format NC. -/
def ncWord (op : BitVec 6) (w : NC) : Encoded :=
  .nm (op ++ w.wa ++ w.wb ++ w.cond ++ (0 : BitVec 5) ++ w.ty.code ++ w.sub ++ w.cnt ++ w.off)

/-- The word of an instruction; an event has none. -/
def encode : Instr → Encoded
  | .add d a b => srWord 0x00 d a b 0x00
  | .sub d a b => srWord 0x00 d a b 0x01
  | .mul d a b => srWord 0x00 d a b 0x02
  | .mulh d a b => srWord 0x00 d a b 0x03
  | .mulhz d a b => srWord 0x00 d a b 0x04
  | .div d a b => srWord 0x00 d a b 0x05
  | .divz d a b => srWord 0x00 d a b 0x06
  | .rem d a b => srWord 0x00 d a b 0x07
  | .remz d a b => srWord 0x00 d a b 0x08
  | .and d a b => srWord 0x00 d a b 0x10
  | .or d a b => srWord 0x00 d a b 0x11
  | .xor d a b => srWord 0x00 d a b 0x12
  | .andn d a b => srWord 0x00 d a b 0x13
  | .shl d a b => srWord 0x00 d a b 0x18
  | .shr d a b => srWord 0x00 d a b 0x19
  | .sar d a b => srWord 0x00 d a b 0x1A
  | .rotr d a b => srWord 0x00 d a b 0x1B
  | .min d a b => srWord 0x00 d a b 0x20
  | .max d a b => srWord 0x00 d a b 0x21
  | .minz d a b => srWord 0x00 d a b 0x22
  | .maxz d a b => srWord 0x00 d a b 0x23
  | .slt d a b => srWord 0x00 d a b 0x24
  | .sltz d a b => srWord 0x00 d a b 0x25
  | .clz d a => srWord 0x00 d a 0 0x28
  | .popc d a => srWord 0x00 d a 0 0x29
  | .sextB d a => srWord 0x00 d a 0 0x2A
  | .sextH d a => srWord 0x00 d a 0 0x2B
  | .sextW d a => srWord 0x00 d a 0 0x2C
  | .zextB d a => srWord 0x00 d a 0 0x2D
  | .zextH d a => srWord 0x00 d a 0 0x2E
  | .zextW d a => srWord 0x00 d a 0 0x2F
  | .sel d a b c => srWord 0x01 d a b (c ++ (0 : BitVec 2))
  | .addi d a imm => siWord 0x02 d a 0 imm
  | .andi d a imm => siWord 0x03 d a 0 imm
  | .ori d a imm => siWord 0x04 d a 0 imm
  | .xori d a imm => siWord 0x05 d a 0 imm
  | .slti d a imm => siWord 0x09 d a 0 imm
  | .shli d a n => siWord 0x06 d a 0 ((0 : BitVec 6) ++ n)
  | .shri d a n => siWord 0x07 d a 0 ((0 : BitVec 6) ++ n)
  | .sari d a n => siWord 0x08 d a 0 ((0 : BitVec 6) ++ n)
  | .lhi d imm => suWord 0x0A d imm
  | .pchi d imm => suWord 0x0B d imm
  | .lds d a z imm => siWord 0x10 d a z.code imm
  | .ldz d a z imm => siWord 0x11 d a z.code imm
  | .st d a z imm => siWord 0x12 d a z.code imm
  | .satomW d a b op sc => srWord 0x13 d a b (op.code ++ sc)
  | .satomD d a b op sc => srWord 0x14 d a b (op.code ++ sc)
  | .b off => .scalar ((0x18 : BitVec 6) ++ off)
  | .call off => .scalar ((0x19 : BitVec 6) ++ off)
  | .bcEq a b off => sbWord a b 0 off
  | .bcNe a b off => sbWord a b 1 off
  | .bcLt a b off => sbWord a b 2 off
  | .bcGe a b off => sbWord a b 3 off
  | .bcLtz a b off => sbWord a b 4 off
  | .bcGez a b off => sbWord a b 5 off
  | .callr a => srWord 0x1B 0 a 0 0
  | .ret => srWord 0x1C 0 0 0 0
  | .jr a => srWord 0x1D 0 a 0 0
  | .lissue n blk => suWord 0x20 n blk
  | .lqwait => srWord 0x21 0 0 0 0
  | .movk k a => srWord 0x22 ((0 : BitVec 2) ++ k) a 0 0
  | .spop d => srWord 0x23 d 0 0 0
  | .regroup v => suWord 0x24 0 ((0 : BitVec 10) ++ v)
  | .bar d => srWord 0x28 d 0 0 0
  | .bararrive d => srWord 0x28 d 0 0 1
  | .barwait d => srWord 0x28 d 0 0 2
  | .fence sc => srWord 0x29 0 0 0 ((0 : BitVec 3) ++ sc)
  | .fenceAcq sc => srWord 0x29 0 0 0 ((1 : BitVec 3) ++ sc)
  | .fenceRel sc => srWord 0x29 0 0 0 ((2 : BitVec 3) ++ sc)
  | .waitp p a => srWord 0x2A 0 a 0 ((0 : BitVec 5) ++ p.code)
  | .waitg d a b => srWord 0x2B d a b 0
  | .yield => srWord 0x2C 0 0 0 0
  | .sleep a => srWord 0x2C 0 a 0 1
  | .fnfence => srWord 0x2D 0 0 0 0
  | .racq n => srWord 0x2E 0 0 0 n.code
  | .rrel => srWord 0x2E 0 0 0 0x10
  | .tlaunch d a => srWord 0x2F d a 0 0
  | .gexit => srWord 0x2F 0 0 0 1
  | .tretire => srWord 0x2F 0 0 0 2
  | .mloop a => srWord 0x30 0 a 0 0
  | .mstore a => srWord 0x31 0 a 0 0
  | .mzero acc stream => srWord 0x32 0 0 0 ((0 : BitVec 3) ++ stream ++ acc)
  | .mfence d => srWord 0x33 d 0 0 0
  | .mwait a => srWord 0x34 0 a 0 0
  | .bfqpost d a b => srWord 0x35 d a b 0
  | .bfqwait a => srWord 0x36 0 a 0 0
  | .copy d a => srWord 0x38 d a 0 1
  | .gather d a => srWord 0x38 d a 0 2
  | .mcast d a => srWord 0x38 d a 0 3
  | .coll d a => srWord 0x38 d a 0 4
  | .nmlaunch d a => srWord 0x38 d a 0 5
  | .jrnlAdd a b => srWord 0x39 0 a b 1
  | .jrnlCommit a => srWord 0x39 0 a 0 2
  | .jrnlDrop a => srWord 0x39 0 a 0 3
  | .trap a => srWord 0x3C 0 a 0 0
  | .eret => srWord 0x3C 0 0 0 1
  | .bkpt => srWord 0x3C 0 0 0 2
  | .tlbfill a b => srWord 0x3C 0 a b 0x08
  | .tlbinv a b => srWord 0x3C 0 a b 0x09
  | .fload bank fn a => srWord 0x3C 0 a ((0 : BitVec 1) ++ BitVec.ofBool bank ++ fn) 0x10
  | .setfmt a => srWord 0x3C 0 a 0 0x11
  | .rngseed a b => srWord 0x3C 0 a b 0x12
  | .csrr d r => siWord 0x3D d 0 0 r
  | .csrw a r => siWord 0x3D 0 a 1 r
  | .csrx d a r => siWord 0x3D d a 2 r
  | .fadd w => l3Word 0x000 w
  | .fsub w => l3Word 0x001 w
  | .fmul w => l3Word 0x002 w
  | .ffma w => l3Word 0x003 w
  | .fmin w => l3Word 0x004 w
  | .fmax w => l3Word 0x005 w
  | .fcmp w => l3Word 0x006 w
  | .fsel w => l3Word 0x007 w
  | .fclass w => l3Word 0x008 w
  | .ftrunc w => l3Word 0x009 w
  | .fround w => l3Word 0x00A w
  | .apply w => l3Word 0x010 w
  | .applyd w => l3Word 0x011 w
  | .apply2 w => l3Word 0x012 w
  | .osmax w => l3Word 0x018 w
  | .osmerge w => l3Word 0x019 w
  | .osnorm w => l3Word 0x01A w
  | .iadd w => l3Word 0x100 w
  | .isub w => l3Word 0x101 w
  | .imul w => l3Word 0x102 w
  | .imulh w => l3Word 0x103 w
  | .imad w => l3Word 0x104 w
  | .imin w => l3Word 0x105 w
  | .imax w => l3Word 0x106 w
  | .laneAnd w => l3Word 0x108 w
  | .laneOr w => l3Word 0x109 w
  | .laneXor w => l3Word 0x10A w
  | .laneShl w => l3Word 0x10C w
  | .laneShr w => l3Word 0x10D w
  | .laneSar w => l3Word 0x10E w
  | .bfx w => l3Word 0x110 w
  | .bfi w => l3Word 0x111 w
  | .lanePopc w => l3Word 0x112 w
  | .laneClz w => l3Word 0x113 w
  | .brev w => l3Word 0x114 w
  | .icmp w => l3Word 0x118 w
  | .isel w => l3Word 0x119 w
  | .mov w => l3Word 0x11C w
  | .movi w => l3Word 0x11D w
  | .cvt w => l3Word 0x200 w
  | .qblk w => l3Word 0x201 w
  | .dqblk w => l3Word 0x202 w
  | .fkey w => l3Word 0x204 w
  | .funkey w => l3Word 0x205 w
  | .xbfly w => l3Word 0x280 w
  | .xperm w => l3Word 0x281 w
  | .xbcast w => l3Word 0x282 w
  | .xscan w => l3Word 0x283 w
  | .xred w => l3Word 0x284 w
  | .vote w => l3Word 0x285 w
  | .sample w => l3Word 0x286 w
  | .lret w => l3Word 0x287 w
  | .mand w => l3Word 0x290 w
  | .mor w => l3Word 0x291 w
  | .mnot w => l3Word 0x292 w
  | .mpop w => l3Word 0x293 w
  | .rpf w => l3Word 0x310 w
  | .nmfence w => l3Word 0x312 w
  | .accrd w => l3Word 0x318 w
  | .accwr w => l3Word 0x319 w
  | .ifWord w => l3Word 0x380 w
  | .elseWord w => l3Word 0x381 w
  | .endifWord w => l3Word 0x382 w
  | .loopany w => l3Word 0x383 w
  | .breakif w => l3Word 0x384 w
  | .endloop w => l3Word 0x385 w
  | .exmr w => l3Word 0x386 w
  | .exmw w => l3Word 0x387 w
  | .rand w => l3Word 0x390 w
  | .vld w => lmWord 0x300 w
  | .vst w => lmWord 0x301 w
  | .vldv w => lmWord 0x302 w
  | .vstv w => lmWord 0x303 w
  | .vldm w => lmWord 0x304 w
  | .vstm w => lmWord 0x305 w
  | .vatom w => lmWord 0x306 w
  | .vatomv w => lmWord 0x307 w
  | .vpref w => lmWord 0x308 w
  | .nmatom w => lmWord 0x311 w
  | .pairFaddF32 p => pairXWord .faddF32 p
  | .pairFsubF32 p => pairXWord .fsubF32 p
  | .pairFmulF32 p => pairXWord .fmulF32 p
  | .pairFmacF32 p => pairXWord .fmacF32 p
  | .pairFminF32 p => pairXWord .fminF32 p
  | .pairFmaxF32 p => pairXWord .fmaxF32 p
  | .pairFaddF16 p => pairXWord .faddF16 p
  | .pairFsubF16 p => pairXWord .fsubF16 p
  | .pairFmulF16 p => pairXWord .fmulF16 p
  | .pairFmacF16 p => pairXWord .fmacF16 p
  | .pairIaddS32 p => pairYWord .iadd p
  | .pairIsubS32 p => pairYWord .isub p
  | .pairAndB32 p => pairYWord .and p
  | .pairOrB32 p => pairYWord .or p
  | .pairXorB32 p => pairYWord .xor p
  | .pairShlB32 p => pairYWord .shl p
  | .pairShrB32 p => pairYWord .shr p
  | .pairSarS32 p => pairYWord .sar p
  | .pairIminS32 p => pairYWord .imin p
  | .pairImaxS32 p => pairYWord .imax p
  | .pairMovB32 p => pairYWord .mov p
  | .pairCvtF32S32 p => pairYWord .cvtF32S32 p
  | .pairCvtS32F32 p => pairYWord .cvtS32F32 p
  | .pairFkeyF32 p => pairYWord .fkey p
  | .pairXbflyB32 p => pairYWord .xbfly p
  | .nfadd w => naWord 0x03 w
  | .nfmul w => naWord 0x04 w
  | .nfma w => naWord 0x05 w
  | .nfmax w => naWord 0x06 w
  | .nfmin w => naWord 0x07 w
  | .napply w => naWord 0x08 w
  | .ncvt w => naWord 0x09 w
  | .nscale w => naWord 0x0A w
  | .nmov w => naWord 0x12 w
  | .niadd w => naWord 0x13 w
  | .ncmp w => naWord 0x14 w
  | .nsel w => naWord 0x15 w
  | .nld w => nmWord 0x01 w
  | .nst w => nmWord 0x02 w
  | .natom w => nmWord 0x0B w
  | .nlock w => nmWord 0x0C w
  | .nunlock w => nmWord 0x0D w
  | .nsignal w => nmWord 0x11 w
  | .nwait w => nmWord 0x16 w
  | .nbr w => ncWord 0x0F w
  | .nend w => ncWord 0x10 w
  | .nloopSet w => ncWord 0x0E w
  | .nloopStep w => ncWord 0x0E w
  | .waitgTimeout _ _ => .event
  | .sleepExpiry _ _ => .event
  | .groupExitComplete _ _ => .event
  | .matrixCommandComplete _ _ => .event
  | .batchFormTimeout _ _ => .event
  | .batchComplete _ _ => .event
  | .engineCommandComplete _ => .event
  | .collectiveStepComplete _ _ => .event
  | .laneQueueScalarEffect => .event
  | .functionRegisterSwitch => .event
  | .nwaitExpiry _ _ => .event
  | .nmProgramStart _ _ => .event
  | .nmatomPerform _ _ => .event
  | .depcntDecrement _ _ => .event
  | .almanacRecordWrite _ _ _ _ => .event
  | .recordCheck _ _ => .event
  | .recordAging _ _ => .event
  | .headBlocking _ _ => .event
  | .placementStep => .event
  | .teamRetirement _ _ _ => .event
  | .commitPublish _ _ => .event
  | .commitAbort _ _ => .event
  | .vigilReplay _ _ => .event
  | .vigilVerdict _ _ => .event
  | .groupSwap _ => .event
  | .starvationFlag _ _ => .event
  | .forcedSwap _ => .event
  | .dependenceResolved _ _ => .event
  | .compaction _ => .event
  | .teamSave _ _ _ => .event
  | .teamRestore _ _ _ => .event
  | .fpSubnormalAssist _ _ => .event
  | .walkRequest _ _ => .event
  | .pageRequestResponse _ _ => .event
  | .atsInvalidateRequest _ _ => .event
  | .accessComplete _ _ _ _ => .event
  | .loadDataArrival _ _ _ _ => .event
  | .stackCacheWriteback _ => .event
  | .batchTableSnapshot _ _ => .event
  | .scrubPass _ _ _ => .event
  | .bloomFilterClear _ => .event
  | .stackSnapshotAck _ => .event
  | .cutMarkerReceived _ => .event
  | .shadowCopy _ => .event
  | .drainFrame _ => .event
  | .cutFailed => .event
  | .fabricMessageArrival _ => .event
  | .supplySagTrip _ => .event
  | .supplySagClear _ => .event
  | .clockStepUp _ => .event
  | .sensorSample => .event
  | .moduleReset _ _ => .event
  | .attestationRequest _ => .event
  | .createContext _ _ _ => .event
  | .releaseContext _ _ => .event
  | .invalidateTranslations _ _ => .event
  | .grantFrames _ _ _ _ _ => .event
  | .addPagePool _ _ _ _ _ => .event
  | .addSaveAreaPool _ _ _ _ _ => .event
  | .registerAlmanacRegion _ _ _ _ => .event
  | .placeBar2Window _ _ => .event
  | .registerAuditArray _ _ _ => .event
  | .registerBatchTable _ _ _ _ _ => .event
  | .writeScopeTable _ _ _ _ => .event
  | .preempt _ _ _ => .event
  | .enableDistributorPreemption _ _ _ => .event
  | .releaseSlot _ _ _ => .event
  | .releaseCommandLocks _ _ => .event
  | .resetFlow _ _ => .event
  | .setUpFlow _ _ => .event
  | .setUpDomain _ _ _ _ => .event
  | .equinoxArm _ _ => .event
  | .equinoxDisarm _ => .event
  | .equinoxAcknowledge _ => .event
  | .setAge _ _ _ => .event
  | .setScrubPeriod _ _ => .event
  | .setFilterSchedule _ _ => .event
  | .setRepeatThreshold _ _ => .event
  | .setVigilExponent _ _ _ => .event
  | .migratePage _ _ _ _ => .event
  | .readCapabilityBlock _ => .event
  | .readPhysicalMap _ => .event
  | .readSensor _ _ => .event
  | .illegalOpcode => .event
  | .fetchFault => .event
  | .unknownMailboxOp _ _ => .event

/-- What an encoded word decodes to; an event has no word. -/
def decodeEncoded : Encoded → Option Decoded
  | .scalar w => some (decodeScalar w)
  | .lane w => some (decodeLane w)
  | .nm w => some (decodeNm w)
  | .event => none

/-- The field rules of an instruction's entry: what its own word must satisfy to decode to it. Scalar operands have no value
that their fields cannot hold; an event is no word. -/
def legal : Instr → Bool
  | .fadd w => L3.floatTwo w
  | .fsub w => L3.floatTwo w
  | .fmul w => L3.floatTwo w
  | .ffma w => L3.floatThree w
  | .fmin w => L3.floatTwo w
  | .fmax w => L3.floatTwo w
  | .fcmp w => L3.fcmpOk w
  | .fsel w => L3.fselOk w
  | .fclass w => L3.fclassOk w
  | .ftrunc w => L3.froundOk w 1
  | .fround w => L3.froundOk w 3
  | .apply w => L3.applyOk w false
  | .applyd w => L3.applyOk w false
  | .apply2 w => L3.applyOk w true
  | .osmax w => L3.softOk w false
  | .osmerge w => L3.softOk w false
  | .osnorm w => L3.softOk w true
  | .iadd w => L3.intOk w intTypes false true
  | .isub w => L3.intOk w intTypes false true
  | .imul w => L3.intOk w intTypes false true
  | .imulh w => L3.intOk w [.s32, .z32, .s64, .z64] false false
  | .imad w => L3.intOk w intTypes true true
  | .imin w => L3.intOk w intTypes false false
  | .imax w => L3.intOk w intTypes false false
  | .laneAnd w => w.bitOk bTypes true (w.aux == 0)
  | .laneOr w => w.bitOk bTypes true (w.aux == 0)
  | .laneXor w => w.bitOk bTypes true (w.aux == 0)
  | .laneShl w => w.bitOk bTypes true (w.aux == 0)
  | .laneShr w => w.bitOk bTypes true (w.aux == 0)
  | .laneSar w => w.bitOk [.s32, .s64] true (w.aux == 0)
  | .bfx w => w.bitOk [.s32, .z32, .s64, .z64] false w.fieldFits
  | .bfi w => w.bitOk bTypes true w.fieldFits
  | .lanePopc w => w.bitOk bTypes false (w.aux == 0)
  | .laneClz w => w.bitOk bTypes false (w.aux == 0)
  | .brev w => w.bitOk bTypes false (w.aux == 0)
  | .icmp w => L3.icmpOk w
  | .isel w => w.bitOk bTypes true (w.aux.toNat < 16)
  | .mov w => w.bitOk bTypes false (w.aux == 0)
  | .movi w => L3.moviOk w
  | .cvt w => L3.cvtOk w
  | .qblk w => L3.qblkOk w
  | .dqblk w => L3.dqblkOk w
  | .fkey w => w.bitOk [.f32, .f16, .bf16] false (w.aux == 0)
  | .funkey w => w.bitOk [.f32, .f16, .bf16] false (w.aux == 0)
  | .xbfly w => L3.xbflyOk w
  | .xperm w => w.exchOk bTypes true (w.aux == 0)
  | .xbcast w => w.exchOk bTypes false (w.aux.toNat < 64)
  | .xscan w => L3.xscanOk w
  | .xred w => L3.xredOk w
  | .vote w => L3.voteOk w
  | .sample w => L3.sampleOk w
  | .lret w => L3.lretOk w
  | .mand w => L3.maskOpOk w true
  | .mor w => L3.maskOpOk w true
  | .mnot w => L3.maskOpOk w false
  | .mpop w => L3.mpopOk w
  | .rpf w => L3.rpfOk w
  | .nmfence w => w.controlOk (w.vd == 0) (w.aux == 0 && w.cmask == 0)
  | .accrd w => L3.accrdOk w
  | .accwr w => L3.accwrOk w
  | .ifWord w => w.controlOk (w.vd == 0) (w.aux.toNat < 16 && w.cmask == 0)
  | .elseWord w => w.controlOk (w.vd == 0) (w.aux == 0 && w.cmask == 0)
  | .endifWord w => w.controlOk (w.vd == 0) (w.aux == 0 && w.cmask == 0)
  | .loopany w => w.controlOk (w.vd == 0) (w.aux == 0 && w.cmask == 0)
  | .breakif w => w.controlOk (w.vd == 0) (w.aux.toNat < 16 && w.cmask == 0)
  | .endloop w => w.controlOk (w.vd == 0) (w.aux == 0 && w.cmask == 0)
  | .exmr w => w.controlOk (maskDstOk w.vd) (w.aux == 0 && w.cmask == 1)
  | .exmw w => w.controlOk (w.vd == 0) (w.aux.toNat < 16 && w.cmask == 0)
  | .rand w => L3.randOk w
  | .vld w => LM.vldOk w false
  | .vst w => LM.vldOk w true
  | .vldv w => LM.vldvOk w false
  | .vstv w => LM.vldvOk w true
  | .vldm w => LM.vldmOk w false
  | .vstm w => LM.vldmOk w true
  | .vatom w => LM.vatomOk w
  | .vatomv w => LM.vatomvOk w
  | .vpref w => LM.vprefOk w
  | .nmatom w => LM.nmatomOk w
  | .nfadd w => NA.floatTwo w
  | .nfmul w => NA.floatTwo w
  | .nfma w => NA.floatThree w
  | .nfmax w => NA.floatTwo w
  | .nfmin w => NA.floatTwo w
  | .napply w => NA.applyOk w
  | .ncvt w => NA.cvtOk w
  | .nscale w => NA.scaleOk w
  | .nmov w => NA.movOk w
  | .niadd w => NA.iaddOk w
  | .ncmp w => NA.cmpOk w
  | .nsel w => NA.selOk w
  | .nld w => NM.ldOk w
  | .nst w => NM.ldOk w
  | .natom w => NM.atomOk w
  | .nlock w => NM.lockOk w
  | .nunlock w => NM.lockOk w
  | .nsignal w => NM.signalOk w
  | .nwait w => NM.waitOk w
  | .nbr w => NC.brOk w
  | .nend w => NC.endOk w
  | .pairFaddF32 p => p.ok
  | .pairFsubF32 p => p.ok
  | .pairFmulF32 p => p.ok
  | .pairFmacF32 p => p.ok
  | .pairFminF32 p => p.ok
  | .pairFmaxF32 p => p.ok
  | .pairFaddF16 p => p.ok
  | .pairFsubF16 p => p.ok
  | .pairFmulF16 p => p.ok
  | .pairFmacF16 p => p.ok
  | .pairIaddS32 p => p.ok .iadd
  | .pairIsubS32 p => p.ok .isub
  | .pairAndB32 p => p.ok .and
  | .pairOrB32 p => p.ok .or
  | .pairXorB32 p => p.ok .xor
  | .pairShlB32 p => p.ok .shl
  | .pairShrB32 p => p.ok .shr
  | .pairSarS32 p => p.ok .sar
  | .pairIminS32 p => p.ok .imin
  | .pairImaxS32 p => p.ok .imax
  | .pairMovB32 p => p.ok .mov
  | .pairCvtF32S32 p => p.ok .cvtF32S32
  | .pairCvtS32F32 p => p.ok .cvtS32F32
  | .pairFkeyF32 p => p.ok .fkey
  | .pairXbflyB32 p => p.ok .xbfly
  | .nloopSet w => w.setOk
  | .nloopStep w => w.stepOk
  | .add _ _ _ => true
  | .sub _ _ _ => true
  | .mul _ _ _ => true
  | .mulh _ _ _ => true
  | .mulhz _ _ _ => true
  | .div _ _ _ => true
  | .divz _ _ _ => true
  | .rem _ _ _ => true
  | .remz _ _ _ => true
  | .and _ _ _ => true
  | .or _ _ _ => true
  | .xor _ _ _ => true
  | .andn _ _ _ => true
  | .shl _ _ _ => true
  | .shr _ _ _ => true
  | .sar _ _ _ => true
  | .rotr _ _ _ => true
  | .min _ _ _ => true
  | .max _ _ _ => true
  | .minz _ _ _ => true
  | .maxz _ _ _ => true
  | .slt _ _ _ => true
  | .sltz _ _ _ => true
  | .clz _ _ => true
  | .popc _ _ => true
  | .sextB _ _ => true
  | .sextH _ _ => true
  | .sextW _ _ => true
  | .zextB _ _ => true
  | .zextH _ _ => true
  | .zextW _ _ => true
  | .sel _ _ _ _ => true
  | .addi _ _ _ => true
  | .andi _ _ _ => true
  | .ori _ _ _ => true
  | .xori _ _ _ => true
  | .shli _ _ _ => true
  | .shri _ _ _ => true
  | .sari _ _ _ => true
  | .slti _ _ _ => true
  | .lhi _ _ => true
  | .pchi _ _ => true
  | .lds _ _ _ _ => true
  | .ldz _ _ _ _ => true
  | .st _ _ _ _ => true
  | .satomW _ _ _ _ _ => true
  | .satomD _ _ _ _ _ => true
  | .b _ => true
  | .call _ => true
  | .bcEq _ _ _ => true
  | .bcNe _ _ _ => true
  | .bcLt _ _ _ => true
  | .bcGe _ _ _ => true
  | .bcLtz _ _ _ => true
  | .bcGez _ _ _ => true
  | .callr _ => true
  | .ret => true
  | .jr _ => true
  | .lissue _ _ => true
  | .lqwait => true
  | .movk _ _ => true
  | .spop _ => true
  | .regroup _ => true
  | .bar _ => true
  | .bararrive _ => true
  | .barwait _ => true
  | .fence _ => true
  | .fenceAcq _ => true
  | .fenceRel _ => true
  | .waitp _ _ => true
  | .waitg _ _ _ => true
  | .waitgTimeout _ _ => true
  | .yield => true
  | .sleep _ => true
  | .sleepExpiry _ _ => true
  | .fnfence => true
  | .racq _ => true
  | .rrel => true
  | .tlaunch _ _ => true
  | .gexit => true
  | .groupExitComplete _ _ => true
  | .tretire => true
  | .mloop _ => true
  | .mstore _ => true
  | .mzero _ _ => true
  | .mfence _ => true
  | .mwait _ => true
  | .matrixCommandComplete _ _ => true
  | .bfqpost _ _ _ => true
  | .bfqwait _ => true
  | .batchFormTimeout _ _ => true
  | .batchComplete _ _ => true
  | .copy _ _ => true
  | .gather _ _ => true
  | .mcast _ _ => true
  | .coll _ _ => true
  | .nmlaunch _ _ => true
  | .engineCommandComplete _ => true
  | .collectiveStepComplete _ _ => true
  | .jrnlAdd _ _ => true
  | .jrnlCommit _ => true
  | .jrnlDrop _ => true
  | .trap _ => true
  | .eret => true
  | .bkpt => true
  | .tlbfill _ _ => true
  | .tlbinv _ _ => true
  | .fload _ _ _ => true
  | .setfmt _ => true
  | .rngseed _ _ => true
  | .csrr _ _ => true
  | .csrw _ _ => true
  | .csrx _ _ _ => true
  | .laneQueueScalarEffect => true
  | .functionRegisterSwitch => true
  | .nwaitExpiry _ _ => true
  | .nmProgramStart _ _ => true
  | .nmatomPerform _ _ => true
  | .depcntDecrement _ _ => true
  | .almanacRecordWrite _ _ _ _ => true
  | .recordCheck _ _ => true
  | .recordAging _ _ => true
  | .headBlocking _ _ => true
  | .placementStep => true
  | .teamRetirement _ _ _ => true
  | .commitPublish _ _ => true
  | .commitAbort _ _ => true
  | .vigilReplay _ _ => true
  | .vigilVerdict _ _ => true
  | .groupSwap _ => true
  | .starvationFlag _ _ => true
  | .forcedSwap _ => true
  | .dependenceResolved _ _ => true
  | .compaction _ => true
  | .teamSave _ _ _ => true
  | .teamRestore _ _ _ => true
  | .fpSubnormalAssist _ _ => true
  | .walkRequest _ _ => true
  | .pageRequestResponse _ _ => true
  | .atsInvalidateRequest _ _ => true
  | .accessComplete _ _ _ _ => true
  | .loadDataArrival _ _ _ _ => true
  | .stackCacheWriteback _ => true
  | .batchTableSnapshot _ _ => true
  | .scrubPass _ _ _ => true
  | .bloomFilterClear _ => true
  | .stackSnapshotAck _ => true
  | .cutMarkerReceived _ => true
  | .shadowCopy _ => true
  | .drainFrame _ => true
  | .cutFailed => true
  | .fabricMessageArrival _ => true
  | .supplySagTrip _ => true
  | .supplySagClear _ => true
  | .clockStepUp _ => true
  | .sensorSample => true
  | .moduleReset _ _ => true
  | .attestationRequest _ => true
  | .createContext _ _ _ => true
  | .releaseContext _ _ => true
  | .invalidateTranslations _ _ => true
  | .grantFrames _ _ _ _ _ => true
  | .addPagePool _ _ _ _ _ => true
  | .addSaveAreaPool _ _ _ _ _ => true
  | .registerAlmanacRegion _ _ _ _ => true
  | .placeBar2Window _ _ => true
  | .registerAuditArray _ _ _ => true
  | .registerBatchTable _ _ _ _ _ => true
  | .writeScopeTable _ _ _ _ => true
  | .preempt _ _ _ => true
  | .enableDistributorPreemption _ _ _ => true
  | .releaseSlot _ _ _ => true
  | .releaseCommandLocks _ _ => true
  | .resetFlow _ _ => true
  | .setUpFlow _ _ => true
  | .setUpDomain _ _ _ _ => true
  | .equinoxArm _ _ => true
  | .equinoxDisarm _ => true
  | .equinoxAcknowledge _ => true
  | .setAge _ _ _ => true
  | .setScrubPeriod _ _ => true
  | .setFilterSchedule _ _ => true
  | .setRepeatThreshold _ _ => true
  | .setVigilExponent _ _ _ => true
  | .migratePage _ _ _ _ => true
  | .readCapabilityBlock _ => true
  | .readPhysicalMap _ => true
  | .readSensor _ _ => true
  | .illegalOpcode => true
  | .fetchFault => true
  | .unknownMailboxOp _ _ => true

/-- What only a stream comes to: a queued scalar effect, a register switch, an undefined word, a failing fetch. -/
def Instr.isStream (i : Instr) : Bool :=
  i == .laneQueueScalarEffect || i == .functionRegisterSwitch || i == .illegalOpcode || i == .fetchFault

/-- An event of the table that happens beside the streams. -/
def Instr.isEvent (i : Instr) : Bool := encode i == .event && !i.isStream

end Sys2Proof
end

