-- ==== Sys2Proof/Config.lean ====
section
/-! DEFINITION. What one implementation fixes, and the free values: constants with no body, of which nothing can be proved. -/

namespace Sys2Proof.Config

/-- Cores of the module: 8 dies of 16 clusters of 16 cores (Table 0-1). -/
def cores : Nat := 2048
/-- Group slots of a core; slot 47 runs the walker routine (R14, R17). -/
def slots : Nat := 48
/-- Bytes of one vault, 40 MiB (06_memory.md, "The vault"). -/
def vaultBytes : Nat := 0x02800000
/-- Bytes of DRAM under one stack, 64 GiB (R424). -/
def stackBytes : Nat := 2 ^ 36

/-- FREE VALUE. The first byte of module DRAM in the physical address space, which R424 leaves to the management
controller (log entry 6). Module DRAM is aligned to its stacks' 64 GiB, so it is given in units of 64 GiB. -/
opaque dramBase : Nat

/-- FREE VALUE. The entry of the signed walker routine in slot 47 (R223). -/
opaque walkerEntry : Word
/-- FREE VALUE. What FAULTVA holds after the `n`-th step's trap when the trap names no address (R231). -/
opaque freeFaultVa : Nat → Word
/-- FREE VALUE. The key that orders lane or element `i` at step `n` where the manual gives no order (R158, R365, R369). -/
opaque freeOrder : Nat → Nat → Nat
/-- FREE VALUE. The device's choice number `i` at step `n` where the manual leaves a choice open (R217, R239, R316, R260). -/
opaque freeChoice : Nat → Nat → Nat
/-- FREE VALUE. Byte `i` written at step `n` where the manual calls the bytes unspecified (Table 10-3). -/
opaque freeByte : Nat → Nat → Byte
/-- FREE VALUE. A sensor's reading (R420). -/
opaque freeSensor : Nat → Nat → Nat
/-- FREE VALUE. The die whose clock state a sensor gives, where it gives one, and the reading of a clock at so many sixteenths: the
manual numbers no sensors (R420). -/
opaque sensorDie : Nat → Option Nat
opaque clockReading : Nat → Nat
/-- FREE VALUE. Whether a sensor's reading raises an alarm (R420). -/
opaque freeAlarm : Nat → Nat → Bool
/-- FREE VALUE. The device key's ML-DSA-65 signature of an attestation record: the digests that it lists, the nonce (R419). -/
opaque attestation : List (List Byte) → List Byte → List Byte
/-- FREE VALUE. The two AES-256 keys of XTS, in the order of their use, and the integrity key, of the key pair with a number: no
interface reads them (R229, R230). -/
opaque xtsKeys : Nat → BitVec 512
opaque integrityKey : Nat → List Byte
/-- FREE VALUE. How many bytes the host-wrapped checkpoint key has, and the two AES-256 keys that those bytes wrap (R275): the manual
gives no wrapping. -/
opaque wrappedBytes : Nat
opaque unwrap : List Byte → BitVec 512
/-- FREE VALUE. ARGS of the mailbox command of step `n`, and the bytes of its operand buffer where the manual lays out none (R413). -/
opaque freeArgs : Nat → BitVec 448
/-- FREE VALUE. The DRAM row (Table 10-6, ROW) that holds a physical address: the manual gives no address mapping. -/
opaque rowOf : Nat → BitVec 32

/-- FREE VALUE. Where a cluster's snapshot of a batch-table entry lies in its snapshot array, and where the iteration number:
the manual gives no layout (R210). -/
opaque snapshotEntry : Nat → Nat → Nat
opaque snapshotNumber : Nat → Nat
/-- FREE VALUE. The pseudo-channels of its stack that a frame's granules use (R277): the manual gives no address mapping. -/
opaque frameChannels : Nat → BitVec 128

/-- FREE VALUE. Frames of the shadow pool beyond its first (R274): the manual gives no number. -/
opaque moreShadows : Nat
/-- Frames of the shadow pool: a pool has at least one. -/
def shadowFrames : Nat := moreShadows + 1

/-- FREE VALUE. Whether the host refuses the host-memory access of step `n` (R242). -/
opaque hostRefuses : Nat → Bool

end Sys2Proof.Config
end

