-- ==== Sys2Proof/Machine/State.lean ====
section
/-! DEFINITION. The state of the module as plain data: everything that the manual names (INVENTORY.md, "State"),
with `State.reset`, and the reasons that stop a step. Arrays are sparse stores (`Store`). -/

namespace Sys2Proof.Machine

/-- Modes of a group, STATUS[1:0] (Table 11-11). -/
inductive Mode where
  | user | supervisor | walker
  deriving DecidableEq, Repr

/-- Group states, Table 1-2. -/
inductive GState where
  | free | loading | pending | waiting | active | parked | saved | halted | frozen | exited
  deriving DecidableEq, Repr

/-- Cause codes, Table 11-16. -/
inductive Cause where
  | illegalOpcode | reservedField | pairConflict | regOutOfBlock | lookahead | misaligned
  | pageFault | fetchFault | protection | scratchBounds | rangeLock | stackLimit
  | illegalWait | classMismatch | assist | fnDomain | fnEmpty | floadReject
  | uncorrectable | poison | commitOverflow | commitForbidden | software | breakpoint
  deriving DecidableEq, Repr

/-- What a read of a granule, line or vault word finds beside its data (R245, R247): the poison mark, an error that it cannot correct,
one that it corrects in the delivered data, or a tag that does not match (R230). -/
inductive Flaw where
  | poisoned | uncorrectable | correctable | tagMismatch
  deriving DecidableEq, Repr

/-- A unit with a flaw: the bits of its stored codewords that are wrong, and whether the poison mark was written into them (R246, R247). -/
structure Mark where
  kind : Flaw
  bits : List Nat
  poison : Bool
  deriving DecidableEq, Repr

/-- A flaw as the controller writes it, with no bit wrong since. -/
def Mark.of (k : Flaw) : Mark := ⟨k, [], k == .poisoned⟩

/-- Reconvergence entry kinds (R375). -/
inductive RKind where
  | ifK | elseK | loopK
  deriving DecidableEq, Repr

/-- One reconvergence entry (R375). -/
structure REntry where
  kind : RKind
  outer : Word
  alt : Word
  sfmt : Word
  body : Word
  /-- The lane-queue entry that pushed it. -/
  blk : Nat
  /-- The number of its region, and the lanes in which a LOOP's iteration began (R159). -/
  id : Nat
  alive : Word
  deriving DecidableEq, Repr

/-- A lane block taken from or waiting in the lane queue (R19): first word's address, length, its k copy, its number. -/
structure Block where
  addr : Word
  len : Nat
  k : Store Word
  id : Nat
  deriving DecidableEq, Repr

/-- Control registers whose writes act at their lane-queue position (R279). -/
inductive QCsr where
  | fmt | rngkey | slim
  deriving DecidableEq, Repr

/-- Lane-queue items: blocks, and the scalar effects ordered with them (R24, R123, R279). -/
inductive LqItem where
  | block (b : Block)
  | csr (r : QCsr) (v : Word)
  | rngseed (key : Word) (idx : BitVec 31)
  | fswitch (bank fn : Nat) (img : BitVec 8192)
  deriving DecidableEq, Repr

/-- The counters of a group's random draws: its key, RAND's index and the count of stochastic rounding (R100, R350). -/
structure Draws where
  key : Word
  draw : BitVec 31
  sdraw : Nat
  deriving DecidableEq, Repr

/-- A lane word that issues again, with the state it issued with: it waits for a consumer (R60), was abandoned (R422),
or is replayed after ERET (R238) in the lanes of `mask` only, VLDM and VSTM from register `prog`. -/
structure LaneWord where
  lpc : Word
  em : Word
  fmt : Word
  k : Store Word
  /-- Words of its lookahead window that have not issued (R62). -/
  left : Nat
  mask : Option Word
  prog : Nat
  /-- It has issued before and has been counted in the windows then open (R62, R63). -/
  counted : Bool
  /-- The function registers of its bank that it bound at issue, key register, while it waits for a consumer (R124). -/
  fn : Option (Store (BitVec 8192))
  /-- Elements of the offset register that VLDM or VSTM read before its first register, by lane (R364). -/
  offs : Option (Store W32)
  /-- The queue and the rows that it waits to push, where the assist then delivers lanes of it (R104). -/
  assist : Option (Nat × Nat)
  /-- The counters that it drew from when it issued, where it issued before (R202). -/
  rng : Option Draws
  deriving DecidableEq, Repr

/-- An open lookahead window (R62): words left, registers and masks the opener writes and reads. -/
structure Window where
  left : Nat
  wv : List Nat
  rv : List Nat
  wm : List Nat
  rm : List Nat
  deriving DecidableEq, Repr

/-- What one lane's or one scalar access does when it performs: a load of `n` elements to consecutive registers, a store, a
read-modify-write of 32 bits, folded operands' flags included, with the element that its old value goes to, or a scalar atomic
of `n` bytes with its destination (R285, R287, R362 to R366). -/
inductive MemAct where
  | load (ty : EType) (reg n : Nat)
  | store (bytes : List Byte)
  | rmw (op : AtomOp) (ty : EType) (ftz : Bool) (v c : W32) (flags : BitVec 7) (dst : Option Nat)
  | satom (op : AtomOp) (n : Nat) (v c : Word) (d : SReg)
  deriving DecidableEq, Repr

/-- One access that has issued and has not performed: its lane, or the lowest one of those folded into it (R366), the mask of
those lanes, virtual and flat address, bytes. -/
structure Todo where
  lane : Nat
  mask : Word
  va : Nat
  flat : Nat
  n : Nat
  act : MemAct
  /-- FAULTPROG.PROG of its instruction: the register that VLDM and VSTM have come to (R234). -/
  prog : Nat
  deriving DecidableEq, Repr

/-- Bad data that an access met (R249): its lanes, the lowest bad virtual address and its physical address, the cause, the access
kind, FAULTPROG.PROG. -/
structure Bad where
  mask : Word
  va : Word
  pa : Word
  cause : Cause
  acc : Nat
  prog : Nat
  deriving DecidableEq, Repr

/-- Order attributes of an access (Table 7-1). -/
structure Order where
  acquire : Bool
  release : Bool
  deriving DecidableEq, Repr

/-- One access in flight (R147): its path, the destination elements that wait for data (key register × 64 + lane),
lanes reported bad (R249), and whether it is complete. -/
structure Access where
  path : Path
  writes : List (Nat × W32)
  /-- Lanes' accesses that have not performed (R139, R158). -/
  todo : List Todo
  order : Order
  /-- It is the lane stream's, and a join of the scalar stream has followed it (R161). -/
  lane : Bool
  past : Bool
  /-- Lane blocks queued before a scalar access (R23). -/
  mark : Nat
  /-- The arms and the loops that it lies in, by region number; the flag is set in an ELSE arm (R159). -/
  arms : List (Nat × Bool)
  loops : List (Nat × Word)
  /-- The word's address. -/
  lpc : Word
  bad : Option Bad
  /-- The engine command that it counts (path ENG). -/
  cmd : Option Nat
  /-- The 64 KiB pages that it translated (R225). -/
  pages : List Nat
  arrived : Bool
  done : Bool
  deriving DecidableEq, Repr

/-- What an assist still has to write (R104): register elements, row-queue and A-row writes, UNF. -/
structure AssistRec where
  writes : List (Nat × W32)
  queue : List (Nat × List W32)
  arow : List (Nat × W32)
  unf : Bool
  deriving DecidableEq, Repr

/-- One range lock (R154): context, vault space or global, base, length, write mode, the command. -/
structure RLock where
  ctx : Nat
  vault : Bool
  base : Nat
  len : Nat
  write : Bool
  cmd : Nat
  deriving DecidableEq, Repr

/-- A lock of a command that is about to be placed, with its die. -/
structure LockReq where
  vault : Bool
  base : Nat
  len : Nat
  write : Bool
  die : Nat
  deriving DecidableEq, Repr

/-- What a scalar word that stalls needs, without making the group WAITING by itself (R19, R148, R164, R301): a join, a place in
the lane queue, in a path's counter, in the die's lock tables, in its journal, in its post table or among the core's matrix commands, its FLOADs'
switches, data on its way to the extended block, what holds its access or its translation up. -/
inductive Stall where
  | join | fence | command | performed | queue | switch | ext | journal | matrix | posts
  /-- An earlier access, a row lock or a shadow holds back a scalar access of so many bytes at a flat address (R139, R171). -/
  | held (flat n : Nat) (write : Bool)
  /-- A miss of the requester is at the walker (R223). -/
  | miss (r : Requester)
  | counter (p : Path)
  | locks (l : List LockReq)
  deriving DecidableEq, Repr

/-- What the scalar stream of a group waits on (R14). -/
inductive Wait where
  | path (p : Path) (n : Nat)
  | batch (n : Nat)
  | barrier | spop
  /-- WAITG: the handle and the status destination. -/
  | handle (h : Word) (d : SReg)
  | ticket (n : Nat) | rows (n : Nat) | sleep | lanes | regroup
  | stall (r : Stall)
  /-- TLBINV: pages of the translations that it removed (R225). -/
  | inv (pages : List (Nat × Nat))
  deriving DecidableEq, Repr

/-- What the lane stream of a group waits on (R14): near-memory atomics, rows of the queues that its next word names, data on its way to
registers, a place in the return slot or in a path's counter, an opener that has not retired and whose window has closed, the commands on
an accumulator, an acquire before a binding, what holds its accesses (flat address, bytes, write) or its translation up. -/
inductive LaneWait where
  | nmfence
  | queues (l : List Nat)
  | data (regs : List Nat)
  | ret
  | counter (p : Path)
  | opener
  | acc (n : Nat)
  | acquire
  | performed
  | held (o : Order) (l : List (Nat × Nat × Bool))
  | miss (r : Requester)
  deriving DecidableEq, Repr

/-- What ended a matrix command or a posted row: cause, address, FAULTPROG (R226, R249, R310). -/
structure Ended where
  cause : Cause
  va : Word
  prog : Word
  deriving DecidableEq, Repr

/-- The trap shadow (R231). -/
structure Shadow where
  s : Store Word
  em : Word
  fmt : Word
  rstack : List REntry
  ret : List Word
  lq : List LqItem
  run : Option Block
  lpc : Word
  abandoned : List LaneWord
  /-- The trapping lane word, with the state it issued with. -/
  word : LaneWord
  /-- EPCL as the entry wrote it, so that ERET can tell a rewritten one. -/
  epcl : Word
  laneTrap : Bool
  fmtS : Word
  deriving DecidableEq, Repr

/-- A group in a slot, or in its team's save image (R10, R17, Tables 1-1, 1-4, 1-6, 8-14). -/
structure Group where
  st : GState
  /-- Team key (context, record, team), group index in team, declared width. -/
  team : Nat
  gidx : Nat
  width : Nat
  /-- For width 64: the slot of lanes 32-63 is the next slot; this group's fields serve both (R44). -/
  spc : Word
  lpc : Word
  s : Store Word
  k : Store Word
  m : Store Word
  em : Word
  /-- Vector elements: key register × 64 + lane; those that hold an uncorrectable error (R245). -/
  v : Store W32
  badV : List Nat
  status : Word
  cause : Word
  epcs : Word
  epcl : Word
  faultva : Word
  faultmask : Word
  faultprog : Word
  fmt : Word
  rngkey : Word
  slim : Word
  /-- FMT, RNGKEY and SLIM as last written in scalar program order (R279). -/
  fmtS : Word
  rngkeyS : Word
  slimS : Word
  cls : Word
  auditclass : Word
  ctxid : Word
  lq : List LqItem
  run : Option Block
  nextBlk : Nat
  /-- The next region's number (R159). -/
  nextRegion : Nat
  ret : List Word
  rstack : List REntry
  windows : List Window
  waitingWords : List LaneWord
  abandoned : List LaneWord
  shadow : Option Shadow
  inflight : List Access
  assistRec : Option AssistRec
  assists : Nat
  sdraw : Nat
  draw : BitVec 31
  nextTok : Nat
  /-- Final statuses (Table 8-4) of the group's engine commands, those of its 1024 most recent ones that have ended (R179). -/
  tokDone : List (Nat × Nat)
  nextBatch : Nat
  /-- Tickets of BFQPOST (R309): none while the row waits; then whether its results were written, or what ended it. -/
  tickets : List (Nat × Option (Option Ended))
  nextTicket : Nat
  /-- Blocks of register rows held (R32, R33): first rows per hardware slot; extended rows 0, 64, 128, 256 or 512. -/
  baseRows : List Nat
  ext : Nat
  extRows : List Nat
  rpf : List Nat
  /-- Age stamp: TIME when it last entered PENDING (R194). Then the die's cycle of that entry or of its last issue, and the
  cycle at which it was flagged starved. -/
  age : Nat
  lastIssue : Nat
  starved : Option Nat
  issued : Bool
  /-- Cycle of the die at which the SLEEP or WAITG in progress ends (R299, R179), when it can. -/
  deadline : Option Nat
  /-- Team barrier (R295): a pending arrival's phase, and whether a BAR waits on it. -/
  barPhase : Option Nat
  barWaits : Bool
  /-- What the scalar stream and the lane stream wait on (R14). -/
  sWait : Option Wait
  lWait : Option LaneWait
  /-- A FLOAD or GEXIT that has passed its join (R319). -/
  exiting : Bool
  /-- A TRETIRE of a sibling stopped this group (R320). -/
  stopped : Bool
  nmPending : Nat
  nmPoison : Bool
  /-- A host page request is outstanding for the access that the group replays (R240). -/
  pageReq : Option WalkReq
  stackSlot : Option Nat
  /-- The fault that ended the group, with its TIME (R112). -/
  fault : Option (Nat × BitVec 8)
  deriving DecidableEq, Repr

/-- One commit-window line (R255): line address, byte mask, data. -/
structure CLine where
  addr : Nat
  mask : BitVec 128
  data : BitVec 1024
  deriving DecidableEq, Repr

/-- One barrier or rendezvous (R295, R46): the current phase and the groups that have arrived in it. -/
structure Barrier where
  phase : Nat
  arrived : List Nat
  deriving DecidableEq, Repr

/-- Matrix state held by a team: accumulators (key acc × 16384 + 512 m + n), poison marks, the B slice last loaded in each
stream with its side entries, A row buffers (key buffer × 256 + 32 row + lane) (R303). -/
structure Matrix where
  acc : Store W32
  poison : BitVec 4
  /-- B slices: key slice × 2^16 + byte of the slice. -/
  b : Store Byte
  /-- Their side entries: key slice × 512 + column. -/
  bside : Store (BitVec 16)
  /-- Slices held, with their element width in bits. -/
  held : Store Nat
  arow : Store W32
  /-- Errors that the next reader finds (R245): elements of A row buffers, and slices with 2^20 added. -/
  bad : List Nat
  deriving DecidableEq, Repr

/-- A matrix command in the core's queue (R301): kind 0 MLOOP, 1 MSTORE, 2 MZERO, 3 a formed batch. -/
structure MCmd where
  id : Nat
  kind : Nat
  pack : List Word
  stream : Nat
  acc : Nat
  ctx : Nat
  user : Bool
  team : Nat
  gidx : Nat
  batch : Nat
  fmt : Word
  rngkey : Word
  sdraw : Nat
  /-- A fault found while it ran; the command has ended (R226, R249). -/
  fault : Option Ended
  /-- A host page request is outstanding for it (R226). -/
  pageReq : Option WalkReq
  deriving DecidableEq, Repr

/-- An engine command (R311): its number, issuer, kind (fn8), operand pack, token. -/
structure ECmd where
  id : Nat
  kind : Nat
  pack : List Word
  core : Nat
  team : Nat
  gidx : Nat
  ctx : Nat
  user : Bool
  tok : Nat
  /-- The command stopped by PROTECTION; its locks stay until the host releases them (R243). -/
  frozen : Bool
  /-- A host page request is outstanding for it (R226). -/
  pageReq : Option WalkReq
  /-- The Almanac record that started it, where no group did (R378). -/
  recIndex : Option Nat
  deriving DecidableEq, Repr

/-- A TLB entry (R221): context, first page address, log2 of the page size, the leaf as read. -/
structure TlbEntry where
  ctx : Nat
  va : Nat
  bits : Nat
  leaf : Word
  deriving DecidableEq, Repr

/-- A registered B slice (R306). -/
structure Registration where
  wid : Nat
  core : Nat
  acc : Nat
  stream : Nat
  fmt : Word
  banks : BitVec 2
  /-- The slice that it registered: element width, bytes, side entries, none where the B store held no slice; and the bad
  data that it holds. -/
  slice : Option (Nat × Store Byte × Store (BitVec 16))
  bad : Option Cause
  deriving DecidableEq, Repr

/-- A posted row (R309). -/
structure PostRow where
  wid : Word
  addr : Word
  core : Nat
  ctx : Nat
  user : Bool
  team : Nat
  gidx : Nat
  ticket : Nat
  time : Nat
  /-- The row's bytes as they were read when its batch formed, with bad data that the read met (R309). -/
  row : Option (List Byte × Option Cause)
  /-- Its results are written, or it has ended with a fault (R310). -/
  settled : Bool
  deriving DecidableEq, Repr

/-- A formed batch (R206): its rows, the registration found at formation, and an outstanding host page request. -/
structure Batch where
  id : Nat
  rows : List PostRow
  reg : Option Registration
  pageReq : Option WalkReq
  deriving DecidableEq, Repr

/-- A journal entry (R317). -/
structure JEntry where
  ctx : Nat
  node : W32
  addr : Word
  inc : W32
  deriving DecidableEq, Repr

/-- A record waiting in a priority queue (R188), as the walker checked it with its descriptor: the die's cycle of entry, and
the one since which its placement fails at the queue's head. -/
structure QEntry where
  ctx : Nat
  index : Nat
  /-- The saved team whose resumption the entry queues (R199); none for a new task. -/
  team : Option Nat
  record : BitVec 512
  desc : BitVec 512
  since : Nat
  failing : Option Nat
  deriving DecidableEq, Repr

/-- Per-die state. -/
structure Die where
  tlb : List TlbEntry
  locks : List RLock
  /-- The four priority queues, level 0 first (R188). -/
  q0 : List QEntry
  q1 : List QEntry
  q2 : List QEntry
  q3 : List QEntry
  age : Nat
  posts : List PostRow
  batches : List Batch
  regs : List Registration
  journal : List JEntry
  clock : Nat
  sag : Bool
  /-- Cycle count of the die at the last clock change (R421). -/
  clockSince : Nat
  /-- Sixteenths of a reference cycle that its stretched clock has lost (R7, R421). -/
  lag : Nat
  deriving DecidableEq, Repr

/-- Per-core state. -/
structure Core where
  starve : Word
  tlb : List TlbEntry
  walk : Option WalkReq
  /-- A fault that the walker found for a request, not yet taken: fault kind and level (R224). -/
  verdict : Option (WalkReq × Nat × Nat)
  /-- Misses that wait for the walker (R223). -/
  missed : List WalkReq
  mx : Matrix
  holder : Option Nat
  mcmds : List MCmd
  /-- Function images: key (context × 2 + bank) × 16 + register; the empty register is 0 (R115 makes every image non-zero). -/
  fn : Store (BitVec 8192)
  /-- Function registers that hold an uncorrectable error (R245). -/
  fnBad : List Nat
  /-- Descriptors and scope words as loaded when the context became resident here (R151, R212); key context. -/
  desc : Store (BitVec 1024)
  scope : Store W32
  deriving DecidableEq, Repr

/-- A near-memory program on an SDUE (R378). -/
structure NmProg where
  ctx : Nat
  /-- Launching engine command. -/
  cmd : Nat
  arg : Word
  npc : Word
  /-- Wide registers: key register × 512 + byte. -/
  w : Store Byte
  a : Store Word
  lc : Store W32
  flags : BitVec 7
  /-- Lock rows held: virtual and physical row address, newest first. -/
  locks : List (Nat × Nat)
  count : Nat
  /-- The NWAIT in progress: the die's cycle at which it began, its wide register and type (R385). -/
  waiting : Option (Nat × Nat × EType)
  /-- The argument block has been read (R378). -/
  loaded : Bool
  pageReq : Option WalkReq
  deriving DecidableEq, Repr

/-- A near-memory atomic queued at a stack (R369). -/
structure NmAtom where
  va : Nat
  addr : Nat
  ty : EType
  op : BitVec 2
  val : W32
  core : Nat
  team : Nat
  gidx : Nat
  ctx : Nat
  /-- The next command number when it was issued: later commands of the group come after it (R167). -/
  before : Nat
  deriving DecidableEq, Repr

/-- A record of the corrected-error log, Table 10-6. -/
structure LogRec where
  code : Nat
  scrub : Bool
  bloom : Bool
  epoch : Nat
  row : Nat
  repeats : Nat
  time : Nat
  deriving DecidableEq, Repr

/-- Per-stack state; SDUEs 0 to 3 and the programs delivered to each. -/
structure Stack where
  sdue : Store NmProg
  queue : List (Nat × NmProg)
  atoms : List NmAtom
  /-- Locked DRAM rows: physical 2 KiB row and the SDUE (R139, R386). -/
  rows : List (Nat × Nat)
  log : List LogRec
  /-- Set bits of the Bloom filter, rising (R267). -/
  bloom : List Nat
  epoch : Nat
  bloomSince : Nat
  deriving DecidableEq, Repr

/-- A team's save image (Table 8-14): its groups, its matrix state, the bytes and marks of its vault window by offset. -/
structure SaveImage where
  groups : List Group
  matrix : Option Matrix
  bytes : List Host.Cell
  marks : List (Nat × Mark)
  /-- The frames of the save-area pool that it fills (R198). -/
  frames : List Nat
  deriving DecidableEq, Repr

/-- A sealed commit window (R258): team, die, its first byte in the die's vault, its lines. -/
structure Sealed where
  team : Nat
  die : Nat
  base : Nat
  lines : List CLine
  deriving DecidableEq, Repr

/-- A placed or saved team (R10, R191, R198). -/
structure Team where
  grid : Nat
  index : Nat
  core : Nat
  nprod : Nat
  ngroups : Nat
  /-- Slots of its groups in ascending group index. -/
  slots : List Nat
  base : Nat
  wsize : Nat
  bar : Barrier
  regroup : Barrier
  /-- Role queues: key is the queue; rows oldest first, 32 elements each. -/
  q : Store (List (List W32))
  /-- Elements of role queues that hold an uncorrectable error (R245): queue, row counted from the oldest, lane. -/
  qbad : List (Nat × Nat × Nat)
  commit : List CLine
  cbase : Nat
  mcast : Nat
  matrix : Bool
  /-- Save image; none while resident. -/
  image : Option SaveImage
  /-- A save, or a commit abort, has stopped its issue (R198, R259). -/
  saving : Bool
  /-- Final states of groups whose slots the host released (R414). -/
  gone : List (Nat × GState)
  deriving DecidableEq, Repr

/-- A launched grid (R111, R182, R258). -/
structure Grid where
  ctx : Nat
  index : Nat
  record : BitVec 512
  desc : BitVec 512
  placed : Nat
  retired : Nat
  flags : BitVec 7
  /-- First fault (R112): TIME, team, group, cause code. -/
  first : Option (Nat × Nat × Nat × BitVec 8)
  assists : Nat
  /-- Grid orders of the groups that ended HALTED or FROZEN. -/
  broken : List Nat
  /-- Sealed windows of retired teams (R258). -/
  sealed : List Sealed
  /-- Signature sums (R261). -/
  sigIn : Nat
  sigOut : Nat
  /-- Cores on which its teams ran. -/
  cores : List (Nat × Nat)
  /-- Clusters ranked last at relaunch (R259). -/
  avoid : List Nat
  /-- Set for a Vigil replay (R262): the original's signature sums. -/
  replayOf : Option (Nat × Nat)
  /-- A group ended by a fault; a commit task waits for COMMIT_ABORT (R259). -/
  faulted : Bool
  deriving DecidableEq, Repr

/-- A context (R42, R212). -/
structure Ctx where
  created : Bool
  desc : BitVec 1024
  /-- RANGE0 to RANGE7 in force; a change waits for the invalidate command (R212). -/
  ranges : BitVec 512
  /-- Scope words: key entry × 8 + j (R151). -/
  scope : Store W32
  almBase : Word
  almRecords : Nat
  audit : Option Word
  batch : Option (Word × Nat × Word)
  pool : List (Nat × Granule)
  savePool : List (Nat × Granule)
  preemptOn : Bool
  /-- The number of its key pair (R229). -/
  key : Option Nat
  /-- Pages of the translations that an invalidate command has removed and still waits on (R225). -/
  inv : List (Nat × Nat)
  /-- Records that a decrement or a relaunch has made READY and the walker has not checked yet (R184, R185). -/
  checks : List Nat
  deriving DecidableEq, Repr

/-- How a 128-byte unit of module DRAM has been written since its frame was formatted (R229): the key pair that it is encrypted with,
none where it was written in the clear. Memory lists the unit's bytes before encryption; once bytes have been written in the clear into
an encrypted unit, or with one key pair into a unit of another, `raw` is what the unit stores. -/
structure UnitKey where
  key : Option Nat
  raw : Option (BitVec 1024)
  deriving DecidableEq, Repr

/-- Cut states, Table 10-8. -/
inductive CutState where
  | idle | armed | hold | cut | draining | done | failed
  deriving DecidableEq, Repr

/-- A frame as it was copied to the shadow pool (R274): its bytes, marks, how its units were written, and their tags. -/
structure FrameCopy where
  frame : Nat
  cells : List Host.Cell
  marks : Store Mark
  units : Store UnitKey
  tags : Store (BitVec 64)
  deriving DecidableEq, Repr

/-- A write that its stack queues (R273, R274): its bytes, newest first, whether the data is poisoned, the writer's key pair. -/
structure Queued where
  cells : List Host.Cell
  poisoned : Bool
  key : Option Nat
  deriving DecidableEq, Repr

/-- Equinox (R271 to R275): state, request, stacks that acknowledged, markers received, messages held, frames of the
snapshot not yet drained (with context and virtual address), shadow copies, next SEQ. -/
structure Equinox where
  st : CutState
  req : BitVec 512
  acks : List Nat
  markers : List Nat
  held : List FabricMsg
  snap : List (Nat × Nat × Nat)
  shadow : List FrameCopy
  seq : Nat
  /-- Writes that the stacks queue, newest first (R273, R274). -/
  queued : List Queued
  deriving DecidableEq, Repr

/-- A collective domain (R418). -/
structure Domain where
  members : List Nat
  flows : List Nat
  steps : Nat
  deriving DecidableEq, Repr

/-- What leaves the module toward the host or the fabric: page requests, cut markers, drained frames, refusals of fabric messages,
attestation records, completions of ATS invalidations, fabric messages with their step tag, requests to send a message again. Markers,
frames and messages carry their flow's sequence number. -/
inductive Out where
  | pageRequest (pasid : Nat) (va : Word) (write supervisor : Bool)
  | marker (flow seq : Nat)
  | frame (flow seq : Nat) (header : BitVec 512) (bytes : List Byte) (poisoned : List Nat)
  | refusedMsg (flow : Nat)
  | attestation (digests : List (List Byte)) (nonce signature : List Byte)
  | invalidated (pasid : Nat) (va : Word)
  | message (m : FabricMsg)
  | again (flow seq : Nat)
  deriving DecidableEq, Repr

/-- A flow of the fabric (R417): its descriptor, whether it is frozen, the sequence numbers next sent and next expected, and
messages that have arrived and wait (R168, R139). -/
structure Flow where
  desc : BitVec 576
  setUp : Bool
  frozen : Bool
  seq : Nat
  expect : Nat
  waiting : List FabricMsg
  /-- Of an unordered flow, sequence numbers beyond the next expected one that have come. -/
  ahead : List Nat
  /-- What the module has sent on the flow, by sequence number, so that a gap at the peer can be sent again. -/
  sent : Store Out
  deriving DecidableEq, Repr

/-- Entries of the management event queue (R244, R250, R263, R268, R325, R420). -/
inductive MgmtEvent where
  | freeze (record : BitVec 256)
  | halt (record : BitVec 256)
  | almanac (ctx index what : Nat)
  | journal (ctx : Nat) (node : W32) (addr : Word)
  | walkerError (core : Nat)
  | notify (ctx index : Nat) (done : Bool)
  | repeatThreshold (stack row : Nat)
  | migration (ctx : Nat) (va : Word)
  | vigil (ctx index verdict : Nat) (original replay : Nat) (cores : List (Nat × Nat))
  | cut (id : Nat) (done : Bool)
  | alarm (sensor reading : Nat)
  | refused (tag : W32) (op : Nat)
  | preemptRefused (ctx index team : Nat)
  | firmware (ok : Bool)
  | nmEnded (ctx cause : Nat)
  | configIgnored (id : Nat)
  deriving DecidableEq, Repr

/-- A mailbox slot (Table 20-2): the command, OWN, RESULT, VALUE. -/
structure MbResult where
  op : BitVec 8
  ctx : Nat
  tag : W32
  args : BitVec 448
  own : Bool
  result : BitVec 8
  value : BitVec 48
  /-- Operand buffer, as the host wrote it or the controller (R413); bytes beyond the list are 0. -/
  buffer : List Byte
  deriving DecidableEq, Repr

/-- Vigil's state of one audit class (R260): its exponent where the host has enabled it, the count, the offset drawn. -/
structure VigilClass where
  exp : Option Nat
  count : Nat
  offset : Nat
  deriving DecidableEq, Repr

/-- What acts in a move. -/
inductive Agent where
  | scalar (core slot : Nat)
  | lane (core slot : Nat)
  /-- The lane stream tries again the oldest word that waits for a queue or an A row buffer (R60). -/
  | retry (core slot : Nat)
  /-- The `j`-th access outstanding of the `n`-th instruction in flight performs (R158). -/
  | access (core slot n j : Nat)
  | sdue (stack n : Nat)
  | event (i : Instr)
  | idle
  deriving DecidableEq, Repr, Inhabited

/-- What reaches the module from outside in a move: bytes that the host, a CXL device or a peer module writes at a flat address, a peer's
request to send what had a sequence number of a flow again (R417); bit errors in a DRAM granule, a vault word or a commit-window word, by
bit of the stored codeword (R245, R246); a line that arrives poisoned or that a cache loses (R248); an error in an element of a register,
a role queue, an accumulator, an A row buffer, in a B slice, a function register, or a scalar, mask or control register of a group (Table
10-1). -/
inductive Input where
  | write (a : Nat) (bytes : List Byte)
  | again (flow seq : Nat)
  | flips (a : Nat) (bits : List Nat)
  | poison (a : Nat)
  | vreg (core slot elem : Nat)
  | queue (team q row lane : Nat)
  | acc (core n : Nat)
  | arow (core elem : Nat)
  | slice (core n : Nat)
  | fn (core key : Nat)
  | sreg (core slot : Nat)
  deriving DecidableEq, Repr

/-- One move: who acts, how many reference cycles pass before it, the lanes whose memory accesses do not perform at issue but later
(R158, R175), whether TLB misses are left to the walker's slot (R223), the slots of the core whose next words the pipelines do not let
issue in this cycle (R194), and what comes from outside before it. -/
structure Move where
  dt : Nat
  who : Agent
  late : Word
  walker : Bool
  unready : Word
  inputs : List Input
  deriving DecidableEq, Repr, Inhabited

/-- How the current lane word came to execute: in stream order, again as the first abandoned word, or as a waiting word. -/
inductive LaneFrom where
  | stream | again | waiting
  deriving DecidableEq, Repr

/-- The stream that executes. -/
inductive Stream where
  | scalar | lane | sdue
  deriving DecidableEq, Repr

/-- The agent that executes, and for a lane word the state it executes with. -/
structure Cur where
  core : Nat
  slot : Nat
  stack : Nat
  sdue : Nat
  stream : Stream
  lane : LaneWord
  /-- The mask field of the lane word. -/
  mreg : Nat
  src : LaneFrom
  /-- Lanes whose memory accesses perform later than this move; a scalar access counts as lane 0. -/
  late : Word
  /-- TLB misses wait for the walker's slot. -/
  walker : Bool
  /-- Slots of the core whose next words are not ready in this cycle. -/
  unready : Word
  /-- The key pair with which the agent reaches encrypted pages (R229). -/
  key : Option Nat
  /-- An access of the device's own has met a row that an SDUE holds, so that what makes it must wait (R386). -/
  rowWait : Bool
  deriving DecidableEq, Repr

/-- What the management controller keeps in flash (R419, R420): the monotonic counter, the digests of the accepted images, and the
configuration records accepted last. -/
structure Firmware where
  counter : Nat
  digests : List (List Byte)
  records : List CfgRecord
  deriving DecidableEq, Repr

/-- The module. -/
structure State where
  time : Nat
  tick : Nat
  moves : List Move
  cur : Cur
  /-- Bytes by flat address (Memory.lean, "Flat addresses"). -/
  mem : List Host.Cell
  marks : Store Mark
  /-- How units have been written, and the integrity tags of the carve-out, by address divided by 128; `encOn`: memory encryption is
  enabled (R230); the next key pair. -/
  cipher : Store UnitKey
  tags : Store (BitVec 64)
  encOn : Bool
  nextKey : Nat
  frames : Store Granule
  ctxs : Store Ctx
  groups : Store Group
  cores : Store Core
  dies : Store Die
  hbmStacks : Store Stack
  teams : Store Team
  grids : Store Grid
  /-- Distributor: die last served at each level, level 0 first (R189). -/
  rr : List Nat
  ecmds : List ECmd
  nextCmd : Nat
  flows : Store Flow
  domains : Store Domain
  iters : Store Nat
  /-- Last stable copies of batch-table entries: key context × 2^32 + entry (R210). -/
  stable : Store (BitVec 512)
  eqx : Equinox
  events : List MgmtEvent
  out : List Out
  mailbox : Store MbResult
  /-- Commands that the controller has taken and not finished, in the order of their OWN writes: slot and context (R413). -/
  inbox : List (Nat × Option Nat)
  bar2 : Option Nat
  /-- Host page requests that wait for a place among the 64 outstanding of their PASID, oldest first (R415). -/
  priQueue : List (Nat × WalkReq)
  /-- Page-request groups outstanding at the host, with their PASID (R415). -/
  priOut : List (Nat × WalkReq)
  /-- Host translations that the hub dies cache: PASID and host page (R214); ATS invalidations that wait (R411). -/
  ats : List (Nat × Nat)
  atsQueue : List (Nat × Word)
  cap : Capability
  fw : Firmware
  inReset : Bool
  scrubPeriod : Nat
  filterPeriod : Nat
  repeatAt : Nat
  vigil : Store VigilClass
  /-- The sensors' readings as sampled last, and the time of that sample (R420). -/
  samples : Store Nat
  sampledAt : Nat
  deriving DecidableEq, Repr

/-- Reasons that stop a step. `noSuchUnit` is raised by `step` for a move of a core, a group slot, a stack or an SDUE
that the module does not have (Table 0-1, R17): no run of the hardware has such a move. Safe. -/
inductive Fault where
  | noSuchUnit
  deriving DecidableEq, Repr

/-- `notModelled` is answered only by a dispatch arm of an instruction that has no meaning yet. Safe. -/
inductive Refusal where
  | notModelled (mnemonic : String)
  deriving DecidableEq, Repr

/-- A step's result. -/
abbrev Result := Host.Outcome State Fault Refusal

/-- FREE VALUE. The move that happens at step `n` once `moves` is empty (log entry 1). -/
opaque nextMove : Nat → Move

/-- A free slot's group: every field at the value of R17 for a group with no launch. -/
def Group.init : Group where
  st := .free
  team := 0
  gidx := 0
  width := 32
  spc := 0
  lpc := 0
  s := []
  k := []
  m := []
  em := 0
  v := []
  badV := []
  status := 0
  cause := 0
  epcs := 0
  epcl := 0
  faultva := 0
  faultmask := 0
  faultprog := 0
  fmt := 0x200
  rngkey := 0
  slim := 0
  fmtS := 0x200
  rngkeyS := 0
  slimS := 0
  cls := 0
  auditclass := 0
  ctxid := 0
  lq := []
  run := none
  nextBlk := 0
  nextRegion := 0
  ret := []
  rstack := []
  windows := []
  waitingWords := []
  abandoned := []
  shadow := none
  inflight := []
  assistRec := none
  assists := 0
  sdraw := 0
  draw := 0
  nextTok := 1
  tokDone := []
  nextBatch := 1
  tickets := []
  nextTicket := 1
  baseRows := []
  ext := 0
  extRows := []
  rpf := []
  age := 0
  lastIssue := 0
  starved := none
  issued := false
  deadline := none
  barPhase := none
  barWaits := false
  sWait := none
  lWait := none
  exiting := false
  stopped := false
  nmPending := 0
  nmPoison := false
  pageReq := none
  stackSlot := none
  fault := none

/-- Matrix state when a team takes the unit (R30, R303). -/
def Matrix.init : Matrix := ⟨[], 0, [], [], [], [], []⟩

/-- A core after reset (Table 8-12). -/
def Core.init : Core := ⟨0x1000, [], none, none, [], Matrix.init, none, [], [], [], [], []⟩

/-- A die after reset (R188, R421). -/
def Die.init : Die := ⟨[], [], [], [], [], [], 2 ^ 16, [], [], [], [], 16, false, 0, 0⟩

/-- A stack after reset. -/
def Stack.init : Stack := ⟨[], [], [], [], [], [], 0, 0⟩

/-- A context that has not been created. -/
def Ctx.init : Ctx := ⟨false, 0, 0, [], 0, 0, none, none, [], [], false, none, [], []⟩

/-- A collective domain, flow and audit class not set up; no verdict of a mailbox slot. -/
def Domain.init : Domain := ⟨[], [], 0⟩
def Flow.init : Flow := ⟨0, false, false, 0, 0, [], [], []⟩

/-- Every unit present (R1, log entry 4). -/
def Capability.full : Capability :=
  ⟨BitVec.allOnes 8, BitVec.allOnes 32, BitVec.allOnes 2, BitVec.allOnes 18, BitVec.allOnes 4,
   BitVec.allOnes 2048, BitVec.allOnes 512, BitVec.allOnes 4096⟩

/-- No cut armed. -/
def Equinox.init : Equinox := ⟨.idle, 0, [], [], [], [], [], 0, []⟩

/-- Nobody acts. -/
def Cur.init : Cur := ⟨0, 0, 0, 0, .scalar, ⟨0, 0, 0x200, [], 0, none, 0, false, none, none, none, none⟩, 0, .stream, 0, false, 0, none, false⟩

/-- The module right after reset: nothing placed, nothing in memory, every parameter at its reset value. -/
def State.reset : State where
  time := 0
  tick := 0
  moves := []
  cur := Cur.init
  mem := []
  marks := []
  cipher := []
  tags := []
  encOn := false
  nextKey := 0
  frames := []
  ctxs := []
  groups := []
  cores := []
  dies := []
  hbmStacks := []
  teams := []
  grids := []
  rr := [7, 7, 7, 7]
  ecmds := []
  nextCmd := 0
  flows := []
  domains := []
  iters := []
  stable := []
  eqx := Equinox.init
  events := []
  out := []
  mailbox := []
  inbox := []
  bar2 := none
  priQueue := []
  priOut := []
  ats := []
  atsQueue := []
  cap := Capability.full
  fw := ⟨0, [], []⟩
  inReset := false
  scrubPeriod := 24
  filterPeriod := 2 ^ 40
  repeatAt := 16
  vigil := []
  samples := []
  sampledAt := 0

end Sys2Proof.Machine
end

