-- ==== Sys2Proof/Machine/Flags.lean ====
section
/-! DEFINITION. The sticky flags of Table 4-10 as a seven-bit set, and the values and flags of Table 4-7 and 4-8 that
belong to one operation. -/

namespace Sys2Proof.Machine

/-- Sticky flags in the bit order of Table 4-10. -/
abbrev Flags := BitVec 7

def Flags.ovf : Flags := 0x01
def Flags.unf : Flags := 0x02
def Flags.inv : Flags := 0x04
def Flags.snan : Flags := 0x08
def Flags.fndom : Flags := 0x10
def Flags.smpz : Flags := 0x20
def Flags.fmrow : Flags := 0x40

/-- A flag where a condition holds. -/
def Flags.when (c : Bool) (f : Flags) : Flags := if c then f else 0

/-- The union of the flags of many lanes. -/
def Flags.join (l : List Flags) : Flags := l.foldl (· ||| ·) 0

end Sys2Proof.Machine
end

