-- ==== Sys2Proof/Machine/Float.lean ====
section
/-! DEFINITION. Number formats and rounding (04_numbers.md): exact values, the one rounding function of every format,
special values and flags (Tables 4-5 to 4-8), and the Philox-4x32-10 function (R100, R133). -/

namespace Sys2Proof.Machine

/-- An exact value: a NaN (signalling or quiet), an infinity, or a sign, an integer and a power of two. -/
inductive FVal where
  | nan (signalling : Bool)
  | inf (neg : Bool)
  | num (neg : Bool) (m : Nat) (e : Int)
  deriving DecidableEq, Repr

namespace FVal

def zero (neg : Bool) : FVal := .num neg 0 0
def qnan : FVal := .nan false
def one : FVal := .num false 1 0
def isNan : FVal → Bool
  | .nan _ => true
  | _ => false
def isSnan : FVal → Bool
  | .nan q => q
  | _ => false
def isInf : FVal → Bool
  | .inf _ => true
  | _ => false
def isZero : FVal → Bool
  | .num _ 0 _ => true
  | _ => false
def neg? : FVal → Bool
  | .nan _ => false
  | .inf s => s
  | .num s _ _ => s
def neg : FVal → FVal
  | .nan q => .nan q
  | .inf s => .inf (!s)
  | .num s m e => .num (!s) m e
def abs : FVal → FVal
  | .nan q => .nan q
  | .inf _ => .inf false
  | .num _ m e => .num false m e
/-- Multiplication by a power of two. -/
def scale (v : FVal) (k : Int) : FVal :=
  match v with
  | .num s m e => .num s m (e + k)
  | v => v
/-- Bits of the integer n as a value. -/
def ofInt (n : Int) : FVal := .num (decide (n < 0)) n.natAbs 0

end FVal

/-! ### Formats (Table 4-1) -/

/-- Mantissa bits, exponent bias and largest finite magnitude as an integer times a power of two. -/
structure Format where
  man : Nat
  exp : Nat
  bias : Nat
  maxM : Nat
  maxE : Int
  deriving DecidableEq, Repr

/-- Table 4-1. -/
def EType.format : EType → Format
  | .f16 => ⟨10, 5, 15, 2047, 5⟩
  | .bf16 => ⟨7, 8, 127, 255, 120⟩
  | .e4m3 => ⟨3, 4, 7, 14, 5⟩
  | .e5m2 => ⟨2, 5, 15, 7, 13⟩
  | .e2m1 => ⟨1, 2, 1, 3, 1⟩
  | _ => ⟨23, 8, 127, 0xFFFFFF, 104⟩

/-- The canonical quiet NaN (R93); E2M1 has none. -/
def qnanOf : EType → Nat
  | .f32 => 0x7FC00000 | .f16 => 0x7E00 | .bf16 => 0x7FC0 | .e4m3 => 0x7F | .e5m2 => 0x7E | _ => 0

/-- A format with infinities: every one but E4M3 and E2M1. -/
def hasInf (t : EType) : Bool := t != .e4m3 && t != .e2m1

/-- Decode a code of a format (R92, R93). -/
def decodeF (t : EType) (bits : Nat) : FVal :=
  let f := EType.format t
  let m := bits % 2 ^ f.man
  let x := bits / 2 ^ f.man % 2 ^ f.exp
  let s := bits / 2 ^ (f.man + f.exp) % 2 == 1
  if hasInf t && x == 2 ^ f.exp - 1 then
    if m = 0 then .inf s else .nan (m / 2 ^ (f.man - 1) % 2 == 0)
  else if t == .e4m3 && x == 15 && m == 7 then .nan false
  else if x = 0 then .num s m (1 - (f.bias : Int) - f.man)
  else .num s (2 ^ f.man + m) ((x : Int) - f.bias - f.man)

/-! ### Rounding (R99) -/

/-- Rounding modes; the stochastic mode carries its 32-bit draw. -/
inductive Rnd where
  | rne | rtz | rdn | rup
  | sto (draw : Nat)
  deriving DecidableEq, Repr

/-- Round m × 2^e, of a sign, to a multiple of 2^q: the multiple, and whether it is inexact. -/
def roundAt (mode : Rnd) (neg : Bool) (m : Nat) (e q : Int) : Nat × Bool :=
  if q ≤ e then (m * 2 ^ (e - q).toNat, false)
  else
    let sh := (q - e).toNat
    let t := m / 2 ^ sh
    let r := m % 2 ^ sh
    let up := match mode with
      | .rne => decide (2 ^ sh < 2 * r) || (decide (2 * r = 2 ^ sh) && t % 2 == 1)
      | .rtz => false
      | .rdn => neg && r != 0
      | .rup => !neg && r != 0
      | .sto d => decide (d < r * 2 ^ 32 / 2 ^ sh)
    (if up then t + 1 else t, r != 0)

/-- floor(log2(m × 2^e)) for m not 0. -/
def log2Of (m : Nat) (e : Int) : Int := (Nat.log2 m : Int) + e

/-- Compare n × 2^q with a × 2^b. -/
def magLt (n : Nat) (q : Int) (a : Nat) (b : Int) : Bool :=
  let lo := min q b
  decide (n * 2 ^ (q - lo).toNat < a * 2 ^ (b - lo).toNat)

/-- Assemble sign, n × 2^q with q no lower than the format's last place. -/
def assemble (t : EType) (neg : Bool) (n : Nat) (q : Int) : Nat :=
  let f := EType.format t
  let sign := if neg then 2 ^ (f.man + f.exp) else 0
  let last : Int := 1 - (f.bias : Int) - f.man
  if n = 0 then sign
  else
    let x := log2Of n q
    if x < 1 - (f.bias : Int) then sign + n * 2 ^ (q - last).toNat
    else
      let l := Nat.log2 n
      sign + (x + f.bias).toNat * 2 ^ f.man + (n * 2 ^ f.man / 2 ^ l - 2 ^ f.man)

/-- The largest finite code and the infinity (R101). -/
def maxCode (t : EType) (neg : Bool) : Nat := assemble t neg (EType.format t).maxM (EType.format t).maxE
def infCode (t : EType) (neg : Bool) : Nat :=
  let f := EType.format t
  (if neg then 2 ^ (f.man + f.exp) else 0) + (2 ^ f.exp - 1) * 2 ^ f.man

/-- A rounded value: its code, whether it overflowed, whether it is tiny and inexact (R103), whether the code is a
non-zero subnormal. -/
structure Rounded where
  bits : Nat
  ovf : Bool
  tiny : Bool
  sub : Bool
  deriving DecidableEq, Repr

/-- Round a finite non-zero value to a format; an overflow leaves the largest finite code here. -/
def roundTo (t : EType) (mode : Rnd) (neg : Bool) (m : Nat) (e : Int) : Rounded :=
  let f := EType.format t
  let emin : Int := 1 - (f.bias : Int)
  let unb := log2Of m e - f.man
  let q := max unb (emin - f.man)
  let r := roundAt mode neg m e q
  let u := roundAt mode neg m e unb
  if magLt f.maxM f.maxE r.1 q then ⟨maxCode t neg, true, false, false⟩
  else ⟨assemble t neg r.1 q, false, magLt u.1 unb 1 emin && r.2, r.1 != 0 && magLt r.1 q 1 emin⟩

/-- Formats whose subnormals FTZ and the assist handle (R103). -/
def flushes (t : EType) : Bool := t == .f32 || t == .f16 || t == .bf16

/-- What the destination stage is asked for: rounding, conversion saturation (none: arithmetic), the scale, the clamp, FTZ,
and whether a subnormal takes the assist. -/
structure Fin where
  rnd : Rnd
  /-- NSAT of a conversion. -/
  nsat : Option Bool
  dscale : Int
  clamp : Nat
  ftz : Bool
  deriving DecidableEq, Repr

/-- Round to nearest, nothing else: the internal steps of the function and matrix arithmetic (R98). -/
def Fin.rne : Fin := ⟨.rne, none, 0, 0, false⟩

/-- A delivered result: code, flags, and whether the assist delivers it (R103). -/
structure FRes where
  bits : Nat
  flags : Flags
  assist : Bool
  deriving DecidableEq, Repr

/-- What an overflow delivers (R101, R106), before the clamp; E4M3's NaN under clamp 0b11 is ±448 (R58). -/
def overflowCode (t : EType) (o : Fin) (neg : Bool) : Nat :=
  let away := match o.rnd with
    | .rtz => false
    | .rdn => neg
    | .rup => !neg
    | _ => true
  match o.nsat with
  | some true => maxCode t neg
  | _ =>
    if t == .e2m1 then maxCode t neg
    else if !away then maxCode t neg
    else if t == .e4m3 then (if o.clamp = 3 then maxCode t neg else qnanOf t)
    else infCode t neg

/-- What an infinite value delivers (Table 4-6), with its flags. -/
def infResult (t : EType) (o : Fin) (neg : Bool) : Nat × Flags :=
  if flushes t then (infCode t neg, 0)
  else if t == .e2m1 then (maxCode t neg, Flags.ovf)
  else if o.nsat == some true then (maxCode t neg, Flags.ovf)
  else if t == .e4m3 then (if o.clamp = 3 then maxCode t neg else qnanOf t, Flags.ovf)
  else (infCode t neg, 0)

/-- Compare two exact values that are not NaN: −1, 0 or 1 as an integer. -/
def cmpVal (a b : FVal) : Int :=
  let key (v : FVal) (lo : Int) : Int :=
    match v with
    | .num s m e => (if s then -1 else 1) * ((m * 2 ^ (e - lo).toNat : Nat) : Int)
    | _ => 0
  match a, b with
  | .inf s, .inf r => if s = r then 0 else if s then -1 else 1
  | .inf s, _ => if s then -1 else 1
  | _, .inf r => if r then 1 else -1
  | .num s m e, .num r n f =>
    let lo := min e f
    let d := key (.num s m e) lo - key (.num r n f) lo
    if d < 0 then -1 else if d = 0 then 0 else 1
  | _, _ => 0

/-- The clamp of Table 2-6 on a rounded code (R58). −0 passes 0b01 and 0b10. -/
def clampCode (t : EType) (c : Nat) (bits : Nat) : Nat :=
  let v := decodeF t bits
  let one := assemble t false 1 0
  let mone := assemble t true 1 0
  if c = 0 || v.isNan then bits
  else if c = 3 then (match v with | .inf s => maxCode t s | _ => bits)
  else if v.isZero then bits
  else if c = 1 then (if v.neg? then 0 else if cmpVal v FVal.one = 1 then one else bits)
  else if cmpVal v FVal.one = 1 then one
  else if cmpVal v FVal.one.neg = -1 then mone
  else bits

/-- The destination stage fin (R326, R57, R58, R101, R103, Table 4-6). -/
def finish (t : EType) (o : Fin) (v : FVal) : FRes :=
  match v with
  | .nan _ => if t == .e2m1 then ⟨0, Flags.inv, false⟩ else ⟨qnanOf t, 0, false⟩
  | .inf s => let r := infResult t o s; ⟨clampCode t o.clamp r.1, r.2, false⟩
  | .num s 0 _ => ⟨clampCode t o.clamp (assemble t s 0 0), 0, false⟩
  | .num s m e =>
    let r := roundTo t o.rnd s m (e + o.dscale)
    if r.ovf then ⟨clampCode t o.clamp (overflowCode t o s), Flags.ovf, false⟩
    else if r.sub && flushes t && o.ftz then ⟨clampCode t o.clamp (assemble t s 0 0), Flags.unf, false⟩
    else ⟨clampCode t o.clamp r.bits, Flags.when r.tiny Flags.unf, r.sub && flushes t⟩

/-- A source with FTZ set: a subnormal of the three formats reads as a zero of its sign (R103). -/
def readF (t : EType) (ftz : Bool) (bits : Nat) : FVal :=
  let v := decodeF t bits
  match v with
  | .num s m e => if ftz && flushes t && m < 2 ^ (EType.format t).man then .zero s else .num s m e
  | v => v

/-! ### Operations with the flags of Table 4-7 -/

/-- Flags of NaN inputs: a signalling one sets INV and SNAN. -/
def nanFlags (l : List FVal) : Flags := Flags.when (l.any FVal.isSnan) (Flags.inv ||| Flags.snan)

/-- Exact sum of two finite values; an exact zero is +0 unless both are −0. -/
def addNum (s : Bool) (m : Nat) (e : Int) (r : Bool) (n : Nat) (f : Int) : FVal :=
  let lo := min e f
  let x : Int := (if s then -1 else 1) * ((m * 2 ^ (e - lo).toNat : Nat) : Int)
  let y : Int := (if r then -1 else 1) * ((n * 2 ^ (f - lo).toNat : Nat) : Int)
  let z := x + y
  if z = 0 then .num (s && r && m == 0 && n == 0) 0 0 else .num (decide (z < 0)) z.natAbs lo

/-- FADD before rounding (R106). -/
def fAdd (a b : FVal) : FVal × Flags :=
  if a.isNan || b.isNan then (.qnan, nanFlags [a, b])
  else
    match a, b with
    | .inf s, .inf r => if s = r then (.inf s, 0) else (.qnan, Flags.inv)
    | .inf s, _ => (.inf s, 0)
    | _, .inf r => (.inf r, 0)
    | .num s m e, .num r n f => (addNum s m e r n f, 0)
    | _, _ => (.qnan, 0)

/-- FSUB before rounding: a + (−b) (R106). -/
def fSub (a b : FVal) : FVal × Flags := fAdd a b.neg

/-- FMUL before rounding (R106). -/
def fMul (a b : FVal) : FVal × Flags :=
  if a.isNan || b.isNan then (.qnan, nanFlags [a, b])
  else
    match a, b with
    | .inf s, .inf r => (.inf (s != r), 0)
    | .inf s, x => if x.isZero then (.qnan, Flags.inv) else (.inf (s != x.neg?), 0)
    | x, .inf r => if x.isZero then (.qnan, Flags.inv) else (.inf (r != x.neg?), 0)
    | .num s m e, .num r n f => (.num (s != r) (m * n) (e + f), 0)
    | _, _ => (.qnan, 0)

/-- FFMA before rounding: a × b + c, with INV for 0 × ∞ even when c is a quiet NaN (R106). -/
def fFma (a b c : FVal) : FVal × Flags :=
  if a.isNan || b.isNan then (.qnan, nanFlags [a, b, c])
  else
    let p := fMul a b
    if p.1.isNan then (.qnan, p.2 ||| nanFlags [c])
    else fAdd p.1 c

/-- Order with −0 below +0, for numbers (R107). -/
def belowNum (a b : FVal) : Bool :=
  let c := cmpVal a b
  c == -1 || (c == 0 && a.isZero && b.isZero && a.neg? && !b.neg?)

/-- FMIN and FMAX (Table 4-8). -/
def fMinMax (max : Bool) (a b : FVal) : FVal × Flags :=
  if a.isSnan || b.isSnan then (.qnan, Flags.inv ||| Flags.snan)
  else if a.isNan && b.isNan then (.qnan, 0)
  else if a.isNan then (b, 0)
  else if b.isNan then (a, 0)
  else ((if max then (if belowNum a b then b else a) else (if belowNum b a then b else a)), 0)

/-- Comparison codes of Table 12-3 over an order: −1, 0, 1, or unordered. -/
def ccHolds (cc : Nat) (o : Option Int) : Bool :=
  match o with
  | none => cc == 1 || cc == 6
  | some c =>
    match cc with
    | 0 => c == 0
    | 1 => c != 0
    | 2 => c == -1
    | 3 => c != 1
    | 4 => c == 1
    | 5 => c != -1
    | 7 => true
    | _ => false

/-- The order of two floating values: none where either is a NaN. -/
def fOrder (a b : FVal) : Option Int := if a.isNan || b.isNan then none else some (cmpVal a b)

/-- The value of a result as FP32 rounded to nearest with no flush, for the internal steps (R98). -/
def rneF32 (v : FVal) : FVal := decodeF .f32 (finish .f32 Fin.rne v).bits

/-- Rounding to an integral value at 2^0 of a × 2^dscale, keeping the sign (R336). -/
def integral (mode : Rnd) (v : FVal) (dscale : Int) : FVal :=
  match v with
  | .num s m e => .num s (roundAt mode s m (e + dscale) 0).1 0
  | v => v

/-- Bounds of an integer type (Table 2-7). -/
def intMin (t : EType) : Int := if EType.isSigned t then -(2 ^ (EType.bits t - 1) : Nat) else 0
def intMax (t : EType) : Int := if EType.isSigned t then (2 ^ (EType.bits t - 1) : Nat) - 1 else (2 ^ EType.bits t : Nat) - 1

/-- Clip to a type's range. -/
def saturate (t : EType) (x : Int) : Int := max (intMin t) (min (intMax t) x)

/-- Any float to an integer type (Table 4-6): rounded, the nearest bound with INV beyond the range, 0 with INV for a NaN. -/
def toInteger (t : EType) (mode : Rnd) (v : FVal) : Int × Flags :=
  match v with
  | .nan q => (0, Flags.inv ||| Flags.when q Flags.snan)
  | .inf s => (if s then intMin t else intMax t, Flags.inv)
  | .num s m e =>
    let n : Int := (if s then -1 else 1) * ((roundAt mode s m e 0).1 : Int)
    (saturate t n, Flags.when (saturate t n != n) Flags.inv)

/-! ### Philox-4x32-10 (R100, R133; the constants as its authors publish them, log entry 8) -/

/-- One round. -/
def philoxRound (c : W32 × W32 × W32 × W32) (k0 k1 : W32) : W32 × W32 × W32 × W32 :=
  let p0 := 0xD2511F53 * c.1.toNat
  let p1 := 0xCD9E8D57 * c.2.2.1.toNat
  (BitVec.ofNat 32 (p1 / 2 ^ 32) ^^^ c.2.1 ^^^ k0, BitVec.ofNat 32 p1,
   BitVec.ofNat 32 (p0 / 2 ^ 32) ^^^ c.2.2.2 ^^^ k1, BitVec.ofNat 32 p0)

/-- The rounds, with the key's Weyl steps between them. -/
def philoxRounds : Nat → W32 × W32 × W32 × W32 → W32 → W32 → W32 × W32 × W32 × W32
  | 0, c, _, _ => c
  | n + 1, c, k0, k1 => philoxRounds n (philoxRound c k0 k1) (k0 + 0x9E3779B9) (k1 + 0xBB67AE85)

/-- Output word j of the call with a key and four counter words. -/
def philox (key : Word) (c0 c1 c2 c3 : W32) (j : Nat) : W32 :=
  let o := philoxRounds 10 (c0, c1, c2, c3) (key.setWidth 32) ((key >>> 32).setWidth 32)
  match j with
  | 0 => o.1
  | 1 => o.2.1
  | 2 => o.2.2.1
  | _ => o.2.2.2

end Sys2Proof.Machine
end

