-- ==== Sys2Proof/Machine/Ops.lean ====
section
/-! DEFINITION. Named operations over the state: sparse stores, the agents' records, the streams of a group, taking an
exception (R231, R237), halting (R250) and freezing (R243), and the parts of a return (R238). -/

namespace Sys2Proof.Machine

/-! ### Sparse stores -/

/-- The value under a key, or the default. -/
def sget {α : Type} (d : α) (k : Nat) (l : Store α) : α :=
  match lookupKey k l with
  | some a => a
  | none => d

/-- The store without a key. -/
def serase {α : Type} (k : Nat) (l : Store α) : Store α := l.filter fun p => !(p.1 == k)

/-- Insert before the first greater key. -/
def sins {α : Type} (k : Nat) (a : α) : Store α → Store α
  | [] => [(k, a)]
  | (j, b) :: r => if k < j then (k, a) :: (j, b) :: r else (j, b) :: sins k a r

/-- Write a value under a key; the default leaves no entry. -/
def sset {α : Type} [DecidableEq α] (d : α) (k : Nat) (a : α) (l : Store α) : Store α :=
  if a = d then serase k l else sins k a (serase k l)

/-- Keys strictly rising and no entry equal to the default. -/
def swf {α : Type} [DecidableEq α] (d : α) (l : Store α) : Bool :=
  decide (l.Pairwise fun p q => p.1 < q.1) && l.all fun p => decide (p.2 ≠ d)

/-! ### Bits and lanes -/

/-- The mask of the lanes below a width (R28). -/
def widthMask (w : Nat) : Word := BitVec.ofNat 64 (2 ^ w - 1)

/-- The lanes of a mask, ascending. -/
def lanesOf (m : Word) : List Nat := (List.range 64).filter fun i => m.getLsbD i

/-- The mask of a list of lanes. -/
def maskOf (l : List Nat) : Word := l.foldl (fun m i => m ||| BitVec.ofNat 64 (2 ^ i)) 0

/-- Bits `lo` to `lo + n − 1` of a word as a number. -/
def bitsOf {w : Nat} (v : BitVec w) (lo n : Nat) : Nat := (v.extractLsb' lo n).toNat

/-- A 64-bit word of the low bits of a number. -/
def wd (n : Nat) : Word := BitVec.ofNat 64 n

/-- Replace bits `lo` to `lo + n − 1` of a word. -/
def putBits {w : Nat} (v : BitVec w) (lo n x : Nat) : BitVec w :=
  (v &&& ~~~(BitVec.ofNat w ((2 ^ n - 1) * 2 ^ lo))) ||| BitVec.ofNat w ((x % 2 ^ n) * 2 ^ lo)

/-- Little-endian value of bytes, first byte lowest (R5). -/
def ofBytes : List Byte → Nat
  | [] => 0
  | b :: r => b.toNat + 256 * ofBytes r

/-- The `n` low bytes of a number, lowest first (R5). -/
def toBytes : Nat → Nat → List Byte
  | 0, _ => []
  | n + 1, v => BitVec.ofNat 8 v :: toBytes n (v / 256)

/-! ### Records of agents -/

def State.groupAt (s : State) (core slot : Nat) : Group := sget Group.init (48 * core + slot) s.groups
def State.setGroupAt (s : State) (core slot : Nat) (g : Group) : State :=
  { s with groups := sset Group.init (48 * core + slot) g s.groups }
/-- The group that executes. -/
def State.g (s : State) : Group := s.groupAt s.cur.core s.cur.slot
def State.setG (s : State) (g : Group) : State := s.setGroupAt s.cur.core s.cur.slot g
def State.modG (s : State) (f : Group → Group) : State := s.setG (f s.g)
def State.coreAt (s : State) (c : Nat) : Core := sget Core.init c s.cores
def State.setCore (s : State) (c : Nat) (x : Core) : State := { s with cores := sset Core.init c x s.cores }
def State.dieAt (s : State) (d : Nat) : Die := sget Die.init d s.dies
def State.setDie (s : State) (d : Nat) (x : Die) : State := { s with dies := sset Die.init d x s.dies }
def State.stackAt (s : State) (k : Nat) : Stack := sget Stack.init k s.hbmStacks
def State.setStack (s : State) (k : Nat) (x : Stack) : State := { s with hbmStacks := sset Stack.init k x s.hbmStacks }
def State.ctxAt (s : State) (c : Nat) : Ctx := sget Ctx.init c s.ctxs
def State.setCtx (s : State) (c : Nat) (x : Ctx) : State := { s with ctxs := sset Ctx.init c x s.ctxs }
def State.flowAt (s : State) (f : Nat) : Flow := sget Flow.init f s.flows
def State.setFlow (s : State) (f : Nat) (x : Flow) : State := { s with flows := sset Flow.init f x s.flows }
def State.team? (s : State) (k : Nat) : Option Team := lookupKey k s.teams
def State.grid? (s : State) (k : Nat) : Option Grid := lookupKey k s.grids

/-- Write a team or a grid under its key. -/
def State.setTeam (s : State) (k : Nat) (t : Team) : State := { s with teams := sins k t (serase k s.teams) }
def State.setGrid (s : State) (k : Nat) (x : Grid) : State := { s with grids := sins k x (serase k s.grids) }

/-- Die of a core (Table 6-7). -/
def dieOf (core : Nat) : Nat := core / 256
/-- Cluster of a core. -/
def clusterOf (core : Nat) : Nat := core / 16

/-- The key of a grid: its context and record (R111). -/
def gridKey (ctx index : Nat) : Nat := ctx * 2 ^ 20 + index
/-- The key of a team of a grid. -/
def teamKey (grid team : Nat) : Nat := grid * 2 ^ 32 + team

/-- Cycles that a die has counted: those of the reference clock without what its stretched clock has lost (R7, R421). -/
def State.dieCycles (s : State) (die : Nat) : Nat := (16 * s.time - (s.dieAt die).lag) / 16
/-- Cycles of a core's die, and of the executing group's. -/
def State.cycles (s : State) (core : Nat) : Nat := s.dieCycles (dieOf core)
def State.now (s : State) : Nat := s.cycles s.cur.core

/-- The team and the grid of a group; a group with no launch has neither. -/
def State.teamOf (s : State) (g : Group) : Option Team := s.team? g.team
def State.gridOf (s : State) (g : Group) : Option Grid :=
  match s.team? g.team with
  | some t => s.grid? t.grid
  | none => none

/-- The context of a group (R43). -/
def Group.ctx (g : Group) : Nat := bitsOf g.ctxid 0 6

/-- The descriptor of a context as its core loaded it (R212). -/
def State.descOn (s : State) (core ctx : Nat) : BitVec 1024 := sget 0 ctx (s.coreAt core).desc

/-- The descriptor in force for an agent that a core serves: the core's, or the context's where it is not resident there. -/
def State.descFor (s : State) (core ctx : Nat) : BitVec 1024 :=
  match lookupKey ctx (s.coreAt core).desc with
  | some d => d
  | none => (s.ctxAt ctx).desc

/-- HANDLER, HLBASE (Table 9-1). -/
def handlerOf (d : BitVec 1024) : Word := d.extractLsb' 128 64
def hlbaseOf (d : BitVec 1024) : Word := d.extractLsb' 192 64

/-- Push an event to the management event queue (R420). -/
def State.event (s : State) (e : MgmtEvent) : State := { s with events := s.events ++ [e] }

/-- Send something out of the module. -/
def State.send (s : State) (o : Out) : State := { s with out := s.out ++ [o] }

/-! ### Registers of a group -/

/-- A scalar register; s0 reads zero (R26). -/
def Group.sreg (g : Group) (r : SReg) : Word := if r = 0 then 0 else sget 0 r.toNat g.s
/-- A write to a scalar register; a write to s0 is discarded (R26). -/
def Group.setS (g : Group) (r : SReg) (v : Word) : Group := if r = 0 then g else { g with s := sset 0 r.toNat v g.s }
/-- Register `sa + i` of an operand quad (R51). -/
def Group.quad (g : Group) (a : SReg) (i : Nat) : Word := g.sreg (a + BitVec.ofNat 6 i)
/-- One lane's element of a vector register. -/
def Group.vreg (g : Group) (r lane : Nat) : W32 := sget 0 (64 * r + lane) g.v
/-- A write gives the element a fresh code (R245). -/
def Group.setV (g : Group) (r lane : Nat) (x : W32) : Group :=
  { g with v := sset 0 (64 * r + lane) x g.v, badV := g.badV.filter fun k => k != 64 * r + lane }
/-- Mask register m1 to m15, bits at and above the width zero (R28). -/
def Group.mreg (g : Group) (m : Nat) : Word := sget 0 m g.m &&& widthMask g.width
def Group.setM (g : Group) (m : Nat) (x : Word) : Group := { g with m := sset 0 m (x &&& widthMask g.width) g.m }
/-- Registers of the group's current allocation (R33, R34). -/
def Group.alloc (g : Group) : Nat := 128 + g.ext

/-- Mode of a group (Table 11-11). -/
def Group.mode (g : Group) : Mode :=
  if bitsOf g.status 0 2 = 1 then .supervisor else if bitsOf g.status 0 2 = 2 then .walker else .user
def Mode.code : Mode → Nat
  | .user => 0 | .supervisor => 1 | .walker => 2
def Group.setMode (g : Group) (m : Mode) : Group := { g with status := putBits g.status 0 2 m.code }

/-- Sticky flags in STATUS[22:16] (R110). -/
def Group.flags (g : Group) : BitVec 7 := g.status.extractLsb' 16 7
/-- Set sticky flags; none is ever cleared (R110). -/
def Group.raise (g : Group) (f : BitVec 7) : Group := { g with status := g.status ||| ((f.setWidth 64) <<< 16) }
/-- The tier-miss bit, STATUS[24] (R241). -/
def Group.tmiss (g : Group) : Group := { g with status := g.status ||| 0x1000000 }

/-- Grid order of a group (R177); the team index is the low part of the team key. -/
def Group.teamIndex (g : Group) : Nat := g.team % 2 ^ 32
def Group.order (g : Group) : Nat := g.teamIndex * 16 + g.gidx

/-- A group that has not ended. -/
def Group.live (g : Group) : Bool := g.st != .free && g.st != .exited && g.st != .halted && g.st != .frozen

/-! ### The streams of a group -/

/-- The address one past a block (R20). -/
def Block.stop (b : Block) : Word := b.addr + wd (12 * b.len)

/-- A block that has run to its end is freed (R20). -/
def Group.settle (g : Group) : Group :=
  match g.run with
  | some b => if g.lpc = b.stop then { g with run := none } else g
  | none => g

/-- The first lane block of the queue. -/
def firstBlock : List LqItem → Option Block
  | [] => none
  | .block b :: _ => some b
  | _ :: r => firstBlock r

/-- The next lane word not yet issued (R25). -/
def Group.nextStream (g : Group) : Word :=
  match g.settle.run with
  | some _ => g.lpc
  | none =>
    match firstBlock g.lq with
    | some b => b.addr
    | none => g.lpc

/-- Words of the group that have issued or begun and that issue again, in program order: a word that waits for a consumer was
taken from before those still abandoned (R60, R422). -/
def Group.unfinished (g : Group) : List LaneWord := g.waitingWords ++ g.abandoned

/-- The lane word that EPCL names for a scalar-stream trap: the first abandoned word, or the next word (R25, R422). -/
def Group.nextLane (g : Group) : Word :=
  match g.unfinished with
  | w :: _ => w.lpc
  | [] => g.nextStream

/-- A queued lane block. -/
def LqItem.isBlock : LqItem → Bool
  | .block _ => true
  | _ => false

/-- Every lane word that the group queued has issued: what a join waits for (R161, R278). -/
def Group.joined (g : Group) : Bool := g.settle.run.isNone && !g.lq.any LqItem.isBlock && g.abandoned.isEmpty

/-- The lane queue is empty too: no effect of the scalar stream is left in it (R22, R279). -/
def Group.idleLanes (g : Group) : Bool := g.joined && g.lq.isEmpty

/-- Note an issue: the stamps of R194 and the first issue of R176. -/
def Group.issue (g : Group) (time : Nat) : Group := { g with lastIssue := time, starved := none, issued := true }

/-- The scalar stream goes on with the next word. -/
def State.nextPc (s : State) : State :=
  s.modG fun g => { g.issue s.now with spc := g.spc + 4, sWait := none }

/-- The scalar stream goes on at a target (R289). -/
def State.jump (s : State) (target : Word) : State :=
  s.modG fun g => { g.issue s.now with spc := target, sWait := none }

/-! ### Exceptions -/

/-- Cause codes (Table 11-16). -/
def Cause.code : Cause → Nat
  | .illegalOpcode => 0x01 | .reservedField => 0x02 | .pairConflict => 0x03 | .regOutOfBlock => 0x04 | .lookahead => 0x05
  | .misaligned => 0x08 | .pageFault => 0x10 | .fetchFault => 0x11 | .protection => 0x12 | .scratchBounds => 0x13
  | .rangeLock => 0x14 | .stackLimit => 0x15 | .illegalWait => 0x18 | .classMismatch => 0x19 | .assist => 0x20
  | .fnDomain => 0x21 | .fnEmpty => 0x22 | .floadReject => 0x23 | .uncorrectable => 0x28 | .poison => 0x29
  | .commitOverflow => 0x30 | .commitForbidden => 0x31 | .software => 0x38 | .breakpoint => 0x39

/-- What a trap records beside its cause: FAULTVA (none: free, log entry 7), FAULTMASK, FAULTPROG (R231 to R234). -/
structure TrapInfo where
  va : Option Word
  mask : Word
  prog : Word
  deriving DecidableEq, Repr

/-- A trap that names no address and no progress. -/
def TrapInfo.none : TrapInfo := ⟨Option.none, 0, 0⟩

/-- FAULTPROG of a page or fetch fault (Table 9-7). -/
def faultProg (kind level acc path prog : Nat) : Word :=
  wd (prog + kind * 2 ^ 12 + acc * 2 ^ 16 + path * 2 ^ 18 + level * 2 ^ 21)

/-- A freeze or halt record (Table 9-9). -/
def masterRecord (master cause ctx acc ident : Nat) (va pa : Word) (time : Nat) : BitVec 256 :=
  BitVec.ofNat 256 (master + cause * 2 ^ 8 + ctx * 2 ^ 16 + acc * 2 ^ 22 + ident * 2 ^ 32 + va.toNat * 2 ^ 64
    + pa.toNat * 2 ^ 128 + (time % 2 ^ 64) * 2 ^ 192)

/-- IDENT of a group: die, core in die, slot (Table 9-9). -/
def groupIdent (core slot : Nat) : Nat := core / 256 + (core % 256) * 8 + slot * 2 ^ 11

/-- A group of a commit task that ends by a fault aborts the task (R259). -/
def State.faultGrid (s : State) (g : Group) : State :=
  match s.team? g.team with
  | none => s
  | some t =>
    match s.grid? t.grid with
    | none => s
    | some x => s.setGrid t.grid { x with faulted := true }

/-- The group is of a Vigil replay, which a window overflow ends (R262). -/
def State.inReplay (s : State) (g : Group) : Bool :=
  match s.gridOf g with
  | some x => x.replayOf.isSome
  | none => false

/-- Step 1 of a trap entry: CAUSE, EPCS, EPCL, FAULTVA, FAULTMASK, FAULTPROG and STATUS.TSTREAM (R25, R231). -/
def Group.faultRegs (g : Group) (c : Cause) (lane : Bool) (epcl : Word) (va : Word) (mask prog : Word) : Group :=
  { g with
    cause := wd c.code
    epcs := g.spc
    epcl := epcl
    faultva := va
    faultmask := mask &&& widthMask g.width
    faultprog := prog
    status := putBits g.status 2 1 (if lane then 1 else 0) }

/-- A join has been passed: the lane stream's accesses so far come before what follows in the scalar stream (R161). -/
def Group.passJoin (g : Group) : Group :=
  { g with inflight := g.inflight.map fun (a : Access) => if a.lane then { a with past := true } else a }

/-- A word that is abandoned binds its function registers again when it reissues (R124). -/
def LaneWord.dropped (w : LaneWord) : LaneWord := { w with fn := none, assist := none }
/-- A trap closes its window (R63). -/
def LaneWord.closed (w : LaneWord) : LaneWord := { w.dropped with left := 0 }

/-- Step 2: the shadow of s1 to s7, EM, FMT, the reconvergence stack, the return slot, the lane queue's unissued
entries, the abandoned words and the continuation point. A lane word that traps in stream order is behind the
continuation point (R422). -/
def Group.shadowOf (g : Group) (lane : Bool) (src : LaneFrom) (w : LaneWord) (epcl : Word) : Shadow where
  s := g.s.filter fun p => 1 ≤ p.1 && p.1 ≤ 7
  em := g.em
  fmt := g.fmt
  rstack := g.rstack
  ret := g.ret
  lq := g.lq
  run := g.run
  lpc := if lane && src == .stream then g.lpc + 12 else g.lpc
  abandoned :=
    ((if lane && src == .waiting then g.waitingWords.drop 1 else g.waitingWords)
      ++ (if lane && src == .again then g.abandoned.drop 1 else g.abandoned)).map LaneWord.closed
  word := w.closed
  epcl := epcl
  laneTrap := lane
  fmtS := g.fmtS

/-- Steps 2 to 4: the shadow, supervisor mode at HANDLER with an empty lane queue and reconvergence stack, EM, and every
lookahead window closed; what the group has issued comes before the handler (R25, R63, R231, R375). -/
def Group.enterHandler (g : Group) (h : Word) (lane : Bool) (src : LaneFrom) (w : LaneWord) : Group :=
  { g.setMode .supervisor with
    shadow := some (g.shadowOf lane src w g.epcl)
    spc := h
    em := if lane then g.faultmask else 1
    lq := []
    run := none
    rstack := []
    abandoned := []
    waitingWords := []
    windows := []
    inflight := g.passJoin.inflight
    sWait := none
    lWait := none }

/-- The group reaches EXITED, and the trap counts as a fault (R237, R112). -/
def Group.endByTrap (g : Group) (time : Nat) (c : Cause) : Group :=
  { g with st := .exited, fault := some (time, BitVec.ofNat 8 c.code) }

/-- A trap in the walker ends its request with kind 0x7 and logs a walker error (R223). -/
def State.walkerTrap (s : State) : State :=
  let c := s.coreAt s.cur.core
  match c.walk with
  | none => s.modG fun g => { g with st := .waiting }
  | some req =>
    ((s.setCore s.cur.core { c with walk := none, verdict := some (req, 7, 0) }).modG fun g => { g with st := .waiting }).event
      (.walkerError s.cur.core)

/-- Taking an exception in the group's own lanes (R231), or its end (R237). `lane` says which stream traps. -/
def State.trapEntry (s : State) (lane : Bool) (c : Cause) (i : TrapInfo) : State :=
  let g := s.g
  if g.mode = .walker then s.walkerTrap
  else
    let va := match i.va with | some a => a | none => Config.freeFaultVa s.tick
    let epcl := if lane then s.cur.lane.lpc else g.nextLane
    let g1 := (g.issue s.now).faultRegs c lane epcl va i.mask i.prog
    let h := handlerOf (s.descOn s.cur.core g.ctx)
    if g.mode = .supervisor || h = 0 then (s.setG (g1.endByTrap s.time c)).faultGrid g
    else
      let s1 := s.setG (g1.enterHandler h lane s.cur.src s.cur.lane)
      if c = .commitOverflow && s.inReplay g then s1.faultGrid g else s1

/-- A trap of the scalar stream: FAULTMASK 0 (R233). -/
def State.trapScalar (s : State) (c : Cause) (va : Option Word) (prog : Word) : Result :=
  .next (s.trapEntry false c ⟨va, 0, prog⟩)

/-- A scalar trap without address or progress. -/
def State.trapS (s : State) (c : Cause) : Result := s.trapScalar c none 0

/-- The quad of an operand pack is a multiple of 4 and not s0 (R51); these checks come before the others of the word (R76). -/
def quadChecked (a : SReg) (k : State → Result) (s : State) : Result :=
  if a = 0 then s.trapS .reservedField
  else if a.toNat % 4 ≠ 0 then s.trapS .misaligned
  else k s

/-- A trap of the lane stream in some lanes. -/
def State.trapLane (s : State) (c : Cause) (va : Option Word) (mask prog : Word) : Result :=
  .next (s.trapEntry true c ⟨va, mask, prog⟩)

/-- A group halts (R250): the fault registers as for a trap, no handler, and a halt record. -/
def State.haltGroup (s : State) (core slot : Nat) (lane : Bool) (epcl : Word) (b : Bad) : State :=
  let g := s.groupAt core slot
  let g1 := g.faultRegs b.cause lane epcl b.va (if lane then b.mask else 0) (wd b.prog)
  let s1 := s.setGroupAt core slot { g1 with st := .halted, fault := some (s.time, BitVec.ofNat 8 b.cause.code), sWait := none, lWait := none }
  (s1.faultGrid g).event (.halt (masterRecord 0 b.cause.code g.ctx b.acc (groupIdent core slot) b.va b.pa s.time))

/-- The executing group halts at its scalar word (R249). -/
def State.haltScalar (s : State) (b : Bad) : Result :=
  if s.g.mode = .walker then .next s.walkerTrap else .next (s.haltGroup s.cur.core s.cur.slot false s.g.nextLane b)

/-- The executing group halts at its lane word with bad lanes (R249). -/
def State.haltLane (s : State) (b : Bad) : State := s.haltGroup s.cur.core s.cur.slot true s.cur.lane.lpc b

/-- Bad data of an access that names no address: FAULTVA is free (log entry 7). -/
def State.badAt (s : State) (c : Cause) (mask : Word) : Bad := ⟨mask, Config.freeFaultVa s.tick, 0, c, 0, 0⟩

/-- A group is frozen (R243, R244): state and CAUSE kept, a freeze record written. -/
def State.freezeGroup (s : State) (core slot acc : Nat) (va pa : Word) : State :=
  let g := s.groupAt core slot
  let s1 := s.setGroupAt core slot
    { g with st := .frozen, cause := wd Cause.protection.code, fault := some (s.time, 0x12), sWait := none, lWait := none }
  (s1.faultGrid g).event (.freeze (masterRecord 0 0x12 g.ctx acc (groupIdent core slot) va pa s.time))

/-- PROTECTION of the executing group (R242). In the walker it ends the request as a trap does (R223). -/
def State.protection (s : State) (acc : Nat) (va pa : Word) : Result :=
  if s.g.mode = .walker then .next s.walkerTrap else .next (s.freezeGroup s.cur.core s.cur.slot acc va pa)

/-- Where EPCL was rewritten while no block was running, the queue's first block is the one that runs on at EPCL. -/
def runOf (rewritten : Bool) (h : Shadow) : Option Block × List LqItem :=
  match rewritten, h.run, h.lq with
  | true, none, .block b :: r => (some b, r)
  | _, r, l => (r, l)

/-- Every field of R238's return that comes from the shadow: s1 to s7, EM, FMT, the stacks, the queue and the lane
stream, in user mode at EPCS. The replayed word runs in the lanes of FAULTMASK, from register FAULTPROG.PROG. A word of the handler
that waits for a consumer has issued, and goes on waiting (R60, log entry 97). -/
def Group.resumeFrom (g : Group) (h : Shadow) : Group :=
  let rewritten := g.epcl != h.epcl
  let word : LaneWord :=
    if rewritten then ⟨g.epcl, h.em, h.fmt, (match (runOf rewritten h).1 with | some b => b.k | none => g.k), 0, none, 0, false, none, none, none, none⟩ else h.word
  let replay : LaneWord := { word with mask := some g.faultmask, prog := bitsOf g.faultprog 0 10 }
  { g.setMode .user with
    s := (g.s.filter fun p => !(1 ≤ p.1 && p.1 ≤ 7)) |> fun rest => h.s.foldl (fun l p => sset 0 p.1 p.2 l) rest
    em := h.em
    fmt := h.fmt
    fmtS := h.fmtS
    rstack := h.rstack
    ret := h.ret
    lq := (runOf rewritten h).2
    run := (runOf rewritten h).1
    spc := g.epcs
    lpc := if rewritten then (if h.laneTrap then g.epcl + 12 else g.epcl) else h.lpc
    abandoned := (if h.laneTrap then [replay] else []) ++ (if rewritten then [] else h.abandoned)
    waitingWords := g.waitingWords.map fun w => { w with left := 0 }
    windows := []
    shadow := none
    sWait := none }

end Sys2Proof.Machine
end

