-- ==== Sys2Proof/Machine/Aes.lean ====
section
/-! DEFINITION. AES-256 (FIPS 197) and its XTS mode (IEEE 1619), which R229 and R275 name, over lists of bytes: a block is sixteen
bytes, byte 4 c + r in row r of column c (log entry 8). -/

namespace Sys2Proof.Machine

/-! ### The field of 256 elements -/

/-- Twice an element: x^8 + x^4 + x^3 + x + 1 reduces. -/
def gfTwice (a : Byte) : Byte := a <<< 1 ^^^ if a.msb then 0x1B else 0

/-- The product of two elements, from so many low bits of the second. -/
def gfMul : Nat → Byte → Byte → Byte
  | 0, _, _ => 0
  | n + 1, a, b => (if b.getLsbD 0 then a else 0) ^^^ gfMul n (gfTwice a) (b >>> 1)

/-- The inverse, 0 for 0: the 254th power, by squaring and multiplying from 1 seven times. -/
def gfInverse (a : Byte) : Byte :=
  (List.range 7).foldl (fun p i => let q := gfMul 8 p p; if i < 6 then gfMul 8 q a else q) a

/-- The substitution of a byte, and the one that undoes it. -/
def aesSub (a : Byte) : Byte :=
  let i := gfInverse a
  i ^^^ i.rotateLeft 1 ^^^ i.rotateLeft 2 ^^^ i.rotateLeft 3 ^^^ i.rotateLeft 4 ^^^ 0x63

def aesUnsub (a : Byte) : Byte := gfInverse (a.rotateLeft 1 ^^^ a.rotateLeft 3 ^^^ a.rotateLeft 6 ^^^ 0x05)

/-! ### Rounds -/

/-- Sum of two strings. -/
def xorBytes (a b : List Byte) : List Byte := List.zipWith (· ^^^ ·) a b

/-- Row r of a block is turned by r columns: the byte that comes to place i. -/
def aesRows (turn : Nat → Nat) (b : List Byte) : List Byte := (List.range 16).map fun i => b.getD (4 * ((i / 4 + turn (i % 4)) % 4) + i % 4) 0

/-- Each column times a circulant matrix with first row m. -/
def aesColumns (m : List Byte) (b : List Byte) : List Byte :=
  (List.range 16).map fun i => (List.range 4).foldl (fun s j => s ^^^ gfMul 8 (b.getD (i / 4 * 4 + j) 0) (m.getD ((j + 4 - i % 4) % 4) 0)) 0

/-- Words of the key schedule, the newest first: `n` more after the `i` there are; `rc` is the next round constant. -/
def aesSchedule : Nat → Nat → Byte → List (List Byte) → List (List Byte)
  | 0, _, _, w => w
  | n + 1, i, rc, w =>
    let last := w.headD []
    let t :=
      if i % 8 = 0 then xorBytes ((last.drop 1 ++ last.take 1).map aesSub) [rc, 0, 0, 0]
      else if i % 8 = 4 then last.map aesSub
      else last
    aesSchedule n (i + 1) (if i % 8 = 0 then gfTwice rc else rc) (xorBytes t (w.getD 7 []) :: w)

/-- The fifteen round keys of a 32-byte key, in order. -/
def aesKeys (key : List Byte) : List (List Byte) :=
  let w := (aesSchedule 52 8 1 ((List.range 8).map fun i => (key.drop (28 - 4 * i)).take 4)).reverse
  (List.range 15).map fun r => (List.range 4).flatMap fun c => w.getD (4 * r + c) []

/-- Encrypt a block under round keys. -/
def aesEncrypt (keys : List (List Byte)) (b : List Byte) : List Byte :=
  (List.range 14).foldl (fun x r =>
    let y := aesRows id (x.map aesSub)
    xorBytes (if r < 13 then aesColumns [2, 3, 1, 1] y else y) (keys.getD (r + 1) [])) (xorBytes b (keys.getD 0 []))

/-- Decrypt one. -/
def aesDecrypt (keys : List (List Byte)) (b : List Byte) : List Byte :=
  (List.range 14).foldl (fun x i =>
    let y := xorBytes x (keys.getD (14 - i) [])
    (aesRows (4 - ·) (if 0 < i then aesColumns [0xE, 0xB, 0xD, 0x9] y else y)).map aesUnsub) b |> xorBytes (keys.getD 0 [])

/-! ### XTS -/

/-- The next block's tweak: twice the last, x^128 + x^7 + x^2 + x + 1 reduces. -/
def xtsNext (t : BitVec 128) : BitVec 128 := t <<< 1 ^^^ if t.msb then 0x87 else 0

/-- Blocks of a data unit in turn, from a block's tweak on. -/
def xtsBlocks (f : List Byte → List Byte) : Nat → BitVec 128 → List Byte → List Byte
  | 0, _, _ => []
  | n + 1, t, l =>
    let m := toBytes 16 t.toNat
    xorBytes (f (xorBytes (l.take 16) m)) m ++ xtsBlocks f n (xtsNext t) (l.drop 16)

/-- A data unit of whole blocks with a tweak, under a pair of 32-byte keys: the first encrypts the blocks, the second the tweak. -/
def xts (f : List (List Byte) → List Byte → List Byte) (keys : BitVec 512) (tweak : Nat) (l : List Byte) : List Byte :=
  let k := toBytes 64 keys.toNat
  xtsBlocks (f (aesKeys (k.take 32))) (l.length / 16)
    (BitVec.ofNat 128 (ofBytes (aesEncrypt (aesKeys (k.drop 32)) (toBytes 16 tweak)))) l

def xtsEncrypt (keys : BitVec 512) (tweak : Nat) (l : List Byte) : List Byte := xts aesEncrypt keys tweak l
def xtsDecrypt (keys : BitVec 512) (tweak : Nat) (l : List Byte) : List Byte := xts aesDecrypt keys tweak l

end Sys2Proof.Machine
end

