-- ==== Sys2Proof/Machine/Hash.lean ====
section
/-! DEFINITION. SHAKE256 (FIPS 202), which R230, R261, R275 and R419 name, over the sponge's 1600-bit string: bit z of
column x in plane y is bit 64 (5y + x) + z (log entry 8). -/

namespace Sys2Proof.Machine

abbrev Sponge := BitVec 1600

/-- The 64 bits of column x in plane y. -/
def Sponge.at_ (a : Sponge) (x y : Nat) : Word := a.extractLsb' (64 * (5 * (y % 5) + x % 5)) 64

/-- Sixty-four bits laid at column x in plane y. -/
def Sponge.put (x y : Nat) (w : Word) : Sponge := w.setWidth 1600 <<< (64 * (5 * (y % 5) + x % 5))

/-- A string from its columns. -/
def Sponge.build (f : Nat → Nat → Word) : Sponge :=
  (List.range 5).foldl (fun a y => (List.range 5).foldl (fun a x => a ||| Sponge.put x y (f x y)) a) 0

/-- The parity of the five planes of a column. -/
def Sponge.parity (a : Sponge) (x : Nat) : Word := a.at_ x 0 ^^^ a.at_ x 1 ^^^ a.at_ x 2 ^^^ a.at_ x 3 ^^^ a.at_ x 4

/-- The first step of a round: each column takes up the parities of its neighbours. -/
def Sponge.mix (a : Sponge) : Sponge :=
  let p := Sponge.build fun x y => if y = 0 then a.parity x else 0
  Sponge.build fun x y => a.at_ x y ^^^ p.at_ (x + 4) 0 ^^^ (p.at_ (x + 1) 0).rotateLeft 1

/-- The second and third step: along the walk (x, y) → (y, 2x + 3y) from (1, 0), each column is turned by the next triangular
number and put at the walk's next position. -/
def Sponge.walk (a : Sponge) : Nat → Nat → Nat → Nat → Sponge
  | 0, _, _, _ => Sponge.put 0 0 (a.at_ 0 0)
  | n + 1, t, x, y =>
    a.walk n (t + 1) y ((2 * x + 3 * y) % 5) |||
      Sponge.put y (2 * x + 3 * y) ((a.at_ x y).rotateLeft ((t + 1) * (t + 2) / 2 % 64))

/-- The fourth step, the one that is not linear. -/
def Sponge.bend (a : Sponge) : Sponge := Sponge.build fun x y => a.at_ x y ^^^ (a.at_ (x + 2) y &&& ~~~(a.at_ (x + 1) y))

/-- The shift register of the round constants, one step: x^8 + x^6 + x^5 + x^4 + 1. -/
def lfsrStep (r : Nat) : Nat := if r < 128 then 2 * r else (2 * r - 256) ^^^ 0x71

/-- A round's constant, its bit 2^j - 1 the register's output after j steps, and the register seven steps on. -/
def roundConst : Nat → Nat → Nat → Nat × Nat
  | 0, _, r => (0, r)
  | n + 1, j, r =>
    let q := roundConst n (j + 1) (lfsrStep r)
    (q.1 + r % 2 * 2 ^ (2 ^ j - 1), q.2)

/-- Rounds of the permutation from a register. -/
def Sponge.rounds : Nat → Nat → Sponge → Sponge
  | 0, _, a => a
  | n + 1, r, a =>
    let c := roundConst 7 0 r
    Sponge.rounds n c.2 ((a.mix.walk 24 0 1 0).bend ^^^ BitVec.ofNat 1600 c.1)

/-- Absorb blocks of 136 bytes. -/
def Sponge.absorb : Nat → List Byte → Sponge → Sponge
  | 0, _, a => a
  | n + 1, m, a =>
    let block := (m.take 136).foldr (fun b v => b.toNat + 256 * v) 0
    Sponge.absorb n (m.drop 136) (Sponge.rounds 24 1 (a ^^^ BitVec.ofNat 1600 block))

/-- The first n bytes, n at most 136, of SHAKE256: the message, then bits 1111, 1, zeros and 1 up to a whole block. -/
def shake256 (m : List Byte) (n : Nat) : List Byte :=
  let blocks := m.length / 136 + 1
  let fill := (List.range (136 * blocks - m.length)).map fun i =>
    (if i = 0 then 0x1F else 0) ||| (if m.length + i + 1 = 136 * blocks then 0x80 else (0 : Byte))
  let a := Sponge.absorb blocks (m ++ fill) 0
  (List.range n).map fun i => a.extractLsb' (8 * i) 8

end Sys2Proof.Machine
end

