-- ==== Sys2Proof/Machine/Memory.lean ====
section
/-! DEFINITION. Memory: flat addresses, bytes, marks of bad data (R245 to R249) and their log (R266 to R268), translation
(R215 to R224), range locks (R154, R155), row locks (R139), the commit window (R255) and audit signatures (R261). -/

namespace Sys2Proof.Machine

/-! ### Flat addresses

Module DRAM and tier memory at their 52-bit physical address (R424); each die's vault array, each flow's peer module and
each PASID's host memory in a range of its own above. -/

def vaultFlat (die a : Nat) : Nat := 2 ^ 56 + die * 2 ^ 32 + a
def peerFlat (flow a : Nat) : Nat := 2 ^ 60 + flow * 2 ^ 52 + a
def hostFlat (pasid a : Nat) : Nat := 2 ^ 76 + pasid * 2 ^ 52 + a

/-- First byte of module DRAM (R424). -/
def dramFirst : Nat := Config.stackBytes * Config.dramBase
/-- An address in module DRAM. -/
def isDram (a : Nat) : Bool := decide (dramFirst ≤ a) && decide (a < 2 ^ 41 + dramFirst)
/-- The stack that holds a DRAM address (R424). -/
def stackOf (a : Nat) : Nat := (a - dramFirst) / Config.stackBytes

/-- The form that memory keeps: addresses rising, no byte equal to what an unlisted address reads as (log entry 2). -/
abbrev Memory.wf (m : List Host.Cell) : Prop := swf (0 : Byte) m = true

/-! ### Bytes -/

/-- The newest byte that the stacks queue for an address. -/
def Equinox.pending (q : Equinox) (a : Nat) : Option Byte := q.queued.findSome? fun w => lookupKey a w.cells

/-- A byte of memory; a read sees the writes that the stacks queue (R273). -/
def State.byteAt (s : State) (a : Nat) : Byte :=
  match s.eqx.pending a with
  | some b => b
  | none => sget 0 a s.mem

/-- The 64 KiB frame of an address. -/
def frameOf (a : Nat) : Nat := a / 65536

/-- A SNAP frame that has not been copied (R274). -/
def Equinox.uncopied (q : Equinox) (frame : Nat) : Bool :=
  q.snap.any (fun p => p.1 == frame) && !(q.shadow.any fun p => p.frame == frame)

/-- The first write to a SNAP frame waits for its copy to a shadow, its marks with it (R274). -/
def State.copyFrame (s : State) (q : Equinox) (frame : Nat) : Equinox :=
  if q.uncopied frame then
    { q with shadow := q.shadow ++ [⟨frame, s.mem.filter fun c => frameOf c.1 == frame, s.marks.filter fun p => frameOf p.1 == frame,
        s.cipher.filter fun p => p.1 / 512 == frame, s.tags.filter fun p => p.1 / 512 == frame⟩] }
  else q

/-- A write to a SNAP frame that has not been copied waits while the shadow pool is exhausted (R274). -/
def State.noShadow (s : State) (a n : Nat) : Bool :=
  s.eqx.snap.any (fun p => s.eqx.uncopied p.1 && decide (p.1 * 65536 < a + n) && decide (a < (p.1 + 1) * 65536))
    && decide (Config.shadowFrames ≤ s.eqx.shadow.length)

/-- A byte's write is queued at its stack: in HOLD (R273), and while its frame waits for a shadow (R274). -/
def State.queuesWrite (s : State) (a : Nat) : Bool := (s.eqx.st == .hold || s.noShadow a 1) && isDram a

/-- Writes without what they hold for an address. -/
def unqueue (l : List Queued) (a : Nat) : List Queued := l.map fun w => { w with cells := w.cells.filter fun c => c.1 != a }

/-- Write a byte, in place of any queued write to it; after the cut a SNAP frame is copied first (R274). -/
def State.setByte (s : State) (a : Nat) (b : Byte) : State :=
  { s with
    mem := sset 0 a b s.mem
    eqx := { s.copyFrame s.eqx (frameOf a) with queued := unqueue s.eqx.queued a } }

/-- n bytes from an address. -/
def State.bytesAt (s : State) (a n : Nat) : List Byte := (List.range n).map fun i => s.byteAt (a + i)
/-- Their little-endian value (R5). -/
def State.readN (s : State) (a n : Nat) : Nat := ofBytes (s.bytesAt a n)
/-- Write bytes from an address. -/
def State.putBytes (s : State) (a : Nat) : List Byte → State
  | [] => s
  | b :: r => (s.setByte a b).putBytes (a + 1) r

/-! ### Encryption (R229, R230)

Memory lists the bytes of an encrypted unit as they are before encryption, and `cipher` says which key pair the unit is encrypted with;
what the unit stores is computed from them (log entry 55). -/

/-- A number of 128 bytes, and the bytes. -/
def unitBits (l : List Byte) : BitVec 1024 := BitVec.ofNat 1024 (ofBytes l)
def unitBytes (w : BitVec 1024) : List Byte := toBytes 128 w.toNat

/-- AES-256-XTS of a data unit of 128 bytes, whose tweak is physical address bits 51:7 (R229). -/
def encipher (key u : Nat) (w : BitVec 1024) : BitVec 1024 := unitBits (xtsEncrypt (Config.xtsKeys key) (u % 2 ^ 45) (unitBytes w))
def decipher (key u : Nat) (w : BitVec 1024) : BitVec 1024 := unitBits (xtsDecrypt (Config.xtsKeys key) (u % 2 ^ 45) (unitBytes w))

/-- The integrity tag of a unit: the first 8 bytes of SHAKE256 over the integrity key, the unit's address and its ciphertext (R230). -/
def unitTag (key u : Nat) (w : BitVec 1024) : BitVec 64 :=
  BitVec.ofNat 64 (ofBytes (shake256 (Config.integrityKey key ++ toBytes 8 (128 * u) ++ unitBytes w) 8))

/-- A byte as memory holds it, whatever the stacks queue. -/
def State.stored (s : State) (a : Nat) : Byte := sget 0 a s.mem

/-- The bytes that memory holds of a unit. -/
def State.listed (s : State) (u : Nat) : BitVec 1024 := unitBits ((List.range 128).map fun i => s.stored (128 * u + i))

/-- What a unit stores. -/
def State.rawUnit (s : State) (u : Nat) : BitVec 1024 :=
  match lookupKey u s.cipher with
  | some ⟨_, some w⟩ => w
  | some ⟨some k, none⟩ => encipher k u (s.listed u)
  | _ => s.listed u

/-- A unit as an agent with a key pair sees it. One that stores nothing but zeros since its frame was formatted reads as zeros. -/
def State.unitFor (s : State) (key u : Nat) : BitVec 1024 :=
  match lookupKey u s.cipher with
  | some ⟨some k, none⟩ => if k = key then s.listed u else decipher key u (s.rawUnit u)
  | some _ => decipher key u (s.rawUnit u)
  | none => if s.listed u = 0 then 0 else decipher key u (s.listed u)

/-- A byte that memory holds as an agent with a key pair, or none, sees it. -/
def State.viewBy (s : State) (key : Option Nat) (a : Nat) : Byte :=
  match key with
  | some k => if isDram a then (s.unitFor k (a / 128)).extractLsb' (8 * (a % 128)) 8 else s.stored a
  | none =>
    match lookupKey (a / 128) s.cipher with
    | none => s.stored a
    | some ⟨none, none⟩ => s.stored a
    | some _ => (s.rawUnit (a / 128)).extractLsb' (8 * (a % 128)) 8

/-- The tag that the carve-out holds for a unit is not that of what the unit stores under a key pair (R230). A unit that nothing has
written since its frame was zeroed matches. -/
def State.tagWrong (s : State) (key u : Nat) : Bool :=
  match lookupKey u s.tags with
  | some t => t != unitTag key u (s.rawUnit u)
  | none => (lookupKey u s.cipher).isSome || s.listed u != 0

/-- A unit's tag does not match for the agent that acts. -/
def State.tagBad (s : State) (a : Nat) : Bool :=
  s.encOn && match s.cur.key with
    | some k => isDram a && s.tagWrong k (a / 128)
    | none => false

/-- The agent that acts uses a key pair, or none. -/
def State.withKey (s : State) (key : Option Nat) : State := { s with cur := { s.cur with key := key } }

/-- The descriptor in force for the device's own accesses: as a core on which the context is resident loaded it, or as it stands
(R212). -/
def State.descNow (s : State) (ctx : Nat) : BitVec 1024 :=
  match s.cores.findSome? fun (p : Nat × Core) => lookupKey ctx p.2.desc with
  | some d => d
  | none => (s.ctxAt ctx).desc

/-- The key pair of a context whose pages a descriptor says are encrypted. -/
def State.keyBy (s : State) (ctx : Nat) (d : BitVec 1024) : Option Nat := if d.getLsbD 20 then (s.ctxAt ctx).key else none

/-- It uses the key pair of a context, as its descriptor stands for the device, or for the agents that a core serves (R212). -/
def State.asContext (s : State) (ctx : Nat) : State := s.withKey (s.keyBy ctx (s.descNow ctx))
def State.asServed (s : State) (core ctx : Nat) : State := s.withKey (s.keyBy ctx (s.descFor core ctx))

/-! ### Marks -/

def granuleSize : Granule → Nat
  | .g0 => 32 | .g1 => 64 | .g2 => 128 | .g3 => 512
def granuleCode : Granule → Nat
  | .g0 => 0 | .g1 => 1 | .g2 => 2 | .g3 => 3

/-- The size of the unit that keeps a mark at an address: a vault word, a granule of a formatted frame, or a 64-byte line
(R247, R248). -/
def State.unitSize (s : State) (a : Nat) : Nat :=
  if 2 ^ 56 ≤ a && a < 2 ^ 60 then 8
  else if 2 ^ 60 ≤ a then 64
  else
    match lookupKey (frameOf a) s.frames with
    | some g => granuleSize g
    | none => 64

/-- The size of the unit of a mark: a tag covers 128 bytes (R230). -/
def State.markSize (s : State) (p : Nat × Mark) : Nat := if p.2.kind = .tagMismatch then 128 else s.unitSize p.1

/-- The unit of an address. -/
def State.unitOf (s : State) (a : Nat) : Nat := a / s.unitSize a * s.unitSize a

/-- The marked units that a range touches. -/
def State.marksIn (s : State) (a n : Nat) : List (Nat × Mark) :=
  s.marks.filter fun p => p.1 < a + n && a < p.1 + s.markSize p

/-- The three filter bits of a row (R267). -/
def bloomBits (row : BitVec 32) : List Nat :=
  [0x9E3779B97F4A7C15, 0xC2B2AE3D27D4EB4F, 0x165667B19E3779F9].map fun k => (row.toNat * k) % 2 ^ 64 / 2 ^ 32 % 2 ^ 20

/-- Append to the log ring of 4096 records (R266). -/
def Stack.addLog (k : Stack) (r : LogRec) : Stack :=
  { k with log := (if k.log.length < 4096 then k.log else k.log.drop 1) ++ [r] }

/-- Count a repeat in the newest record with a row and code: the log and the new count, or none (R267). -/
def bumpRepeat (row code : Nat) : List LogRec → Option (List LogRec × Nat)
  | [] => none
  | r :: rest =>
    match bumpRepeat row code rest with
    | some (l, n) => some (r :: l, n)
    | none =>
      if r.row = row ∧ r.code = code then
        let n := min (r.repeats + 1) 0xFFFF
        some ({ r with repeats := n } :: rest, n)
      else none

/-- Log an error of a stack: corrected errors through the filter, the others always (R267, R268). -/
def State.logError (s : State) (stack row code : Nat) (scrub : Bool) : State :=
  let k := s.stackAt stack
  let rec0 : LogRec := ⟨code, scrub, false, k.epoch % 64, row, 0, s.time⟩
  if code = 1 ∨ code = 4 then
    let hs := bloomBits (BitVec.ofNat 32 row)
    if hs.all fun h => k.bloom.contains h then
      match bumpRepeat row code k.log with
      | some (l, n) =>
        let s1 := s.setStack stack { k with log := l }
        if n = s.repeatAt then s1.event (.repeatThreshold stack row) else s1
      | none => s.setStack stack (k.addLog { rec0 with bloom := true })
    else s.setStack stack ({ k with bloom := hs.foldl (fun b h => if b.contains h then b else b ++ [h]) k.bloom }.addLog rec0)
  else s.setStack stack (k.addLog rec0)

/-- Log an error at an address; only DRAM has a log. -/
def State.logAt (s : State) (a code : Nat) (scrub : Bool) : State :=
  if isDram a then s.logError (stackOf a) (Config.rowOf a).toNat code scrub else s

/-- One marked unit met by a read: the log, the poison mark of a newly found error, and what a consumer sees (R245, R247,
R230). -/
def State.meetMark (s : State) (scrub : Bool) (p : Nat × Mark) : State × Option Cause :=
  match p.2.kind with
  | .poisoned => (s.logAt p.1 5 scrub, some .poison)
  | .uncorrectable =>
    let s1 := s.logAt p.1 2 scrub
    ({ s1 with marks := sins p.1 (.of .poisoned) (serase p.1 s1.marks) }, some .uncorrectable)
  | .tagMismatch => (s.logAt p.1 3 scrub, some .poison)
  | .correctable => (s.logAt p.1 (if s.unitSize p.1 = 512 then 4 else 1) scrub, none)

/-- The addresses of a range. -/
def addrs (a n : Nat) : List Nat := (List.range n).map fun i => a + i

/-- A write merged into part of a marked unit: the controller reads the unit, corrects it and writes it back (R227); an uncorrectable
unit, and one whose tag does not match, is written back poisoned, and a poisoned one stays so (R247). -/
def State.mergeMark (s : State) (p : Nat × Mark) : State :=
  match p.2.kind with
  | .poisoned => { s with marks := sins p.1 (.of .poisoned) (serase p.1 s.marks) }
  | .correctable => let s1 := (s.meetMark false p).1; { s1 with marks := serase p.1 s1.marks }
  | .uncorrectable => (s.meetMark false p).1
  | .tagMismatch => let s1 := (s.meetMark false p).1; { s1 with marks := sins p.1 (.of .poisoned) (serase p.1 s1.marks) }

/-- An address lies in one of some ranges. -/
def inRanges (l : List (Nat × Nat)) (a : Nat) : Bool := l.any fun r => r.1 ≤ a && a < r.1 + r.2

/-- After writes that count as one: units that they cover whole lose their mark (R247); others that they touch are merged (R227). -/
def State.markRanges (s : State) (ranges : List (Nat × Nat)) : State :=
  let touched := s.marks.filter fun p => (addrs p.1 (s.markSize p)).any (inRanges ranges)
  let covered := touched.filter fun p => (addrs p.1 (s.markSize p)).all (inRanges ranges)
  let s1 := { s with marks := s.marks.filter fun p => !covered.contains p }
  (touched.filter fun p => !covered.contains p).foldl State.mergeMark s1

/-- Poisoned data marks every unit that it touches (R248). -/
def State.poisonRange (s : State) (a n : Nat) : State :=
  let us := (addrs a n).foldl (fun l x => let u := s.unitOf x; if l.contains u then l else l ++ [u]) []
  { s with marks := us.foldl (fun l u => sins u (.of .poisoned) (serase u l)) s.marks }

/-- The bytes of a 128-byte unit that lie in some ranges. -/
def unitMask (ranges : List (Nat × Nat)) (u : Nat) : BitVec 128 :=
  (List.range 128).foldl (fun m i => if inRanges ranges (u * 128 + i) then m ||| BitVec.ofNat 128 (2 ^ i) else m) 0

/-- The bytes of one unit under a mask, those of another elsewhere. -/
def mergeUnit (mask : BitVec 128) (new old : BitVec 1024) : BitVec 1024 :=
  unitBits ((List.range 128).map fun i => (if mask.getLsbD i then new else old).extractLsb' (8 * i) 8)

/-- Note how a unit is written, and its tag. -/
def State.putUnit (s : State) (u : Nat) (x : UnitKey) : State := { s with cipher := sins u x (serase u s.cipher) }
def State.putTag (s : State) (key u : Nat) (w : BitVec 1024) : State :=
  if s.encOn then { s with tags := sins u (unitTag key u w) (serase u s.tags) } else s

/-- A unit is as one key pair has written it, or zero since its frame was formatted. -/
def State.keyedBy (s : State) (key u : Nat) : Bool :=
  match lookupKey u s.cipher with
  | some x => x.key == some key && x.raw.isNone
  | none => s.listed u == 0

/-- How a unit stands after writes of the agent that acts, which changed `o` into `s`: encrypted with its key pair and tagged, or with
those bytes in the clear (R229, R230). A write of part of a unit whose tag does not match leaves the unit poisoned. -/
def State.keyUnit (o : State) (ranges : List (Nat × Nat)) (s : State) (u : Nat) : State :=
  let mask := unitMask ranges u
  match o.cur.key with
  | some k =>
    if mask = BitVec.allOnes 128 || o.keyedBy k u then (s.putUnit u ⟨some k, none⟩).putTag k u (encipher k u (s.listed u))
    else
      let w := encipher k u (mergeUnit mask (s.listed u) (o.unitFor k u))
      let t := (s.putUnit u ⟨some k, some w⟩).putTag k u w
      if o.tagBad (128 * u) then t.poisonRange (128 * u) 128 else t
  | none =>
    match lookupKey u o.cipher with
    | none => s.putUnit u ⟨none, none⟩
    | some x =>
      if mask = BitVec.allOnes 128 || (x.key.isNone && x.raw.isNone) then s.putUnit u ⟨none, none⟩
      else s.putUnit u ⟨x.key, some (mergeUnit mask (s.listed u) (o.rawUnit u))⟩

/-- The units of module DRAM that some ranges touch. -/
def unitsOf (ranges : List (Nat × Nat)) : List Nat :=
  ((ranges.flatMap fun r => addrs r.1 r.2).filter isDram).foldl (fun l a => if l.contains (a / 128) then l else l ++ [a / 128]) []

/-- Nothing is encrypted in a module where no memory encryption is enabled and no agent has a key pair. -/
def State.plain (s : State) : Bool := !s.encOn && s.cur.key.isNone && s.cipher.isEmpty

def State.keyRanges (o : State) (ranges : List (Nat × Nat)) (s : State) : State :=
  if o.plain then s else (unitsOf ranges).foldl (o.keyUnit ranges) s

/-- The flow of an address of a peer module (R168). -/
def flowOf (flat : Nat) : Option Nat := if 2 ^ 60 ≤ flat && flat < 2 ^ 76 then some ((flat - 2 ^ 60) / 2 ^ 52) else none

/-- The domain whose steps a flow's messages are tagged with: the cut's, else the one that lists the flow. -/
def State.tagDomain (s : State) (f : Nat) : Option Domain :=
  if s.eqx.st != .idle then lookupKey (bitsOf s.eqx.req 64 16) s.domains
  else (s.domains.find? fun p => p.2.flows.contains f).map Prod.snd

/-- The step tag of a message on a flow: on an enrolled flow, one more than the last step of the domain that the module has
completed (R272); other messages carry 0. -/
def State.stepTag (s : State) (f : Nat) : Nat :=
  if (s.flowAt f).desc.getLsbD 13 then
    match s.tagDomain f with
    | some d => d.steps + 1
    | none => 0
  else 0

/-- Send something on a flow, with the flow's next sequence number; it is kept, so that it can be sent again (R417). -/
def State.sendOn (s : State) (f : Nat) (o : Nat → Out) : State :=
  let x := s.flowAt f
  (s.setFlow f { x with seq := (x.seq + 1) % 2 ^ 32, sent := sins x.seq (o x.seq) (serase x.seq x.sent) }).send (o x.seq)

/-- A write on a page of a peer module travels as a message of its flow, with the flow's next sequence number (R168, R272). -/
def State.tellPeer (s : State) (a : Nat) (l : List Byte) (poisoned : Bool) : State :=
  match flowOf a with
  | none => s
  | some f =>
    s.sendOn f fun n => .message ⟨f, n, s.stepTag f, (a - 2 ^ 60) % 2 ^ 52, l, poisoned⟩

/-! ### Writes -/

/-- What writes of bytes that changed `o` into `s` do to marks and keys; they count as one write, and poisoned data leaves every unit
that it touches poisoned (R248). -/
def State.settleWrite (o : State) (ranges : List (Nat × Nat)) (poisoned : Bool) (s : State) : State :=
  let t := o.keyRanges ranges (if poisoned then s else s.markRanges ranges)
  if poisoned then ranges.foldl (fun (u : State) r => u.poisonRange r.1 r.2) t else t

/-- The bytes of some runs, in order. -/
def cellsOf (l : List (Nat × List Byte)) : List Host.Cell := l.flatMap fun x => x.2.zipIdx.map fun b => (x.1 + b.2, b.1)

/-- Write bytes in order, but for those that a stack queues: these are added to some, newest first. -/
def State.layBytes (s : State) (q : List Host.Cell) : List Host.Cell → State × List Host.Cell
  | [] => (s, q)
  | c :: r => if s.queuesWrite c.1 then s.layBytes (c :: q) r else (s.setByte c.1 c.2).layBytes q r

/-- A stack queues a write of the agent that acts, with what it does to marks and keys (R273, R274). -/
def State.queueWrite (s : State) (cells : List Host.Cell) (poisoned : Bool) : State :=
  if cells.isEmpty then s else { s with eqx := { s.eqx with queued := ⟨cells, poisoned, s.cur.key⟩ :: s.eqx.queued } }

/-- Write some bytes; those that a stack queues are performed later. -/
def State.writeCells (s : State) (ranges : List (Nat × Nat)) (cells : List Host.Cell) (poisoned : Bool) : State :=
  let r := s.layBytes [] cells
  let done := if r.2.isEmpty then ranges
    else (cells.filter fun c => !r.2.any fun q => q.1 == c.1).map fun c => (c.1, 1)
  (s.settleWrite done poisoned r.1).queueWrite r.2 poisoned

/-- The queued writes go on in their order; bytes whose frames still wait for a shadow are queued again. -/
def State.flushQueue (s : State) : State :=
  (s.eqx.queued.reverse.foldl (fun (t : State) w =>
    (t.withKey w.key).writeCells (w.cells.reverse.map fun c => (c.1, 1)) w.cells.reverse w.poisoned)
    { s with eqx := { s.eqx with queued := [] } }).withKey s.cur.key

/-- Writes of bytes that count as one write toward marks and keys. -/
def State.storePieces (s : State) (l : List (Nat × List Byte)) (poisoned : Bool) : State :=
  l.foldl (fun (t : State) x => t.tellPeer x.1 x.2 poisoned)
    (s.writeCells (l.map fun x => (x.1, x.2.length)) (cellsOf l) poisoned)

def State.storeAll (s : State) (l : List (Nat × List Byte)) : State := s.storePieces l false

/-- A write of bytes in one piece. -/
def State.store (s : State) (a : Nat) (l : List Byte) (poisoned : Bool) : State := s.storePieces [(a, l)] poisoned

/-! ### Reads

A read sees the writes that the stacks queue (R273): it reads as if they had been performed. -/

/-- The state with the queued writes performed. -/
def State.dequeued (s : State) : State :=
  if s.eqx.queued.isEmpty then s
  else { s with eqx := { s.eqx with st := .idle, snap := [] } }.flushQueue

/-- A byte as an agent with a key pair, or none, sees it. -/
def State.seenBy (s : State) (key : Option Nat) (a : Nat) : Byte := s.dequeued.viewBy key a

/-- The agent that acts reads a byte, or some bytes and their little-endian value. -/
def State.seen (s : State) (a : Nat) : Byte := s.seenBy s.cur.key a
def State.seenAt (s : State) (a n : Nat) : List Byte := (List.range n).map fun i => s.seen (a + i)
def State.seenN (s : State) (a n : Nat) : Nat := ofBytes (s.seenAt a n)

/-- A 64-bit value read in the clear, as the walkers read tables. -/
def State.read64 (s : State) (a : Nat) : Word := wd (ofBytes ((List.range 8).map fun i => s.seenBy none (a + i)))

/-- The marked units that some bytes touch, and the units among them whose tag does not match. -/
def State.marksAt (s : State) (l : List Nat) : List (Nat × Mark) :=
  (s.dequeued.marks.filter fun p => l.any fun a => p.1 ≤ a && a < p.1 + s.markSize p)
    ++ if s.encOn && s.cur.key.isSome then ((l.filter s.dequeued.tagBad).map fun a => (a / 128 * 128, Mark.of .tagMismatch)).eraseDups else []

/-- A read of some bytes: UNCORRECTABLE where the read finds an error, POISON where the data was marked (R249). -/
def State.checkAt (s : State) (l : List Nat) : State × Option Cause :=
  (s.marksAt l).foldl (fun r p =>
    let q := r.1.meetMark false p
    (q.1, match q.2, r.2 with
          | some .uncorrectable, _ => some .uncorrectable
          | some c, none => some c
          | _, o => o)) (s, none)

def State.checkRead (s : State) (a n : Nat) : State × Option Cause := s.checkAt (addrs a n)

/-- A byte lies in a bad unit. -/
def State.byteBad (s : State) (a : Nat) : Bool :=
  s.dequeued.tagBad a || s.dequeued.marks.any fun p => p.2.kind != .correctable && p.1 ≤ a && a < p.1 + s.markSize p

/-- The place of the first bad byte among some bytes. -/
def State.firstBadOf (s : State) (l : List Nat) : Nat := l.findIdx s.byteBad

/-- The lowest address of a range that lies in a bad unit. -/
def State.firstBad (s : State) (a n : Nat) : Nat := a + s.firstBadOf (addrs a n)

/-! ### Row locks -/

def overlap (a n b m : Nat) : Bool := decide (a < b + m) && decide (b < a + n)

/-- A DRAM row that an SDUE holds: other agents' accesses wait (R139, R386). -/
def State.rowHeld (s : State) (a n : Nat) (stack sdue : Nat) : Bool :=
  s.hbmStacks.any fun k => k.2.rows.any fun r => overlap a n (r.1 * 2048) 2048 && !(k.1 == stack && r.2 == sdue)

/-- A row of a range is held by an SDUE other than the one that acts. -/
def State.heldFor (s : State) (a n : Nat) : Bool :=
  if s.cur.stream = .sdue then s.rowHeld a n s.cur.stack s.cur.sdue else s.rowHeld a n 32 0

/-! ### Translation -/

/-- Who looks an address up: the requester, the core whose walker serves it, its context, user privilege. -/
structure Who where
  req : Requester
  core : Nat
  ctx : Nat
  user : Bool
  deriving DecidableEq, Repr

/-- The end of a lookup: a flat address with its LOC, a fault kind with its level, PROTECTION with the frame's address, or
the walker is busy. -/
inductive Xlat where
  | ok (flat loc : Nat)
  | fault (kind level : Nat)
  | protect (pa : Nat)
  | busy
  deriving DecidableEq, Repr

/-- Fields of a table entry (Table 9-2). -/
def pteV (e : Word) : Bool := e.getLsbD 0
def pteLeaf (e : Word) : Bool := e.getLsbD 1
def pteSz (e : Word) : Nat := bitsOf e 2 2
def pteFt (e : Word) : Bool := e.getLsbD 11
def pteGrn (e : Word) : Nat := bitsOf e 8 2
def pteLoc (e : Word) : Nat := bitsOf e 14 2
def pteFrame (e : Word) : Nat := bitsOf e 16 36
def pteFlow (e : Word) : Nat := bitsOf e 52 12
/-- A non-leaf entry that is malformed (R218, R223). -/
def pteBadNext (e : Word) : Bool := bitsOf e 52 12 != 0 || bitsOf e 2 11 != 0

/-- A frame lies in a range of some ranges (R213). -/
def rangesHold (r : BitVec 512) (frame : Nat) : Bool :=
  (List.range 8).any fun j => bitsOf r (64 * j) 36 ≤ frame && frame < bitsOf r (64 * j) 36 + bitsOf r (64 * j + 36) 28

/-- The frames of a context are the union of its ranges in force (R213). -/
def State.owned (s : State) (ctx frame count : Nat) : Bool :=
  (List.range count).all fun i => rangesHold (s.ctxAt ctx).ranges (frame + i)

/-- log2 of the size of the page that a leaf maps (R217). -/
def pageBits (level : Nat) (e : Word) : Nat := if level = 1 then 26 else if pteSz e = 1 then 21 else 16

/-- Malformed, for an entry with V = 1 or FT = 1 (R218). -/
def State.malformed (s : State) (ctx : Nat) (d : BitVec 1024) (e : Word) (level : Nat) : Bool :=
  if !pteLeaf e then pteBadNext e || level == 0
  else
    let n := 2 ^ (pageBits level e - 16)
    bitsOf e 12 2 != 0 || 2 ≤ level || 2 ≤ pteSz e || (level == 1 && pteSz e != 0)
      || pteFrame e % n != 0
      || (e.getLsbD 5 && !e.getLsbD 4)
      || (pteFt e && (pteV e || level == 1 || pteSz e != 0))
      || (pteLoc e != 0 && (pteGrn e != 0 || e.getLsbD 10))
      || (if pteLoc e = 2 then
            !((s.flowAt (pteFlow e)).setUp && bitsOf (s.flowAt (pteFlow e)).desc 14 6 == ctx)
          else pteFlow e != 0)
      || (pteLoc e == 0 && e.getLsbD 10 != d.getLsbD 20)
      || (e.getLsbD 10 && pteGrn e < 2)
      || (pteLoc e == 0 && pteV e && (List.range n).any fun i =>
            match lookupKey (pteFrame e + i) s.frames with
            | some g => granuleCode g != pteGrn e
            | none => true)

/-- The fault kind of an access that a leaf does not permit, in the order of R219. Kinds: 0 read, 1 write, 2 RMW, 3 fetch. -/
def notPermitted (e : Word) (kind : Nat) (user : Bool) : Option Nat :=
  let u := e.getLsbD 7
  if (user && !u) || (!user && kind == 3 && u) then some 5
  else if (kind == 0 || kind == 2) && !e.getLsbD 4 then some 2
  else if (kind == 1 || kind == 2) && !e.getLsbD 5 then some 3
  else if kind == 3 && !e.getLsbD 6 then some 4
  else none

/-- Where a walk ends (R223). -/
inductive WalkEnd where
  | stop (level : Nat) (e : Word) (at_ : Nat)
  | outside (pa : Nat)
  | error
  /-- A table lies in a row that an SDUE holds: the walk waits (R386). -/
  | held
  deriving DecidableEq, Repr

/-- The shipped walk (R223), from level n − 1 down: loads are checked against the owned frames. A table entry that reads
as bad data is a walker trap. -/
def State.walk (s : State) (ctx va : Nat) : Nat → Nat → WalkEnd
  | 0, _ => .error
  | l + 1, table =>
    let ea := table + 8 * (va / 2 ^ (16 + 10 * l) % 1024)
    if !s.owned ctx (frameOf ea) 1 then .outside ea
    else if s.heldFor ea 8 then .held
    else if (s.dequeued.marksIn ea 8).any (fun p => p.2.kind != .correctable) then .error
    else
      let e := s.read64 ea
      if !pteV e || pteLeaf e || l == 0 || pteBadNext e then .stop l e ea
      else s.walk ctx va l (bitsOf e 13 39 * 2 ^ 13)

/-- Where the thirty-two leaves of a 2 MiB page differ, the values of any one may be used: a free choice (R217). -/
def State.pickLeaf (s : State) (e : Word) (ea : Nat) : Word :=
  if pteV e && pteLeaf e && pteSz e == 1 then
    let base := ea / 256 * 256
    if (List.range 32).all fun i => s.read64 (base + 8 * i) == e then e
    else
      let f := s.read64 (base + 8 * (Config.freeChoice s.tick (2 ^ 60 + ea) % 32))
      if pteV f && pteLeaf f && pteSz f == 1 then f else e
  else e

/-- The flat address of a byte through a leaf. -/
def flatOf (d : BitVec 1024) (bits : Nat) (e : Word) (va : Nat) : Nat :=
  let pa := pteFrame e * 65536 / 2 ^ bits * 2 ^ bits + va % 2 ^ bits
  if pteLoc e = 2 then peerFlat (pteFlow e) pa
  else if pteLoc e = 3 then hostFlat (bitsOf d 0 20) pa
  else pa

/-- Use of a cached or new translation, with the permission check (R221). -/
def State.useLeaf (s : State) (w : Who) (kind va bits : Nat) (e : Word) : Xlat :=
  match notPermitted e kind w.user with
  | some k => .fault k (if bits = 26 then 1 else 0)
  | none => .ok (flatOf (s.descFor w.core w.ctx) bits e va) (pteLoc e)

def TlbEntry.hits (t : TlbEntry) (ctx va : Nat) : Bool := t.ctx == ctx && t.va == va / 2 ^ t.bits * 2 ^ t.bits

/-- Add an entry; a full TLB loses an entry of the device's choice. -/
def tlbAdd (size choice : Nat) (t : TlbEntry) (l : List TlbEntry) : List TlbEntry :=
  (if l.length < size then l else l.eraseIdx (choice % l.length)) ++ [t]

/-- Whether a requester is a group, which looks up its core's L1 TLB first (R221, R226). -/
def isGroupReq : Requester → Bool
  | .command _ => false
  | _ => true

/-- The die whose last-level TLB a requester looks up: its core's, or its SDUE's for a program (R226, R379). -/
def State.tlbDie (s : State) (w : Who) : Nat :=
  match w.req with
  | .command id =>
    match s.hbmStacks.find? fun k => k.2.sdue.any fun p => p.2.cmd == id with
    | some k => k.1 / 4
    | none => dieOf w.core
  | _ => dieOf w.core

/-- Install a translation in the last-level TLB of its die and the requesting core's L1 TLB (R224). -/
def State.install (s : State) (w : Who) (t : TlbEntry) : State :=
  let d := s.dieAt (s.tlbDie w)
  let s1 := s.setDie (s.tlbDie w) { d with tlb := tlbAdd 16384 (Config.freeChoice s.tick 1) t d.tlb }
  if isGroupReq w.req then
    let c := s1.coreAt w.core
    s1.setCore w.core { c with tlb := tlbAdd 64 (Config.freeChoice s.tick 2) t c.tlb }
  else s1

/-- The checks of TLBFILL in order (R224), with the frame's address of a PROTECTION. -/
def State.fillCheck (s : State) (w : Who) (kind va level : Nat) (e : Word) : Xlat :=
  if !pteV e && !pteFt e then .fault 0 level
  else if s.malformed w.ctx (s.descFor w.core w.ctx) e level then .fault 7 level
  else if pteV e && !pteLeaf e then .fault 7 level
  else if !pteV e then .fault 1 level
  else if pteLoc e < 2 && !s.owned w.ctx (pteFrame e) (2 ^ (pageBits level e - 16)) then .protect (pteFrame e * 65536)
  else s.useLeaf w kind va (pageBits level e) e

/-- Finish a walk: the checks, and the installation of a translation that they pass. -/
def State.fill (s : State) (w : Who) (kind va level : Nat) (e : Word) : State × Xlat :=
  match s.fillCheck w kind va level e with
  | .ok f l =>
    let b := pageBits level e
    (s.install w ⟨w.ctx, va / 2 ^ b * 2 ^ b, b, e⟩, .ok f l)
  | x => (s, x)

/-- A miss waits for the walker (R223). -/
def State.noteMiss (s : State) (w : Who) (kind va : Nat) : State :=
  let c := s.coreAt w.core
  let r : WalkReq := ⟨w.req, wd va, BitVec.ofNat 2 kind, w.user, w.ctx⟩
  if c.missed.contains r || c.walk == some r then s else s.setCore w.core { c with missed := c.missed ++ [r] }

/-- A lookup: canonical address (R137), the L1 and last-level TLBs, a verdict of the walker, or the walk, which the walker's slot
makes where the move leaves it to that slot (R221, R223). -/
def State.lookup (s : State) (w : Who) (kind va : Nat) : State × Xlat :=
  if 2 ^ 56 ≤ va then (s, .fault 6 0)
  else
    let c := s.coreAt w.core
    let l1 := if isGroupReq w.req then c.tlb.find? (fun (t : TlbEntry) => t.hits w.ctx va) else none
    match l1 with
    | some t => (s, s.useLeaf w kind va t.bits t.leaf)
    | none =>
      match (s.dieAt (s.tlbDie w)).tlb.find? (fun (t : TlbEntry) => t.hits w.ctx va) with
      | some t => (s, s.useLeaf w kind va t.bits t.leaf)
      | none =>
        match c.verdict.filter (fun v => v.1.who == w.req && v.1.ctx == w.ctx && v.1.kind.toNat == kind && v.1.user == w.user
            && frameOf v.1.va.toNat == frameOf va) with
        | some (_, k, l) => (s.setCore w.core { c with verdict := none }, .fault k l)
        | none =>
          if c.walk.isSome || s.cur.walker then (s.noteMiss w kind va, .busy)
          else
            match s.walk w.ctx va 4 ((s.descFor w.core w.ctx).extractLsb' 64 64).toNat with
            | .stop l e ea => s.fill w kind va l (s.pickLeaf e ea)
            | .outside pa => (s, .protect pa)
            | .held => (s, .busy)
            | .error => (s.event (.walkerError w.core), .fault 7 0)

/-- The hub dies cache a host translation that an access uses (R214). -/
def State.noteHost (s : State) (pasid page : Nat) : State :=
  if s.ats.contains (pasid, page) then s else { s with ats := s.ats ++ [(pasid, page)] }

/-- The translation of an address for an access. -/
def State.translate (s : State) (w : Who) (kind va : Nat) : State × Xlat :=
  match s.lookup w kind va with
  | (s1, .ok flat 3) => (s1.noteHost (bitsOf (s.descFor w.core w.ctx) 0 20) (flat % 2 ^ 52 / 4096), .ok flat 3)
  | x => x

/-- The distinct 64 KiB pages of some addresses, ascending (R220, R221). -/
def pagesOf (vas : List Nat) : List Nat :=
  (vas.foldl (fun l a => sins (frameOf a) () (serase (frameOf a) l)) ([] : Store Unit)).map Prod.fst

/-- Look up every distinct page; the answers by page. -/
def State.translatePages (s : State) (w : Who) (kind : Nat) : List Nat → State × List (Nat × Xlat)
  | [] => (s, [])
  | p :: r =>
    let q := s.translate w kind (p * 65536)
    let t := q.1.translatePages w kind r
    (t.1, (p, q.2) :: t.2)

/-- An address from its page's answer. -/
def atPage (m : List (Nat × Xlat)) (va : Nat) : Xlat :=
  match lookupKey (frameOf va) m with
  | some (.ok f l) => .ok (f + va % 65536) l
  | some x => x
  | none => .busy

/-! ### Locks -/

/-- RANGE_LOCK (R155): an access of a group of the die overlaps an entry of its context; the lowest overlapping address. -/
def State.lockAddr (s : State) (die ctx : Nat) (vault : Bool) (a n : Nat) (write : Bool) : Option Nat :=
  (s.dieAt die).locks.foldl (fun m l =>
    if l.ctx == ctx && l.vault == vault && overlap a n l.base l.len && (write || l.write) then
      some (match m with | some x => min x (max a l.base) | none => max a l.base)
    else m) none

def State.rangeLocked (s : State) (die ctx : Nat) (vault : Bool) (a n : Nat) (write : Bool) : Bool :=
  (s.lockAddr die ctx vault a n write).isSome

/-! ### The commit window (R255) -/

/-- The byte of a virtual address in the window, where the mask covers it. -/
def windowByte (l : List CLine) (va : Nat) : Option Byte :=
  match l.find? fun c => c.addr == va / 128 with
  | some c => if c.mask.getLsbD (va % 128) then some (c.data.extractLsb' (8 * (va % 128)) 8) else none
  | none => none

/-- Write a byte into its line, adding the line where it is new. -/
def windowPut (l : List CLine) (va : Nat) (b : Byte) : List CLine :=
  let i := va % 128
  let upd (c : CLine) : CLine :=
    { c with mask := c.mask ||| BitVec.ofNat 128 (2 ^ i), data := putBits c.data (8 * i) 8 b.toNat }
  if l.any fun c => c.addr == va / 128 then l.map fun c => if c.addr = va / 128 then upd c else c
  else l ++ [upd ⟨va / 128, 0, 0⟩]

/-- Lines that a window of a size holds: 144 bytes a line (R255). -/
def windowLines (size : Nat) : Nat := size / 144

/-- COMMIT of a kernel descriptor, CWIN (Table 16-2). -/
def descCommit (d : BitVec 512) : Bool := d.getLsbD 13
def descCwin (d : BitVec 512) : Nat := bitsOf d 256 32

/-- The group is of a commit task (R254). -/
def State.inCommit (s : State) (g : Group) : Bool :=
  match s.gridOf g with
  | some x => descCommit x.desc
  | none => false

/-- The window of the group's team, empty outside commit tasks. -/
def State.windowOf (s : State) (g : Group) : List CLine :=
  match s.teamOf g with
  | some t => t.commit
  | none => []

/-- Bytes as a group of the team reads them: the window's where its mask covers them, memory's elsewhere (R255). -/
def State.loadBytes (s : State) (win : List CLine) (va flat n : Nat) : List Byte :=
  (List.range n).map fun i =>
    match windowByte win (va + i) with
    | some b => b
    | none => s.seen (flat + i)

/-- The place in its die's vault of a window's byte, by line, where the window lies at an address (R255). -/
def windowAt (win : List CLine) (die base va : Nat) : Nat :=
  vaultFlat die (base + 144 * (win.findIdx fun c => c.addr == va / 128) + va % 128)

/-- Where the bytes of a load of a team come from: window words, or memory (R249, R255). -/
def State.sources (s : State) (team : Nat) (va flat n : Nat) : List Nat :=
  match s.team? team with
  | none => addrs flat n
  | some t =>
    if t.commit.isEmpty then addrs flat n
    else
      (List.range n).map fun i =>
        if (windowByte t.commit (va + i)).isSome then windowAt t.commit (dieOf t.core) t.cbase (va + i) else flat + i

/-- Buffer stores in the team's window: words that they cover whole lose their mark (R247, R255). -/
def State.bufferAll (s : State) (team : Nat) (l : List (Nat × List Byte)) : State :=
  match s.team? team with
  | none => s
  | some t =>
    let win := l.foldl (fun (w : List CLine) x =>
      (x.2.foldl (fun (q : List CLine × Nat) b => (windowPut q.1 q.2 b, q.2 + 1)) (w, x.1)).1) t.commit
    let places := l.flatMap fun x => (List.range x.2.length).map fun i => (windowAt win (dieOf t.core) t.cbase (x.1 + i), 1)
    (s.setTeam team { t with commit := win }).markRanges (if s.marks.isEmpty then [] else places)

def State.bufferBytes (s : State) (g : Group) (va : Nat) (l : List Byte) : State := s.bufferAll g.team [(va, l)]

/-- The first line of some stores that does not fit in the window (R257): the stores in order, each an address and a size. -/
def overflowLine (win : List CLine) (room : Nat) (stores : List (Nat × Nat)) : Option Nat :=
  let lines := stores.foldl (fun l p => (List.range p.2).foldl (fun m i =>
    let x := (p.1 + i) / 128
    if m.contains x || win.any (fun c => c.addr == x) then m else m ++ [x]) l) ([] : List Nat)
  (lines.drop (room - win.length)).head?.map (· * 128)

/-! ### Signatures (R261) -/

/-- The digest of one line: the first 128 bits of SHAKE256 over the context and what follows. -/
def lineDigest (ctx : Nat) (rest : List Byte) : Nat := ofBytes (shake256 (BitVec.ofNat 8 ctx :: rest) 16)

/-- AUD of a kernel descriptor and its class (Table 16-2). -/
def descAud (d : BitVec 512) : Bool := d.getLsbD 14
def descAudClass (d : BitVec 512) : Nat := bitsOf d 16 4

/-- Read events of an audited task: one for each distinct 128-byte line that is read from memory rather than wholly from
a window. `reads` gives virtual and flat address and size of each access. -/
def State.auditReads (s : State) (team : Nat) (win : List CLine) (reads : List (Nat × Nat × Nat)) : State :=
  match s.team? team with
  | none => s
  | some t =>
    match s.grid? t.grid with
    | none => s
    | some x =>
      if descAud x.desc then
        let touched := reads.foldl (fun l r => (List.range r.2.2).foldl (fun m i =>
          match windowByte win (r.1 + i) with
          | some _ => m
          | none =>
            let va := (r.1 + i) / 128 * 128
            if m.any fun p => p.1 == va then m else m ++ [(va, (r.2.1 + i) / 128 * 128)]) l) ([] : List (Nat × Nat))
        let sum := touched.foldl (fun n p => (n + lineDigest x.ctx (toBytes 8 p.1 ++ s.seenAt p.2 128)) % 2 ^ 128) x.sigIn
        s.setGrid t.grid { x with sigIn := sum }
      else s

/-- Reads of a group, through its team's window. -/
def State.noteReads (s : State) (g : Group) (reads : List (Nat × Nat × Nat)) : State := s.auditReads g.team (s.windowOf g) reads

end Sys2Proof.Machine
end

