-- ==== Sys2Proof/Machine/Records.lean ====
section
/-! DEFINITION. The device's own reads and writes of a context's memory by virtual address, Almanac records (R183 to R186),
first-touch service (R239) and host page requests (R240, R415). -/

namespace Sys2Proof.Machine

/-! ### The device's own accesses

The walkers and engines behind the Almanac use the dies' last-level TLBs and walk the context's tables where no TLB holds the page;
no permission bit is checked (log entry 10). -/

/-- Where the walk of an address under a descriptor ends: the entry and its address. -/
def State.entryBy (s : State) (d : BitVec 1024) (ctx va : Nat) : Option (Nat × Word × Nat) :=
  if 2 ^ 56 ≤ va then none
  else
    match s.walk ctx va 4 (d.extractLsb' 64 64).toNat with
    | .stop l e ea => some (l, e, ea)
    | _ => none

/-- The walk of an address waits for a held row. -/
def State.walkHeld (s : State) (d : BitVec 1024) (ctx va : Nat) : Bool :=
  va < 2 ^ 56 && s.walk ctx va 4 (d.extractLsb' 64 64).toNat == .held

def State.entryOf (s : State) (ctx va : Nat) : Option (Nat × Word × Nat) := s.entryBy (s.descNow ctx) ctx va

/-- A translation of the page that a last-level TLB holds. -/
def State.cachedLeaf (s : State) (ctx va : Nat) : Option TlbEntry :=
  s.dies.findSome? fun (d : Nat × Die) => d.2.tlb.find? fun (t : TlbEntry) => t.hits ctx va

/-- The leaf for a virtual address of a context: cached, or valid, well-formed and on frames that the context owns. -/
def State.deviceLeaf (s : State) (ctx va : Nat) : Option TlbEntry :=
  match s.cachedLeaf ctx va with
  | some t => some t
  | none =>
    match s.entryOf ctx va with
    | none => none
    | some (l, e, _) =>
      if pteV e && pteLeaf e && !s.malformed ctx (s.descNow ctx) e l
          && (2 ≤ pteLoc e || s.owned ctx (pteFrame e) (2 ^ (pageBits l e - 16))) then
        some ⟨ctx, va / 2 ^ pageBits l e * 2 ^ pageBits l e, pageBits l e, e⟩
      else none

/-- The flat address of a virtual address of a context. -/
def State.deviceFlat (s : State) (ctx va : Nat) : Option Nat :=
  (s.deviceLeaf ctx va).map fun t => flatOf (s.descNow ctx) t.bits t.leaf va

/-- The page is installed in the last-level TLB of die 0, so that a later change of its entry needs an invalidation (R222). -/
def State.warm (s : State) (ctx va : Nat) : State :=
  match s.cachedLeaf ctx va, s.deviceLeaf ctx va with
  | none, some t =>
    let d := s.dieAt 0
    s.setDie 0 { d with tlb := tlbAdd 16384 (Config.freeChoice s.tick 1) t d.tlb }
  | _, _ => s

/-- The pieces of a range that lie in one page each: flat address and size. -/
def State.devicePieces (s : State) (ctx va n : Nat) : Option (List (Nat × Nat)) :=
  let k := min n (65536 - va % 65536)
  match s.deviceFlat ctx va, if k = n then some 0 else s.deviceFlat ctx (va + k) with
  | some f, some g => some ((f, k) :: (if k = n then [] else [(g, n - k)]))
  | _, _ => none

/-- An access of the device's own has met a held row. -/
def State.waitRow (s : State) : State := { s with cur := { s.cur with rowWait := true } }

/-- A row of a range, or of a table on the way to it, is held. -/
def State.rangeHeld (s : State) (ctx va n : Nat) : Bool :=
  match s.devicePieces ctx va n with
  | some l => l.any fun p => s.heldFor p.1 p.2
  | none => s.walkHeld (s.descNow ctx) ctx va || s.walkHeld (s.descNow ctx) ctx (va + n - 1)

/-- What a read or a write of a range does beside its data: the translations of its pages are installed (R222), and a held row of it
keeps what makes the access waiting (R386). -/
def State.touch (s : State) (ctx va n : Nat) : State :=
  let t := (s.warm ctx va).warm ctx (va + n - 1)
  if s.rangeHeld ctx va n then t.waitRow else t

/-- What the device does: its next state, or none of it where that meets a held row, and waits (R386). -/
def State.unlessHeld (s t : State) : State := if t.cur.rowWait && !s.cur.rowWait then s else t

/-- The same of an answer. -/
def State.orHeld (s : State) : Result → Result
  | .next t => .next (s.unlessHeld t)
  | r => r

/-- Read a range of at most 64 KiB. -/
def State.deviceBytes (s : State) (ctx va n : Nat) : Option (List Byte) :=
  (s.devicePieces ctx va n).map fun l => l.flatMap fun (p : Nat × Nat) => (s.asContext ctx).seenAt p.1 p.2

/-- Read its little-endian value. -/
def State.deviceRead (s : State) (ctx va n : Nat) : Option Nat := (s.deviceBytes ctx va n).map ofBytes

/-- Write a range of at most 64 KiB, as an agent with the key pair that the module acts with at present; an unmapped range is not
written. -/
def State.writeAs (s : State) (ctx va : Nat) (l : List Byte) : State :=
  match s.devicePieces ctx va l.length with
  | none => s
  | some ps =>
    (ps.foldl (fun (q : State × List Byte) p => (q.1.store p.1 (q.2.take p.2) false, q.2.drop p.2)) (s, l)).1.touch ctx va l.length

/-- The device writes with the context's own key pair. -/
def State.deviceWrite (s : State) (ctx va : Nat) (l : List Byte) : State :=
  ((s.asContext ctx).writeAs ctx va l).withKey s.cur.key

/-! ### Almanac records -/

/-- Virtual address of a record (R183). -/
def State.recordVa (s : State) (ctx index : Nat) : Nat := (s.ctxAt ctx).almBase.toNat + 64 * index

/-- A record of the context's region. -/
def State.record (s : State) (ctx index : Nat) : Option (BitVec 512) :=
  if index < (s.ctxAt ctx).almRecords then (s.deviceRead ctx (s.recordVa ctx index) 64).map fun n => BitVec.ofNat 512 n else none

/-- Reading a record of the region. -/
def State.touchRecord (s : State) (ctx index : Nat) : State :=
  if index < (s.ctxAt ctx).almRecords then s.touch ctx (s.recordVa ctx index) 64 else s

/-- Fields of Table 8-6. -/
def recDep (r : BitVec 512) : Nat := bitsOf r 0 32
def recState (r : BitVec 512) : Nat := bitsOf r 32 4
def recKind (r : BitVec 512) : Nat := bitsOf r 36 3
def recPrio (r : BitVec 512) : Nat := bitsOf r 40 2
def recClass (r : BitVec 512) : Nat := bitsOf r 42 2
def recRetry (r : BitVec 512) : Nat := bitsOf r 44 3
def recTries (r : BitVec 512) : Nat := bitsOf r 47 3
def recNotify (r : BitVec 512) : Bool := r.getLsbD 50
def recDesc (r : BitVec 512) : Nat := bitsOf r 64 64
def recArgs (r : BitVec 512) : Word := r.extractLsb' 128 64
def recStatblk (r : BitVec 512) : Nat := bitsOf r 192 64
def recTeams (r : BitVec 512) : Nat := bitsOf r 256 32
def recSeed (r : BitVec 512) : Nat := bitsOf r 288 32
def recKey (r : BitVec 512) : Word := r.extractLsb' 320 64
def recSucc (r : BitVec 512) : Nat := bitsOf r 384 64
def recNsucc (r : BitVec 512) : Nat := bitsOf r 448 16

/-- States of Table 8-7. -/
def rsEmpty : Nat := 0
def rsBlocked : Nat := 1
def rsReady : Nat := 2
def rsQueued : Nat := 3
def rsRunning : Nat := 4
def rsDone : Nat := 5
def rsFailed : Nat := 6

/-- Write the record's first eight bytes, which hold every field that the device writes. -/
def State.writeHead (s : State) (ctx index : Nat) (r : BitVec 512) : State :=
  s.deviceWrite ctx (s.recordVa ctx index) (toBytes 8 (bitsOf r 0 64))

/-- A record in a state that is not FAILED: its CAUSE is 0x00 (Table 8-6). -/
def inState (r : BitVec 512) (st : Nat) : BitVec 512 := putBits (putBits r 32 4 st) 56 8 0

/-- Set STATE of a record. -/
def State.recordState (s : State) (ctx index st : Nat) : State :=
  match s.record ctx index with
  | some r => s.writeHead ctx index (inState r st)
  | none => s

/-- A record has become READY: the walker is to check it (R184). -/
def State.toCheck (s : State) (ctx index : Nat) : State :=
  let c := s.ctxAt ctx
  s.setCtx ctx { c with checks := c.checks.filter (· != index) ++ [index] }

/-- FAILED with a cause (Table 8-8); the host is told with NOTIFY (R186). -/
def State.recordFailed (s : State) (ctx index cause : Nat) : State :=
  match s.record ctx index with
  | some r =>
    let s1 := s.writeHead ctx index (putBits (putBits r 32 4 rsFailed) 56 8 cause)
    if recNotify r then s1.event (.notify ctx index false) else s1
  | none => s

/-- A decrement (R185): only one from 1 to 0 makes a BLOCKED record READY, with no relaunch performed yet; at 0 it is logged; a reserved
state fails (Table 8-7). -/
def State.decrement (s : State) (ctx index : Nat) : State :=
  match s.record ctx index with
  | none => (s.touchRecord ctx index).event (.almanac ctx index 1)
  | some r =>
    if recDep r = 0 then (s.touchRecord ctx index).event (.almanac ctx index 0)
    else
      let r1 := putBits r 0 32 (recDep r - 1)
      if recDep r = 1 ∧ recState r = rsBlocked then (s.writeHead ctx index (putBits (inState r1 rsReady) 47 3 0)).toCheck ctx index
      else
        let s1 := s.writeHead ctx index r1
        if recDep r = 1 ∧ 7 ≤ recState r then s1.recordFailed ctx index Cause.reservedField.code else s1

/-- Decrement the successors in list order; an index outside the region is skipped and logged (R186). -/
def State.decrementAll (s : State) (ctx list : Nat) : Nat → State
  | 0 => s
  | n + 1 =>
    let s1 := s.decrementAll ctx list n
    match s1.deviceRead ctx (list + 4 * n) 4 with
    | some i => (s1.touch ctx (list + 4 * n) 4).decrement ctx i
    | none => s1.event (.almanac ctx n 1)

/-- DONE: the successors are decremented, and the host is told with NOTIFY (R186). -/
def State.recordDone (s : State) (ctx index : Nat) : State :=
  match s.record ctx index with
  | some r =>
    let s1 := s.writeHead ctx index (inState r rsDone)
    let s2 := s1.decrementAll ctx (recSucc r) (recNsucc r)
    if recNotify r then s2.event (.notify ctx index true) else s2
  | none => s

/-! ### First touch and host page requests -/

/-- What first-touch service finds (R239). -/
inductive Touch where
  | mapped | valid | noFrame
  deriving DecidableEq, Repr

/-- The pool's frames of a granule, those under the die first in line; which is taken is a free choice. -/
def State.poolChoice (s : State) (ctx die : Nat) (g : Granule) : Option Nat :=
  let all := (s.ctxAt ctx).pool.filter fun p => p.2 == g
  let near := all.filter fun p => stackOf (p.1 * 65536) / 4 == die
  let l := if near.isEmpty then all else near
  (l[Config.freeChoice s.tick 3 % l.length]?).map Prod.fst

def granuleOfCode (c : Nat) : Granule := if c = 0 then .g0 else if c = 1 then .g1 else if c = 2 then .g2 else .g3

/-- Map a page from the pool: the leaf gets V = 1, FT = 0 and the frame (R239). The tables are those of the descriptor that the
access's core loaded (R212). A malformed entry, and one in a row that an SDUE holds (R386), is left to the replay, whose walk
finds it (R218). Where the walk ends otherwise, at an entry
that is neither valid nor marked for first touch, or outside the owned frames, R239 names no outcome: DESIGN CHOICE, the host is asked, as
where the pool has no frame (log entry 108). -/
def State.firstTouch (s : State) (ctx core die va : Nat) : State × Touch :=
  match s.entryBy (s.descFor core ctx) ctx va with
  | none => (s, if s.walkHeld (s.descFor core ctx) ctx va then .valid else .noFrame)
  | some (l, e, ea) =>
    if s.heldFor ea 8 || pteV e || s.malformed ctx (s.descFor core ctx) e l then (s, .valid)
    else if !pteFt e then (s, .noFrame)
    else
      match s.poolChoice ctx die (granuleOfCode (pteGrn e)) with
      | none => (s, .noFrame)
      | some f =>
        let e1 := putBits (putBits (putBits e 0 1 1) 11 1 0) 16 36 f
        let c := s.ctxAt ctx
        ((((s.setCtx ctx { c with pool := c.pool.filter fun p => p.1 != f }).withKey none).store ea (toBytes 8 e1.toNat) false).withKey
          s.cur.key, .mapped)

/-- Page-request groups of a PASID that are outstanding at the host; BAR4 shows this count (R411). -/
def State.pagesOut (s : State) (pasid : Nat) : Nat := (s.priOut.filter fun p => p.1 == pasid).length

/-- Send a page-request group (R240). -/
def State.askHost (s : State) (p : Nat × WalkReq) : State :=
  { s with priOut := s.priOut ++ [p] }.send (.pageRequest p.1 p.2.va (p.2.kind != 0 && p.2.kind != 3) (!p.2.user))

/-- Send a page request of an agent that a core serves, or keep it for when a place is free (R240, R415). -/
def State.sendPage (s : State) (core : Nat) (r : WalkReq) : State :=
  let pasid := bitsOf (s.descFor core r.ctx) 0 20
  if s.pagesOut pasid < 64 then s.askHost (pasid, r) else { s with priQueue := s.priQueue ++ [(pasid, r)] }

/-- A place is free: the oldest waiting request of the PASID is sent (R415). -/
def State.nextPage (s : State) (pasid : Nat) : State :=
  match s.priQueue.find? fun p => p.1 == pasid with
  | none => s
  | some p => { s with priQueue := s.priQueue.erase p }.askHost p

/-- PRIEN of a context, for an agent that a core serves (Table 9-1). -/
def State.prien (s : State) (core ctx : Nat) : Bool := (s.descFor core ctx).getLsbD 22

end Sys2Proof.Machine
end

