-- ==== Sys2Proof/Machine/Commands.lean ====
section
/-! DEFINITION. Accesses in flight and their counters (R147, R148), and the ends of engine and matrix commands: completion,
freezing (R243), release of range locks (R154). -/

namespace Sys2Proof.Machine

/-! ### Counters -/

/-- The in-flight counter of a path (R147). -/
def Group.count (g : Group) (p : Path) : Nat := (g.inflight.filter fun a => a.path == p).length

/-- Raise a counter: the access joins those in flight, in issue order. -/
def Group.track (g : Group) (a : Access) : Group := { g with inflight := g.inflight ++ [a] }

/-- A counter holds at most 63 (R148). -/
def Group.full (g : Group) (p : Path) : Bool := 63 ≤ g.count p

/-- Counters fall in issue order: an access is subtracted only with every earlier one of its path (R147). -/
def dropDone (blocked : List Path) : List Access → List Access
  | [] => []
  | a :: r => if a.done && !blocked.contains a.path then dropDone blocked r else a :: dropDone (a.path :: blocked) r

def Group.subtract (g : Group) : Group := { g with inflight := dropDone [] g.inflight }

/-- Update the n-th access in flight on a path. -/
def mapNth (p : Path) (f : Access → Access) : Nat → List Access → List Access
  | _, [] => []
  | n, a :: r =>
    if a.path = p then (match n with | 0 => f a :: r | n + 1 => a :: mapNth p f n r) else a :: mapNth p f n r

def nthAccess (p : Path) (n : Nat) (l : List Access) : Option Access := (l.filter fun a => a.path == p)[n]?

/-! ### ATS (R214, R411) -/

/-- Accesses of a PASID that are not complete: those of groups and commands whose core loaded it in a context's descriptor (R212). -/
def State.pasidBusy (s : State) (pasid : Nat) : Bool :=
  let mine (core c : Nat) : Bool := bitsOf (s.descFor core c) 0 20 == pasid
  s.groups.any (fun p => mine (p.1 / Config.slots) p.2.ctx && p.2.inflight.any fun a => !a.done)
    || s.ecmds.any (fun c => mine c.core c.ctx && !c.frozen)
    || s.cores.any (fun p => p.2.mcmds.any fun m => mine p.1 m.ctx && m.fault.isNone)
    || s.dies.any fun p => p.2.batches.any fun b => b.rows.any fun r => mine r.core r.ctx && !r.settled

/-- The ATS invalidations in the queue that no access in progress holds up complete. -/
def State.serveAts (s : State) : State :=
  let ended := s.atsQueue.filter fun q => !s.pasidBusy q.1
  ended.foldl (fun (t : State) q => t.send (.invalidated q.1 q.2)) { s with atsQueue := s.atsQueue.filter fun q => s.pasidBusy q.1 }

/-! ### Groups of commands -/

/-- The key of a resident group of a team. -/
def State.findGroup (s : State) (team gidx : Nat) : Option Nat :=
  (s.groups.find? fun p => p.2.team == team && p.2.gidx == gidx && p.2.st != .free).map Prod.fst

/-- Update a resident group of a team. -/
def State.modTeamGroup (s : State) (team gidx : Nat) (f : Group → Group) : State :=
  match s.findGroup team gidx with
  | some k => { s with groups := sset Group.init k (f (sget Group.init k s.groups)) s.groups }
  | none => s

/-- Flags and assists of a command that ends: they go to its group, or to the grid where the host has released the group's slot (R111). -/
def State.raiseIn (s : State) (team gidx : Nat) (f : BitVec 7) (assists : Nat) : State :=
  match s.findGroup team gidx with
  | some _ => s.modTeamGroup team gidx fun g => { g.raise f with assists := g.assists + assists }
  | none =>
    match s.team? team with
    | none => s
    | some t =>
      match s.grid? t.grid with
      | some x => s.setGrid t.grid { x with flags := x.flags ||| f, assists := x.assists + assists }
      | none => s

/-- Release the range locks of a command on every die (R154). -/
def State.releaseLocks (s : State) (id : Nat) : State :=
  { s with dies := s.dies.map fun p => (p.1, { p.2 with locks := p.2.locks.filter fun l => l.cmd != id }) }

/-- WAITG statuses (Table 8-4). -/
def stDone : Nat := 0
def stTimeout : Nat := 1
def stFailed : Nat := 2
def stRefused : Nat := 3

/-- A token is of one of the group's 1024 engine commands issued last; tokens wrap from 2²¹ − 1 to 1 (R179). -/
def Group.recent (g : Group) (tok : Nat) : Bool := decide ((g.nextTok + (2 ^ 21 - 1) - tok) % (2 ^ 21 - 1) ≤ 1024)

/-- The group forgets the statuses of older commands. -/
def Group.keepRecent (g : Group) : Group := { g with tokDone := g.tokDone.filter fun p => g.recent p.1 }

/-- Note the final status of a token; the group keeps those of its 1024 most recent commands (R179). JRNL.COMMIT has no token, written 0. -/
def Group.tokenEnd (g : Group) (tok status : Nat) : Group :=
  if tok = 0 then g else { g with tokDone := (tok, status) :: g.tokDone }.keepRecent

/-- The access of an engine command is complete on ENG, and its token has a status. -/
def Group.commandEnd (g : Group) (id tok status : Nat) : Group :=
  ({ g with inflight := g.inflight.map fun (a : Access) => if a.cmd = some id then { a with done := true } else a }.subtract).tokenEnd tok status

/-- A multicast that ends releases its references on its receivers (R204). -/
def State.dropRefs (s : State) (c : ECmd) : State :=
  if c.kind = 3 then
    let first := bitsOf (c.pack.getD 3 0) 0 16
    let count := bitsOf (c.pack.getD 3 0) 16 16
    let grid := c.team / 2 ^ 32
    (List.range count).foldl (fun s i =>
      match s.team? (teamKey grid (first + i)) with
      | some t => s.setTeam (teamKey grid (first + i)) { t with mcast := t.mcast - 1 }
      | none => s) s
  else s

/-- Codes that CAUSE may hold (Table 11-16). -/
def causeCodes : List Nat :=
  [0x01, 0x02, 0x03, 0x04, 0x05, 0x08, 0x10, 0x11, 0x12, 0x13, 0x14, 0x15, 0x18, 0x19, 0x21, 0x22, 0x23, 0x28, 0x29, 0x30, 0x31,
   0x38, 0x39]

/-- What the end of a command tells its issuer: the group's token its status, or its record DONE or FAILED (Table 8-8). A
failure whose cause the manual does not name leaves a free one of the causes listed (R325, log entry 18). -/
def State.tellEnd (s : State) (c : ECmd) (status : Nat) (cause : Option Nat) : State :=
  match c.recIndex with
  | none => s.modTeamGroup c.team c.gidx fun g => g.commandEnd c.id c.tok status
  | some i =>
    if status = stDone then s.recordDone c.ctx i
    else s.recordFailed c.ctx i (match cause with | some x => x | none => causeCodes.getD (Config.freeChoice s.tick 7 % causeCodes.length) 1)

/-- An engine command ends with a status: it is complete, and its locks are released. -/
def State.endCause (s : State) (c : ECmd) (status : Nat) (cause : Option Nat) : State :=
  let s1 := s.dropRefs c
  let s2 := { s1 with ecmds := s1.ecmds.filter fun x => x.id != c.id }
  (s2.releaseLocks c.id).tellEnd c status cause

def State.endCommand (s : State) (c : ECmd) (status : Nat) : State := s.endCause c status none

/-- A program leaves its SDUE, and its row locks are released (R380). -/
def State.dropProgram (s : State) (id : Nat) : State :=
  { s with hbmStacks := s.hbmStacks.map fun (k : Nat × Stack) =>
      let gone := (k.2.sdue.filter fun p => p.2.cmd == id).map Prod.fst
      (k.1, { k.2 with
        sdue := k.2.sdue.filter fun p => !(p.2.cmd == id)
        rows := k.2.rows.filter fun r => !gone.contains r.2 }) }

/-- An engine command that a PROTECTION stops: complete on ENG, FAILED, its locks held until the host releases them (R243). -/
def State.freezeEngine (s : State) (c : ECmd) (acc : Nat) (va pa : Word) : State :=
  let s1 := (s.dropRefs c).dropProgram c.id
  let s2 := { s1 with ecmds := s1.ecmds.map fun (x : ECmd) => if x.id = c.id then { x with frozen := true } else x }
  s.unlessHeld ((s2.tellEnd c stFailed (some Cause.protection.code)).event
    (.freeze (masterRecord 1 0x12 c.ctx acc (c.core / 256 + c.core % 256 * 8 + c.tok * 2 ^ 11) va pa s.time)))

/-- A matrix command that a PROTECTION stops: it ends, and its locks stay (R226, R243). It has no token, and the token field of its IDENT
is 0 (DESIGN CHOICE, log entry 107). -/
def State.freezeMatrix (s : State) (core : Nat) (m : MCmd) (ctx acc : Nat) (va pa : Word) : State :=
  let c := s.coreAt core
  (s.setCore core { c with mcmds := c.mcmds.filter fun x => x.id != m.id }).event
    (.freeze (masterRecord 2 0x12 ctx acc (core / 256 + core % 256 * 8) va pa s.time))

/-- PROTECTION for the requester of a walk (R223, R224, R243). -/
def State.freezeRequester (s : State) (r : WalkReq) (pa : Word) : State :=
  match r.who with
  | .scalar core slot => s.freezeGroup core slot r.kind.toNat r.va pa
  | .lane core slot => s.freezeGroup core slot r.kind.toNat r.va pa
  | .command id =>
    match s.ecmds.find? fun c => c.id == id with
    | some c => s.freezeEngine c r.kind.toNat r.va pa
    | none =>
      match s.cores.find? fun p => p.2.mcmds.any fun m => m.id == id with
      | some (core, c) =>
        match c.mcmds.find? fun m => m.id == id with
        | some m => s.freezeMatrix core m r.ctx r.kind.toNat r.va pa
        | none => s
      | none => s

end Sys2Proof.Machine
end

