-- ==== Sys2Proof/Machine/Order.lean ====
section
/-! DEFINITION. The order of a group's memory accesses: scopes (R150 to R152), and what holds an access back: the stream order (R159 to
R161, R165, R168, R171, R174), rows that an SDUE holds (R139), a shadow (R274). -/

namespace Sys2Proof.Machine

/-! ### The place of an access in its group's program order -/

/-- Its stream; for the lane stream its block's number, for the scalar stream the blocks queued before it (R23); its arms and loops. -/
structure Spot where
  lane : Bool
  mark : Nat
  arms : List (Nat × Bool)
  loops : List (Nat × Word)
  deriving DecidableEq, Repr

def armsOf (l : List REntry) : List (Nat × Bool) :=
  l.filterMap fun (x : REntry) => match x.kind with | .ifK => some (x.id, false) | .elseK => some (x.id, true) | .loopK => none

def loopsOf (l : List REntry) : List (Nat × Word) :=
  l.filterMap fun (x : REntry) => match x.kind with | .loopK => some (x.id, x.alive) | _ => none

/-- The number of the lane block that runs. -/
def Group.blockId (g : Group) : Nat :=
  match g.run with
  | some b => b.id
  | none => 0

/-- Where the group's lane word and its scalar word stand. -/
def Group.laneSpot (g : Group) : Spot := ⟨true, g.blockId, armsOf g.rstack, loopsOf g.rstack⟩
def Group.scalarSpot (g : Group) : Spot := ⟨false, g.nextBlk, [], []⟩

def Access.spot (a : Access) : Spot := ⟨a.lane, a.mark, a.arms, a.loops⟩

/-- The stream order does not relate a lane's earlier access and a later one: they lie in different arms of one region, or the lane
had left the loop before the later one's iteration (R159). -/
def Spot.apart (a : Spot) (lane : Nat) (x : Spot) : Bool :=
  (a.arms.any fun p => x.arms.any fun q => p.1 == q.1 && p.2 != q.2)
    || a.loops.any fun p => x.loops.any fun q => p.1 == q.1 && !q.2.getLsbD lane

/-- An access that issued earlier comes before a spot in the stream order (R161). -/
def Access.before (a : Access) (lane : Nat) (x : Spot) : Bool :=
  if a.lane && x.lane then !a.spot.apart lane x
  else if a.lane then a.past
  else !x.lane || a.mark ≤ x.mark

/-! ### Scopes (R150 to R152, R163) -/

/-- Agents that a scope may hold: a group, the matrix unit and the gather unit of a core, the copy engine of a cluster (R153), the SDUEs
of a stack, the collective engine of a hub die, the host, peer modules. -/
inductive Party where
  | group (core slot : Nat)
  | matrix (core : Nat)
  | gather (core : Nat)
  | copy (cluster : Nat)
  | sdues (stack : Nat)
  | collective (hub : Nat)
  | host
  | peers
  deriving DecidableEq, Repr

/-- A range word of an entry as a core loaded it (Table 6-8): valid, and its first and last core. -/
def State.scopeWord (s : State) (core ctx entry j : Nat) : Option (Nat × Nat) :=
  let w := sget 0 (ctx * 256 + entry * 8 + j) (s.coreAt core).scope
  if w.getLsbD 31 then some (bitsOf w 0 11, bitsOf w 16 11) else none

/-- A core is one of those that an entry names as seen from the issuing core (Table 6-7, R151). -/
def State.scopeCore (s : State) (core ctx entry c : Nat) : Bool :=
  if entry ≤ 1 then c == core
  else if entry = 2 then clusterOf c == clusterOf core
  else if entry = 3 then dieOf c == dieOf core
  else if entry ≤ 5 then true
  else c == core || (List.range 8).any fun j =>
    match s.scopeWord core ctx entry j with
    | some r => r.1 ≤ c && c ≤ r.2
    | none => false

/-- The scope of an access: one in the vault acts at DIE at most (R163). -/
def State.scopeEntry (s : State) (core ctx entry : Nat) (vault : Bool) : Nat :=
  if vault && (List.range Config.cores).any (fun c => dieOf c != dieOf core && s.scopeCore core ctx entry c) then 3 else entry

/-- An agent is in an entry's scope as seen from the issuing group: the issuing group alone in GROUP; else the groups on its cores with
the units and engines that serve memory for them, in MODULE and SYSTEM the collective engines too, and in SYSTEM the host and peer
modules. Which cores a collective engine serves in a narrower scope the manual does not say: none (DESIGN CHOICE, log entry 105). -/
def State.inScope (s : State) (core slot ctx entry : Nat) : Party → Bool
  | .group c k => if entry = 0 then c == core && k == slot else s.scopeCore core ctx entry c
  | .matrix c => entry != 0 && s.scopeCore core ctx entry c
  | .gather c => entry != 0 && s.scopeCore core ctx entry c
  | .copy cl => entry != 0 && (List.range Config.cores).any fun c => clusterOf c == cl && s.scopeCore core ctx entry c
  | .sdues k => entry != 0 && (List.range Config.cores).any fun c => dieOf c == k / 4 && s.scopeCore core ctx entry c
  | .collective _ => entry == 4 || entry == 5
  | .host => entry == 5
  | .peers => entry == 5

/-! ### What holds an access back -/

def MemAct.reads : MemAct → Bool
  | .store _ => false
  | _ => true
def MemAct.writes : MemAct → Bool
  | .load _ _ _ => false
  | _ => true

/-- Two writes travel on one flow in ordered mode (R168; ORD, Table 20-4). -/
def State.flowOrdered (s : State) (a b : Nat) : Bool :=
  match flowOf a, flowOf b with
  | some f, some g => f == g && (s.flowAt f).desc.getLsbD 12
  | _, _ => false

/-- An earlier access that has not performed holds back a later one: they meet at a byte (R171), the earlier one acquires or the
later one releases (O1, O2), the later one writes what the earlier one has not read yet (R174), or both write on an ordered flow. -/
def State.holds (s : State) (a : Access) (t : Todo) (x : Spot) (o : Order) (flat n : Nat) (writes : Bool) : Bool :=
  a.before t.lane x
    && (overlap t.flat t.n flat n || a.order.acquire || o.release || (writes && t.act.reads)
        || (writes && t.act.writes && s.flowOrdered t.flat flat))

/-- A near-memory atomic of the group on these bytes waits at its SDUE (R171, R369). -/
def State.atomMeets (s : State) (g : Group) (flat n : Nat) : Bool :=
  s.hbmStacks.any fun k => k.2.atoms.any fun a => a.team == g.team && a.gidx == g.gidx && overlap a.addr 4 flat n

/-- A command is of a group. -/
def State.issuedBy (s : State) (cmd team gidx : Nat) : Bool :=
  (s.ecmds.any fun c => c.id == cmd && c.team == team && c.gidx == gidx)
    || s.cores.any fun p => p.2.mcmds.any fun m => m.id == cmd && m.team == team && m.gidx == gidx

/-- A range lock of another group's command covers an access that has issued before the lock: it does not perform before that command has
ended (R167). A command waits for its own group's accesses. -/
def State.lockedOut (s : State) (die ctx team gidx : Nat) (vault : Bool) (a n : Nat) (write : Bool) : Bool :=
  (s.dieAt die).locks.any fun l =>
    l.ctx == ctx && l.vault == vault && overlap a n l.base l.len && (write || l.write) && !s.issuedBy l.cmd team gidx

/-- An access may perform: no earlier one holds it back, no SDUE holds its row (R139), and a write does not wait for a shadow (R274). -/
def State.mayPerform (s : State) (g : Group) (earlier : List Access) (x : Spot) (o : Order) (flat n : Nat) (writes : Bool) : Bool :=
  !s.rowHeld flat n 32 0 && !(writes && s.noShadow flat n) && !(earlier.any fun a => a.todo.any fun t => s.holds a t x o flat n writes) && !s.atomMeets g flat n

/-- An acquire access of the group that has not performed comes before its lane word: a function register binds after it (R126, O1). -/
def Group.acquiring (g : Group) : Bool :=
  g.inflight.any fun a => a.order.acquire && a.todo.any fun t => a.before t.lane g.laneSpot

/-- The reads of the group that have issued have taken their values (R174). -/
def Group.readsDone (g : Group) : Bool := g.inflight.all fun a => a.todo.all fun t => !t.act.reads

end Sys2Proof.Machine
end

