-- ==== Sys2Proof/Machine/Waits.lean ====
section
/-! DEFINITION. What the streams of a group wait on and when it has come (R14, R22, R179, R192, R295), and joins (R161). -/

namespace Sys2Proof.Machine

/-! ### Groups of a team and of a core -/

/-- A group of a team by index: resident, or in its save image; none where it has gone. -/
def State.memberOf (s : State) (team gidx : Nat) : Option Group :=
  match s.findGroup team gidx with
  | some k => some (sget Group.init k s.groups)
  | none =>
    match s.team? team with
    | some t =>
      match t.image with
      | some i => i.groups.find? fun g => g.gidx == gidx
      | none => none
    | none => none

/-- Groups of a core with their slots; slot 47, the walker's, is not one of a grid (R17). -/
def State.coreGroups (s : State) (core : Nat) : List (Nat × Group) :=
  (List.range 47).map fun k => (k, s.groupAt core k)

/-- Places that a group takes in the active set, and hardware slots that it fills (R44). -/
def Group.places (g : Group) : Nat := if g.width = 64 then 2 else 1

/-- A group of the team is HALTED or FROZEN (R252). Whether that still holds once the host has released the group's slot is not said: DESIGN
CHOICE, it holds until the team retires, as R251 has the group count as arrived (log entry 111). -/
def State.teamBroken (s : State) (team : Nat) : Bool :=
  (s.groups.any fun p => p.2.team == team && (p.2.st == .halted || p.2.st == .frozen))
    || (match s.team? team with
        | some t => t.gone.any fun p => p.2 == .halted || p.2 == .frozen
        | none => false)

/-- The queues of a group's team; a group with no team has none. -/
def State.queuesOf (s : State) (g : Group) : Store (List (List W32)) :=
  match s.teamOf g with
  | some t => t.q
  | none => []

/-- Rows of a queue that one naming or push moves (R59). -/
def rowsPer (width : Nat) : Nat := if width = 64 then 2 else 1

/-! ### Range locks of a command (R154) -/

/-- The entry of a lock, rounded outward to 128 bytes. -/
def LockReq.entry (l : LockReq) (ctx cmd : Nat) : RLock :=
  let lo := l.base / 128 * 128
  ⟨ctx, l.vault, lo, (l.base + l.len + 127) / 128 * 128 - lo, l.write, cmd⟩

/-- Every die's table has room for a command's locks. -/
def State.lockRoom (s : State) (l : List LockReq) : Bool :=
  l.all fun x => (s.dieAt x.die).locks.length + (l.filter fun (y : LockReq) => y.die == x.die).length ≤ 256

/-! ### Joins -/

/-- Every access that the group has issued has performed (R165, R167). -/
def Group.performed (g : Group) : Bool := g.inflight.all fun a => a.todo.isEmpty

/-! ### Handles (R179) -/

/-- What a handle names (Table 8-3): `concurrent` for a task of a concurrent grid, `lower` for a group of lower grid
order, and the status once it is complete. -/
inductive Handle where
  | bad
  | own
  | task (concurrent : Bool) (st : Option Nat)
  | engine (st : Option Nat)
  | group (lower : Bool) (st : Option Nat)
  deriving DecidableEq, Repr

/-- The status of a group of a grid by grid order. -/
def State.groupStatus (s : State) (gk : Nat) (x : Grid) (order : Nat) : Option Nat :=
  let of (st : GState) : Option Nat :=
    match st with
    | .exited => some stDone
    | .halted => some stFailed
    | .frozen => some stFailed
    | _ => none
  match s.team? (teamKey gk (order / 16)) with
  | some t =>
    match s.memberOf (teamKey gk (order / 16)) (order % 16) with
    | some g => of g.st
    | none => match t.gone.find? fun p => p.1 == order % 16 with | some p => of p.2 | none => none
  | none => if order / 16 < x.placed then some (if x.broken.contains order then stFailed else stDone) else none

/-- Groups of a team (Table 16-2). -/
def descGroups (d : BitVec 512) : Nat := bitsOf d 20 5 + bitsOf d 25 5

/-- Read a handle. No command has token 0. -/
def State.handle (s : State) (g : Group) (h : Word) : Handle :=
  let n := bitsOf h 0 62
  match bitsOf h 62 2 with
  | 0 =>
    if 2 ^ 20 ≤ n ∨ (s.ctxAt g.ctx).almRecords ≤ n then .bad
    else
      match s.record g.ctx n with
      | none => .task false none
      | some r =>
        .task (recKind r == 0 && recClass r == 0)
          (if recState r = rsDone then some stDone else if recState r = rsFailed then some stFailed else none)
  | 1 =>
    match g.tokDone.find? fun p => p.1 == n with
    | some p => .engine (some p.2)
    | none =>
      if n ≠ 0 && n < 2 ^ 21 && s.ecmds.any (fun c => c.team == g.team && c.gidx == g.gidx && c.tok == n) then .engine none
      else .bad
  | 2 =>
    match s.gridOf g, s.teamOf g with
    | some x, some t =>
      if recTeams x.record ≤ n / 16 ∨ descGroups x.desc ≤ n % 16 then .bad
      else if n = g.order then .own
      else .group (decide (n < g.order)) (s.groupStatus t.grid x n)
    | _, _ => .bad
  | _ => .bad

/-- Reading a task's handle reads its record: the translation is installed (R222). -/
def State.lookUp (s : State) (ctx : Nat) (h : Word) : State :=
  if bitsOf h 62 2 = 0 && bitsOf h 0 62 < (s.ctxAt ctx).almRecords then s.warm ctx (s.recordVa ctx (bitsOf h 0 62)) else s

def Handle.status : Handle → Option Nat
  | .task _ st => st
  | .engine st => st
  | .group _ st => st
  | _ => none

/-! ### Barriers and rendezvous -/

/-- The groups of a team that count as arrived: ended, halted, frozen, or gone (R251, R295, R414). -/
def State.endedIn (s : State) (team gidx : Nat) : Bool :=
  match s.memberOf team gidx with
  | some g => g.st == .exited || g.st == .halted || g.st == .frozen
  | none => true

/-- Every group of the team has arrived. -/
def State.allArrived (s : State) (key : Nat) (t : Team) (arrived : List Nat) : Bool :=
  (List.range t.ngroups).all fun i => arrived.contains i || s.endedIn key i

/-- The team's barrier, its phase advanced where every group has arrived (R295). -/
def State.barrierOf (s : State) (key : Nat) (t : Team) : Barrier :=
  if !t.bar.arrived.isEmpty && s.allArrived key t t.bar.arrived then ⟨t.bar.phase + 1, []⟩ else t.bar

/-- The resident groups of a team that arrived at REGROUP, ascending in group index, with their slots' keys and key registers.
An arrival is a group index × 1024 + a register. -/
def State.regroupers (s : State) (key : Nat) (arrived : List Nat) : List (Nat × Nat × Group) :=
  (List.range 16).flatMap fun i =>
    match arrived.find? fun a => a / 1024 == i, s.findGroup key i with
    | some a, some k => [(k, a % 1024, sget Group.init k s.groups)]
    | _, _ => []

/-- Nothing of a group is outstanding against its registers (R46): its queue is empty, its words have retired, its counters are zero. -/
def Group.quiet (g : Group) : Bool := g.idleLanes && g.waitingWords.isEmpty && g.inflight.isEmpty

/-- A group that waits at REGROUP can go on: its team is broken, or every group has arrived and is quiet (R46, R252). -/
def State.regroupReady (s : State) (g : Group) : Bool :=
  match s.teamOf g with
  | none => g.quiet
  | some t =>
    s.teamBroken g.team
      || (s.allArrived g.team t (t.regroup.arrived.map fun x => x / 1024)
          && (s.regroupers g.team t.regroup.arrived).all fun p => p.2.2.quiet)

/-! ### Matrix commands -/

/-- A matrix command of the group is outstanding in a batch up to `n`, and has not ended (R308). -/
def State.batchBusy (s : State) (core : Nat) (g : Group) (n : Nat) : Bool :=
  (s.coreAt core).mcmds.any fun m => m.kind != 3 && m.team == g.team && m.gidx == g.gidx && m.batch ≤ n && m.fault.isNone

/-- Commands of a core that are not complete; formed batches do not count toward the sixteen. -/
def State.mxOut (s : State) (core : Nat) : Nat := ((s.coreAt core).mcmds.filter fun m => m.kind != 3 && m.fault.isNone).length

/-! ### Register rows (R32, R192) and compaction (R36, R193) -/

/-- Rows of a core that are in use: intervals of first row and size. Slot 47 holds the rows from 3968 (R32). -/
def rowsOfGroups (l : List (Nat × Group)) : List (Nat × Nat) :=
  l.flatMap fun (p : Nat × Group) => (p.2.baseRows.map fun r => (r, 128)) ++ p.2.extRows.map fun r => (r, p.2.ext)

def State.rowsUsed (s : State) (core : Nat) : List (Nat × Nat) := rowsOfGroups (s.coreGroups core)

/-- The lowest free row aligned to a block's size (R192). -/
def lowestFree (used : List (Nat × Nat)) (size : Nat) : Option Nat :=
  ((List.range (3968 / size)).map fun i => i * size).find? fun r => used.all fun u => !overlap r size u.1 u.2

/-- Allocate `n` blocks of a size: their first rows. -/
def allocRows (used : List (Nat × Nat)) (size : Nat) : Nat → Option (List Nat)
  | 0 => some []
  | n + 1 =>
    match lowestFree used size with
    | none => none
    | some r => (allocRows ((r, size) :: used) size n).map fun l => r :: l

/-- Blocks that compaction moves: size, first row, slot, and whether it is an extended block and of which half. -/
structure RowBlock where
  size : Nat
  row : Nat
  slot : Nat
  ext : Bool
  half : Nat
  deriving DecidableEq, Repr

/-- A group that compaction does not move (R193). -/
def Group.pinned (g : Group) : Bool := g.st == .free || g.st == .loading || g.st == .halted || g.st == .frozen

def blocksOf (p : Nat × Group) : List RowBlock :=
  ((p.2.baseRows.zip (List.range 2)).map fun q => ⟨128, q.1, p.1, false, q.2⟩)
    ++ (p.2.extRows.zip (List.range 2)).map fun q => ⟨p.2.ext, q.1, p.1, true, q.2⟩

/-- Size descending, then first row ascending. -/
def blockOrder (l : List RowBlock) : List RowBlock :=
  (l.foldl (fun st b => sins ((512 - b.size) * 4096 + b.row) b st) ([] : Store RowBlock)).map Prod.snd

/-- Place blocks one after another, each at the lowest free row aligned to its size. -/
def placeBlocks (used : List (Nat × Nat)) : List RowBlock → List (RowBlock × Nat)
  | [] => []
  | b :: r =>
    let row := match lowestFree used b.size with | some x => x | none => b.row
    (b, row) :: placeBlocks ((row, b.size) :: used) r

/-- The moved rows of a group. -/
def movedRows (l : List (RowBlock × Nat)) (slot : Nat) (ext : Bool) : List Nat :=
  (l.filter fun p => p.1.slot == slot && p.1.ext == ext).foldl
    (fun m p => if p.1.half = 0 then p.2 :: m else m ++ [p.2]) []

/-- The groups of a core with the rows that compaction gives them; no value changes (R36). -/
def compacted (l : List (Nat × Group)) : List (Nat × Group) :=
  let fixed := (l.filter fun p => p.2.pinned).flatMap fun (p : Nat × Group) => (blocksOf p).map fun b => (b.row, b.size)
  let placed := placeBlocks fixed (blockOrder ((l.filter fun p => !p.2.pinned).flatMap blocksOf))
  l.map fun (p : Nat × Group) =>
    if p.2.pinned then p else (p.1, { p.2 with baseRows := movedRows placed p.1 false, extRows := movedRows placed p.1 true })

/-- Loads of a group that have not arrived keep compaction waiting (R368), and so does an assist in progress (R193). -/
def Group.loadsOut (g : Group) : Bool := g.inflight.any fun a => !a.arrived

/-- No group's loads and no assist keep compaction of a core waiting, and none of its teams is being saved (R193, R368). -/
def State.canCompact (s : State) (core : Nat) : Bool :=
  ((s.coreGroups core).all fun p => p.2.pinned || (!p.2.loadsOut && p.2.assistRec.isNone))
    && !(s.teams.any fun p => p.2.core == core && p.2.image.isNone && p.2.saving)

/-- A group finds `n` rows in each of its halves: as the file stands, or once it is compacted (R192). -/
def State.rowsFor (s : State) (core n places : Nat) : Bool :=
  (allocRows (s.rowsUsed core) n places).isSome
    || (s.canCompact core && (allocRows (rowsOfGroups (compacted (s.coreGroups core))) n places).isSome)

/-! ### What the scalar stream waits on -/

/-- A scalar atomic whose old value has not arrived stalls the scalar stream (R147). -/
def Group.awaitsAtomic (g : Group) : Bool :=
  g.inflight.any fun a => a.todo.any fun t => match t.act with | .satom _ _ _ _ _ => true | _ => false

/-- A register that waits for a load's data (R368). -/
def Access.writesReg (a : Access) (r : Nat) : Bool :=
  (a.writes.any fun p => p.1 / 64 == r)
    || a.todo.any fun t =>
      match t.act with
      | .load ty reg n => reg ≤ r && r < reg + n * (if ty.is64 then 2 else 1)
      | .rmw _ _ _ _ _ _ (some d) => d / 64 == r
      | _ => false

def Group.pending (g : Group) (r : Nat) : Bool := g.inflight.any fun a => !a.arrived && a.writesReg r

/-- An access that writes a register of the extended block is outstanding (R300). -/
def Group.extLoads (g : Group) : Bool := (List.range g.ext).any fun r => g.pending (128 + r)

/-- An access of the context through some pages is not complete: in flight in a group, or buffered in a commit window
(R225, R258). Engines, SDUEs and the matrix unit translate when they perform. -/
def State.throughPages (s : State) (ctx : Nat) (pages : List (Nat × Nat)) : Bool :=
  let hit (p : Nat) : Bool := pages.any fun q => q.1 ≤ p && p < q.1 + q.2
  (s.groups.any fun p => p.2.ctx == ctx && p.2.inflight.any fun a => !a.done && a.pages.any hit)
    || (s.teams.any fun p => (match s.grid? p.2.grid with | some x => x.ctx == ctx | none => false)
          && p.2.commit.any fun l => hit (l.addr / 512))
    || (s.grids.any fun p => p.2.ctx == ctx && p.2.sealed.any fun w => w.lines.any fun l => hit (l.addr / 512))

/-- Lane blocks that take places in the lane queue, the one that runs included (R19, R20). -/
def Group.blocks (g : Group) : Nat :=
  (g.lq.filter LqItem.isBlock).length + (if g.settle.run.isSome then 1 else 0)

/-- A queued switch of a function register. -/
def LqItem.isSwitch : LqItem → Bool
  | .fswitch _ _ _ => true
  | _ => false

/-- A miss of a requester is at the core's walker, or waits for it (R223). -/
def State.walking (s : State) (core : Nat) (r : Requester) : Bool :=
  (s.coreAt core).walk.any (fun x => x.who == r) || (s.coreAt core).missed.any fun x => x.who == r

/-- What a stalled scalar word needs has come. -/
def State.stallOver (s : State) (core : Nat) (g : Group) : Stall → Bool
  | .join => g.joined
  | .fence => g.joined && g.performed
  | .command => g.joined && g.performed && !g.lq.any LqItem.isSwitch
  | .held flat n w => s.mayPerform g g.inflight g.scalarSpot ⟨false, false⟩ flat n w
  | .miss r => !s.walking core r
  | .performed => g.performed
  | .queue => decide (g.blocks < 64)
  | .switch => !g.lq.any LqItem.isSwitch
  | .ext => !g.extLoads
  | .journal => decide ((s.dieAt (dieOf core)).journal.length < 65536)
  | .matrix => decide (s.mxOut core < 16)
  | .posts => decide ((s.dieAt (dieOf core)).posts.length < 1024)
  | .counter p => !g.full p
  | .locks l => s.lockRoom l

/-- What the scalar stream of a group waits on has resolved. -/
def State.resolved (s : State) (core : Nat) (g : Group) : Bool :=
  match g.sWait with
  | none => true
  | some (.path p n) => decide (g.count p ≤ n)
  | some (.batch n) =>
    !s.batchBusy core g n
  | some .barrier =>
    match s.teamOf g, g.barPhase with
    | some t, some ph => decide (ph < (s.barrierOf g.team t).phase)
    | _, _ => true
  | some .spop => !g.ret.isEmpty || g.joined
  | some (.handle h _) => (s.handle g h).status.isSome
  | some (.ticket n) => (g.tickets.find? fun t => t.1 == n && t.2.isNone).isNone
  | some (.rows n) => s.rowsFor core n g.places
  | some .sleep => false
  | some .lanes => g.idleLanes
  | some .regroup => s.regroupReady g
  | some (.stall r) => s.stallOver core g r
  | some (.inv pages) => !s.throughPages g.ctx pages

/-- The scalar stream cannot issue: a scalar atomic waits for its old value (R147), or its word waits on something. -/
def State.scalarStuck (s : State) (core : Nat) (g : Group) : Bool := g.awaitsAtomic || !s.resolved core g

/-! ### What the lane stream waits on -/

/-- A matrix command on an accumulator is not complete (R374). -/
def State.accBusy (s : State) (core acc : Nat) : Bool :=
  (s.coreAt core).mcmds.any fun m => m.acc == acc && m.fault.isNone

/-- What the lane stream waits on has come. -/
def State.laneOver (s : State) (core : Nat) (g : Group) : LaneWait → Bool
  | .nmfence => g.nmPending == 0
  | .queues l =>
    s.teamBroken g.team
      || l.all fun q => decide ((l.filter (· == q)).length * rowsPer g.width ≤ (sget [] q (s.queuesOf g)).length)
  | .data regs => !regs.any g.pending
  | .ret => decide (g.ret.length < 4)
  | .counter p => !g.full p
  | .opener => g.waitingWords.all fun w => w.left != 0
  | .acc n => !s.accBusy core n
  | .acquire => !g.acquiring
  | .performed => g.performed
  | .held o l => l.all fun x => s.mayPerform g g.inflight g.laneSpot o x.1 x.2.1 x.2.2
  | .miss r => !s.walking core r

/-- A queue of a group's team accepts some rows: it has room, or its team is broken (R12, R252). -/
def State.queueTakes (s : State) (g : Group) (q rows : Nat) : Bool :=
  s.teamBroken g.team || decide ((sget [] q (s.queuesOf g)).length + rows ≤ 8)

/-- The oldest word that waits for a consumer can go on, and the assist needs its group ACTIVE (R60, R104). -/
def State.assistReady (s : State) (g : Group) : Bool :=
  match g.waitingWords with
  | w :: _ => match w.assist with | some (q, n) => s.queueTakes g q n | none => false
  | [] => false

/-- The lane stream has a word or a queued effect, and nothing that it is known to wait on holds it (R14). -/
def State.laneReady (s : State) (core : Nat) (g : Group) : Bool :=
  (!g.idleLanes && (match g.lWait with | some w => s.laneOver core g w | none => true)) || s.assistReady g

/-- The waits of Table 1-3 that make a group WAITING once neither stream can issue; a stall is none of them. -/
def Wait.long : Wait → Bool
  | .stall _ => false
  | .inv _ => false
  | _ => true

/-- Neither stream of a group can issue, and one of them waits on a dependence of Table 1-3. -/
def State.blocked (s : State) (core : Nat) (g : Group) : Bool :=
  s.scalarStuck core g && !s.laneReady core g && (g.sWait.any Wait.long || (!g.joined && g.lWait == some .nmfence))

/-- An ACTIVE group that is blocked becomes WAITING (R14). -/
def State.settleWait (s : State) (core : Nat) (g : Group) : Group :=
  if g.st == .active && s.blocked core g then { g with st := .waiting } else g

/-- The scalar word waits; it has not issued. -/
def State.wait (s : State) (w : Wait) : Result :=
  .next (s.modG fun g => s.settleWait s.cur.core { g with sWait := some w })

/-- The scalar word stalls (R19, R148, R164, R301). -/
def State.stall (s : State) (r : Stall) : Result := s.wait (.stall r)

/-- The lane word waits; it has not issued. -/
def State.laneStall (s : State) (w : LaneWait) : State :=
  s.modG fun g => s.settleWait s.cur.core { g with lWait := some w }

/-- A join: it waits at issue until every lane word queued before has issued (R161, R278). -/
def State.join (s : State) (f : State → Result) : Result := if s.g.joined then f (s.modG Group.passJoin) else s.stall .join

/-- A join whose word also waits until the group's earlier accesses have performed (R164, R167). -/
def State.joinAll (s : State) (f : State → Result) : Result :=
  if s.g.joined then (if s.g.performed then f (s.modG Group.passJoin) else s.stall .fence) else s.stall .join

/-- A join of a command of the matrix unit or of an engine: every event of the group before it is before the command's, the switches of
its FLOADs among them (R167). -/
def State.joinCommand (s : State) (f : State → Result) : Result :=
  if s.g.joined then
    (if s.g.performed && !s.g.lq.any LqItem.isSwitch then f (s.modG Group.passJoin) else s.stall .command)
  else s.stall .join

/-- A group enters PENDING with a new age stamp (R194). -/
def Group.toPending (g : Group) (time cyc : Nat) : Group := { g with st := .pending, age := time, lastIssue := cyc }

end Sys2Proof.Machine
end

