-- ==== Sys2Proof/Machine/Operands.lean ====
section
/-! DEFINITION. Lane words: the registers a word names and its decode checks (R75), lookahead windows (R62, R63), source
operands (R39, R40, R56), role queues (R12, R13, R252), consumers (R59, R60) and retirement. -/

namespace Sys2Proof.Machine

/-! ### Registers that a word names -/

/-- Vector and mask registers that a word reads and writes, the first registers of its pairs, its look, and the vector
registers that its fields name without using (R34). `far` are the registers, and with 1024 added the namings of queues counted from 0,
of which a lane reads other lanes' elements alone (R352, R353). -/
structure Uses where
  rv : List Nat
  wv : List Nat
  rm : List Nat
  wm : List Nat
  even : List Nat
  look : Nat
  named : List Nat
  far : List Nat
  /-- It binds a function register at issue (R124). -/
  binds : Bool
  deriving DecidableEq, Repr

/-- The uses of a word that names no register. -/
def Uses.empty : Uses := ⟨[], [], [], [], [], 0, [], [], false⟩

/-- A source field's registers: special operands name none. -/
def srcRegs (pair : Bool) (r : VReg) : List Nat :=
  if r.toNat < 640 then (if pair then [r.toNat, r.toNat + 1] else [r.toNat]) else []

/-- A mask field's register; m0 is EM and names none (R328). -/
def maskRegs (m : Nat) : List Nat := if m = 0 then [] else [m]

/-- A destination's registers. -/
def dstRegs (pair : Bool) (r : VReg) : List Nat := if pair then [r.toNat, r.toNat + 1] else [r.toNat]

/-- The first registers that a pair makes even-aligned (R27). -/
def pairFirst (pair : Bool) (r : VReg) : List Nat := if pair && r.toNat < 640 then [r.toNat] else []

/-- The uses of a word with sources of its own type and one destination of another width. -/
def L3uses (w : L3) (pairD : Bool) (srcs : List (VReg × Bool)) (masks : List Nat) : Uses where
  rv := srcs.flatMap fun p => srcRegs p.2 p.1
  wv := if w.cmask.getLsbD 0 then dstRegs pairD w.vd else []
  rm := maskRegs w.mreg.toNat ++ masks.flatMap maskRegs
  wm := []
  even := (if w.cmask.getLsbD 0 then pairFirst pairD w.vd else []) ++ srcs.flatMap fun p => pairFirst p.2 p.1
  look := w.look.toNat
  named := dstRegs pairD w.vd
  far := []
  binds := false

/-- The uses of a word that writes a mask register. -/
def maskUses (w : L3) (srcs : List (VReg × Bool)) (masks : List Nat) : Uses :=
  { L3uses w false srcs masks with wv := [], wm := [w.vd.toNat], named := [], even := srcs.flatMap fun p => pairFirst p.2 p.1 }

/-! ### Decode checks that depend on the group (R75, order 2 to 7) -/

def meets (a b : List Nat) : Bool := a.any b.contains

/-- The word breaks an open window (R62). -/
def Group.breaks (g : Group) (u : Uses) : Bool :=
  g.windows.any fun w =>
    meets u.rv w.wv || meets u.rm w.wm || meets u.wv w.wv || meets u.wm w.wm || meets u.wv w.rv || meets u.wm w.rm

/-- The group's team holds the matrix unit of its core (R30). -/
def State.holdsMatrix (s : State) : Bool := (s.coreAt s.cur.core).holder == some s.g.team

/-- The first failing check. `reserved` is a field that the group's width does not allow. The second half of a pair is a register of the
file only up to 639 (R34): an odd 639 is MISALIGNED. A word that has issued before was
checked against the windows then open (R62). -/
def State.laneChecks (s : State) (u : Uses) (reserved matrix : Bool) : Option Cause :=
  let g := s.g
  if reserved then some .reservedField
  else if (u.rv ++ u.wv ++ u.named).any (fun r => g.alloc ≤ r && r < 640) then some .regOutOfBlock
  else if u.even.any (fun r => r % 2 == 1) then some .misaligned
  else if !s.cur.lane.counted && g.breaks u then some .lookahead
  else if matrix && !s.holdsMatrix then some .protection
  else none

/-! ### Active lanes -/

/-- The lanes in which the executing word acts (R28, R238): EM, its mask register, the replay mask, the width. -/
def State.active (s : State) (mreg : Nat) : Word :=
  let g := s.g
  s.cur.lane.em &&& (if mreg = 0 then BitVec.allOnes 64 else g.mreg mreg)
    &&& (match s.cur.lane.mask with | some m => m | none => BitVec.allOnes 64) &&& widthMask g.width

/-- A mask named as a source: m0 is EM (R328). -/
def State.maskSrc (s : State) (m : Nat) : Word :=
  if m = 0 then s.cur.lane.em &&& widthMask s.g.width else s.g.mreg m

/-- A decode trap or PROTECTION of a lane word: FAULTMASK holds every active lane (R233). -/
def State.laneReject (s : State) (c : Cause) (mreg : Nat) : Result :=
  if c = .protection then s.protection 0 0 0 else s.trapLane c none (s.active mreg) 0

/-! ### Issue, windows and the end of a word -/

/-- What a word waits on before it issues: data on its way to a register that it uses, a waiting word whose window has closed, or an
acquire before its binding of a function register (R60, R126, R368). -/
def State.issueWait (s : State) (u : Uses) : Option LaneWait :=
  let g := s.g
  if (u.rv ++ u.wv).any g.pending then some (.data (u.rv ++ u.wv))
  else if s.cur.src != .waiting && g.waitingWords.any fun w => w.left == 0 then some .opener
  else if u.binds && s.cur.lane.fn.isNone && g.acquiring then some .acquire
  else none

/-- A word waits to issue. -/
def State.mustWait (s : State) (u : Uses) : Bool := (s.issueWait u).isSome

/-- The lane stream stalls at its word. A word that has issued and waits for a consumer leaves the stream as it is. -/
def State.laneStalled (s : State) (w : LaneWait) : State := if s.cur.src = .waiting then s else s.laneStall w

/-- Count the word in the open windows and open its own (R62, R63). -/
def Group.count_ (g : Group) (u : Uses) : Group :=
  let old := (g.windows.map fun w => { w with left := w.left - 1 }).filter fun w => w.left != 0
  { g with
    windows := if u.look = 0 then old else old ++ [⟨u.look, u.wv, u.rv, u.wm, u.rm⟩]
    waitingWords := g.waitingWords.map fun w => { w with left := w.left - 1 } }

/-- The word leaves the place it executed from. -/
def Group.leave (g : Group) (src : LaneFrom) : Group :=
  match src with
  | .stream => { g with lpc := g.lpc + 12 }.settle
  | .again => { g with abandoned := g.abandoned.drop 1 }
  | .waiting => { g with waitingWords := g.waitingWords.drop 1 }

/-- The word has issued and retired: windows, stamps, and the next word. -/
def State.laneNext (s : State) (u : Uses) : State :=
  s.modG fun g =>
    { ((if s.cur.lane.counted then g else g.count_ u).leave s.cur.src).issue s.now with lWait := none }

/-! ### Role queues (R12, R13, R252) -/

/-- The queues that fields name, one entry for each naming (R39). -/
def queueFields (l : List VReg) : List Nat :=
  (l.filter fun (r : VReg) => 664 ≤ r.toNat && r.toNat ≤ 667).map fun (r : VReg) => r.toNat - 664

/-- What one naming of a queue gives: the elements of its row or rows, and INV where a broken team's queue is empty; none
where the pop must wait. -/
def popRow (q : Store (List (List W32))) (i n : Nat) (broken : Bool) : Option (Store (List (List W32)) × List W32 × Flags) :=
  let rows := sget [] i q
  if n ≤ rows.length then some (sset [] i (rows.drop n) q, (rows.take n).flatten, 0)
  else if broken then
    some (sset [] i [] q, rows.flatten ++ List.replicate (32 * (n - rows.length)) 0x7FC00000, Flags.inv)
  else none

/-- Pop for every field that names a queue, in field order (R13); the rows by field. -/
def popFields (n : Nat) (broken : Bool) :
    List VReg → Store (List (List W32)) → Option (Store (List (List W32)) × List (List W32) × Flags)
  | [], q => some (q, [], 0)
  | r :: rest, q =>
    if 664 ≤ r.toNat && r.toNat ≤ 667 then
      match popRow q (r.toNat - 664) n broken with
      | none => none
      | some (q1, row, f) =>
        match popFields n broken rest q1 with
        | none => none
        | some (q2, rows, f2) => some (q2, row :: rows, f ||| f2)
    else
      match popFields n broken rest q with
      | none => none
      | some (q2, rows, f2) => some (q2, [] :: rows, f2)

/-! ### Source operands -/

/-- What a lane word reads with: the group, the word's recorded state, the popped rows by field, the active lanes, the
launch's role split, and the step for free values. -/
structure Env where
  g : Group
  w : LaneWord
  rows : List (List W32)
  act : Word
  nprod : Nat
  deriving DecidableEq, Repr

/-- Lanes below the width, and the active lanes. -/
def Env.lanes (e : Env) : List Nat := List.range e.g.width
def Env.actives (e : Env) : List Nat := e.lanes.filter fun i => e.act.getLsbD i

/-- Lane i's raw value of source field number `f` (R39, R40): a register or pair, or a special operand. -/
def Env.src (e : Env) (f : Nat) (r : VReg) (pair : Bool) (i : Nat) : Word :=
  let n := r.toNat
  if n < 640 then
    if pair then (e.g.vreg (n + 1) i) ++ (e.g.vreg n i) else (e.g.vreg n i).setWidth 64
  else if n < 656 then
    let k := sget 0 (n - 640) e.w.k
    if pair then k else (k.setWidth 32).setWidth 64
  else if n = 656 then wd i
  else if n = 657 then wd e.g.width
  else if n = 658 then wd e.g.gidx
  else if n = 659 then wd (e.g.teamIndex % 2 ^ 32)
  else if n = 660 then (if e.g.gidx < e.nprod then 0 else 1)
  else if n ≤ 667 then (((e.rows.getD f []).getD i 0).setWidth 64)
  else if n = 668 then 0
  else if n = 669 then 0x3F800000
  else if n = 670 then 0xFF800000
  else 0x7FC00000

/-- FTZ, RND, NSAT, FBANK of the FMT in force for the word (Table 4-4). -/
def Env.ftz (e : Env) : Bool := e.w.fmt.getLsbD 8
def fmtRnd (f : Word) : Nat := bitsOf f 4 3
def fmtNsat (f : Word) : Bool := f.getLsbD 9

/-- Modifiers on a floating source: abs first, then neg; pairs of bits [neg, abs] (R56). -/
def modF (m : Nat) (v : FVal) : FVal :=
  let a := if m / 2 % 2 = 1 then v.abs else v
  if m % 2 = 1 then a.neg else a

/-- The modifier bits of source number k (Table 2-5). -/
def modOf (mods : BitVec 6) (k : Nat) : Nat := bitsOf mods (2 * k) 2

/-- rd of a floating source (R326): bits of the type, FTZ, then modifiers. A signalling NaN keeps its kind. -/
def Env.rdF (e : Env) (t : EType) (f : Nat) (r : VReg) (m i : Nat) : FVal :=
  modF m (readF t e.ftz ((e.src f r false i).toNat % 2 ^ EType.bits t))

/-- Two's-complement value of an n-bit number by the type's signedness. -/
def intOf (t : EType) (v : Nat) : Int :=
  let n := EType.bits t
  let x := v % 2 ^ n
  if EType.isSigned t && 2 ^ (n - 1) ≤ x then (x : Int) - (2 ^ n : Nat) else x

/-- Modifiers on an integer source wrap (R56); abs leaves a .z value (R338). -/
def modI (t : EType) (m : Nat) (x : Int) : Int :=
  let a := if m / 2 % 2 = 1 then (if EType.isSigned t then (x.natAbs : Int) else x) else x
  let b := if m % 2 = 1 then -a else a
  intOf t (b % (2 ^ EType.bits t : Nat)).toNat

/-- rd of an integer source. -/
def Env.rdI (e : Env) (t : EType) (f : Nat) (r : VReg) (m i : Nat) : Int :=
  modI t m (intOf t (e.src f r (EType.is64 t) i).toNat)

/-- rd of raw bits of a type. -/
def Env.rdB (e : Env) (t : EType) (f : Nat) (r : VReg) (i : Nat) : Nat :=
  (e.src f r (EType.is64 t) i).toNat % 2 ^ EType.bits t

/-! ### Results -/

/-- One lane's result: its value (the low half first), and whether the assist delivers it with which flags. -/
structure Elem where
  lane : Nat
  val : Word
  assist : Bool
  aflags : Flags
  deriving DecidableEq, Repr

/-- A result that needs no assist. -/
def Elem.plain (i : Nat) (v : Word) : Elem := ⟨i, v, false, 0⟩

/-- What executing a word comes to: a trap in some lanes, with flags already set (R117); function registers, by the core's key, that hold
an error (R245); lanes that read another lane's element with an error; or results. `regs` are writes of further registers (register, lane,
value, assist); `upd` is the effect on the group's other state. -/
inductive LaneDo where
  | trap (c : Cause) (mask : Word) (flags : Flags)
  | corrupt (fns : List Nat)
  | hurt (mask : Word)
  | out (elems : List Elem) (regs : List (Nat × Elem)) (masks : List (Nat × Word)) (flags : Flags) (upd : Group → Group)

/-- Results with flags only. -/
def LaneDo.elems (l : List (Elem × Flags)) : LaneDo := .out (l.map Prod.fst) [] [] (Flags.join (l.map Prod.snd)) id

/-- One write of a mask register in the active lanes (R328). -/
def LaneDo.mask (d : Nat) (old act new : Word) (f : Flags) : LaneDo := .out [] [] [(d, (old &&& ~~~act) ||| (new &&& act))] f id

/-- An integer result of a type, extended into its place (R327). -/
def placeI (t : EType) (x : Int) : Word :=
  if EType.is64 t then BitVec.ofInt 64 x
  else if EType.isSigned t then (BitVec.ofInt 32 (intOf t (x % (2 ^ EType.bits t : Nat)).toNat)).setWidth 64
  else wd (x % (2 ^ EType.bits t : Nat)).toNat

/-- Element writes of a destination. -/
def destWrites (vd : Nat) (pair : Bool) (l : List Elem) : List (Nat × W32) :=
  l.flatMap fun (x : Elem) =>
    (64 * vd + x.lane, x.val.setWidth 32) :: (if pair then [(64 * (vd + 1) + x.lane, (x.val >>> 32).setWidth 32)] else [])

/-- Write elements, key register × 64 + lane. -/
def Group.writeElems (g : Group) (l : List (Nat × W32)) : Group :=
  { g with v := l.foldl (fun v p => sset 0 p.1 p.2 v) g.v, badV := g.badV.filter fun k => !l.any fun p => p.1 == k }

/-- The rows that a result makes for a queue: lanes 0 to 31, then 32 to 63; a lane that supplies nothing reads zero (R59). -/
def queueRows (width : Nat) (l : List Elem) : List (List W32) :=
  (List.range (rowsPer width)).map fun h => (List.range 32).map fun i =>
    match l.find? fun x => x.lane == 32 * h + i with
    | some x => x.val.setWidth 32
    | none => 0

/-- The elements that a result writes to an A row buffer, by key buffer × 256 + 32 × row + lane (R59). -/
def arowWrites (route : BitVec 6) (l : List Elem) : List (Nat × W32) :=
  l.map fun x => (bitsOf route 5 1 * 256 + 32 * bitsOf route 2 3 + x.lane, x.val.setWidth 32)

/-- Where results go (R59): register file, A row buffer, role queue. -/
structure Consumer where
  vd : Nat
  pair : Bool
  cmask : BitVec 4
  route : BitVec 6
  deriving DecidableEq, Repr

def L3consumer (w : L3) (pair : Bool) : Consumer := ⟨w.vd.toNat, pair, w.cmask, w.route⟩

/-- Push rows on a queue: none where the push must wait; a broken team's full queue discards (R12, R252). -/
def pushRows (q : Store (List (List W32))) (i : Nat) (rows : List (List W32)) (broken : Bool) : Option (Store (List (List W32))) :=
  let old := sget [] i q
  if old.length + rows.length ≤ 8 then some (sset [] i (old ++ rows) q)
  else if broken then some q
  else none

/-- An A row buffer that a matrix command of the team reads keeps a write waiting (R61). A step of an MLOOP is atomic
here, so the sequencer is never met inside one (log entry 9). -/
def State.arowBusy (_s : State) (_buffer : Nat) : Bool := false

/-- Write elements of the A row buffers, each with a fresh code (R245). -/
def Matrix.setArow (m : Matrix) (l : List (Nat × W32)) : Matrix :=
  { m with arow := l.foldl (fun a p => sset 0 p.1 p.2 a) m.arow, bad := m.bad.filter fun k => !l.any fun p => p.1 == k }

/-- Write elements into the core's A row buffers. -/
def State.writeArow (s : State) (l : List (Nat × W32)) : State :=
  let c := s.coreAt s.cur.core
  s.setCore s.cur.core { c with mx := c.mx.setArow l }

/-- The queues of the executing group's team. -/
def State.queues (s : State) : Store (List (List W32)) := s.queuesOf s.g

/-- Set the queues of the group's team. -/
def State.setQueues (s : State) (q : Store (List (List W32))) : State :=
  match s.teamOf s.g with
  | some t => s.setTeam s.g.team { t with q := q }
  | none => s

/-- Errors of the group's role queues that the pops of some fields meet: the naming, and the lane in its rows (R245). -/
def State.popErrors (s : State) (fields : List VReg) : List (Nat × Nat) :=
  match s.teamOf s.g with
  | none => []
  | some t =>
    let n := rowsPer s.g.width
    let l := queueFields fields
    (l.zipIdx.flatMap fun q =>
      let before := ((l.take q.2).filter fun i => i == q.1).length * n
      t.qbad.filterMap fun x => if x.1 == q.1 && before ≤ x.2.1 && x.2.1 < before + n then some (q.2, 32 * (x.2.1 - before) + x.2.2) else none)

/-- What field `f` names of which a lane reads other lanes' elements: its registers but for those that the word also reads in the lane
itself, and its naming of a queue. -/
def farOf (fields : List VReg) (pair : Bool) (own : List Nat) (f : Nat) : List Nat :=
  let r := fields.getD f 0
  ((srcRegs pair r).filter fun x => !own.contains x)
    ++ (if (queueFields [r]).isEmpty then [] else [1024 + (queueFields (fields.take f)).length])

/-- The rows that the fields name leave their queues, with their errors. -/
def State.popBad (s : State) (fields : List VReg) : State :=
  match queueFields fields, s.teamOf s.g with
  | _ :: _, some t =>
    let n (q : Nat) : Nat := ((queueFields fields).filter fun i => i == q).length * rowsPer s.g.width
    s.setTeam s.g.team { t with qbad := (t.qbad.filter fun x => n x.1 ≤ x.2.1).map fun x => (x.1, x.2.1 - n x.1, x.2.2) }
  | _, _ => s

/-- Lanes in which the word reads an element of their own that holds an uncorrectable error (R245, Table 10-1). -/
def State.badLanes (s : State) (u : Uses) (fields : List VReg) (mreg : Nat) : Word :=
  let act := s.active mreg
  if s.g.badV.isEmpty && (s.popErrors fields).isEmpty then 0
  else
    maskOf ((lanesOf act).filter fun i =>
      u.rv.any (fun r => !u.far.contains r && s.g.badV.contains (64 * r + i))
        || (s.popErrors fields).any fun x => !u.far.contains (1024 + x.1) && x.2 == i)

/-- An element of source field number `f`, read by any lane, holds an uncorrectable error. -/
def State.elemBad (s : State) (fields : List VReg) (f : Nat) (pair : Bool) (lane : Nat) : Bool :=
  let r := fields.getD f 0
  decide (lane < 64) && ((srcRegs pair r).any (fun x => s.g.badV.contains (64 * x + lane))
    || (!(queueFields [r]).isEmpty && (s.popErrors fields).contains ((queueFields (fields.take f)).length, lane)))

/-- Deliver results to every consumer at once (R60), or answer none where a queue is full. Lanes that the assist delivers
are held for it, with every row that such a lane is part of (R104). -/
def State.deliver (s : State) (c : Consumer) (q : Store (List (List W32))) (broken : Bool) (elems : List Elem)
    (regs : List (Nat × Elem)) (masks : List (Nat × Word)) (flags : Flags) (upd : Group → Group) : Option State :=
  let toReg := c.cmask.getLsbD 0
  let toRow := c.cmask.getLsbD 1
  let toQ := c.cmask.getLsbD 2
  let now := elems.filter fun x => !x.assist
  let late := elems.filter fun x => x.assist
  let qi := bitsOf c.route 0 2
  let rows := queueRows s.g.width elems
  match if toQ then pushRows q qi rows broken else some q with
  | none => none
  | some q1 =>
    let assisted := !late.isEmpty || regs.any fun r => r.2.assist
    let s1 := s.setQueues (if toQ && !late.isEmpty then q else q1)
    let s2 := if toRow then s1.writeArow (arowWrites c.route now) else s1
    let regW (l : List Elem) := if toReg then destWrites c.vd c.pair l else []
    let regs2 (b : Bool) := (regs.filter fun r => r.2.assist == b).flatMap fun r => destWrites r.1 false [r.2]
    some (s2.modG fun g =>
      let g1 := (upd (masks.foldl (fun g m => g.setM m.1 m.2) (g.writeElems (regW now ++ regs2 false)))).raise flags
      if assisted then
        { g1 with
          st := .parked
          assistRec := some ⟨regW late ++ regs2 true, if toQ && !late.isEmpty then [(qi, rows.flatten)] else [],
            if toRow then arowWrites c.route late else [],
            (late ++ (regs.map Prod.snd).filter fun x => x.assist).any fun x => x.aflags != 0⟩ }
      else g1)

/-- Producer groups of the launch (Table 16-2). -/
def descNprod (d : BitVec 512) : Nat := bitsOf d 20 5
def State.nprodOf (s : State) : Nat :=
  match s.gridOf s.g with
  | some x => descNprod x.desc
  | none => 0

/-- The core's key of register 0 of the bank that a word's FMT names (R29). -/
def State.fnBase (s : State) : Nat := (s.g.ctx * 2 + if s.cur.lane.fmt.getLsbD 12 then 1 else 0) * 16

/-- The function registers of the bank that a word's FMT names, as the core holds them (R29, R124). -/
def State.boundFn (s : State) : Store (BitVec 8192) :=
  ((s.coreAt s.cur.core).fn.filter fun p => s.fnBase ≤ p.1 && p.1 < s.fnBase + 16).map fun p => (p.1 - s.fnBase, p.2)

/-- Function registers that held an error become empty (R245). -/
def State.emptyFn (s : State) (fns : List Nat) : State :=
  let c := s.coreAt s.cur.core
  s.setCore s.cur.core { c with fn := c.fn.filter fun p => !fns.contains p.1, fnBad := c.fnBad.filter fun k => !fns.contains k }

/-- Words of the executing word's lookahead window that have not issued: its own where it issues first (R62). -/
def State.windowLeft (s : State) (u : Uses) : Nat := if s.cur.lane.counted then s.cur.lane.left else u.look

/-- The group as a word reads it that issues again: with the counters that it drew from when it issued (R202). -/
def Group.withDraws (g : Group) (w : LaneWord) : Group :=
  match w.rng with
  | some d => { g with rngkey := d.key, draw := d.draw, sdraw := d.sdraw }
  | none => g

/-- A word's effect on the group's other state; one that issues again has moved the counters already (R100, R202). -/
def LaneWord.upd (w : LaneWord) (f : Group → Group) (g : Group) : Group :=
  match w.rng with
  | some _ => { f g with draw := g.draw, sdraw := g.sdraw }
  | none => f g

/-- The counters with which the executing word issued. -/
def State.drawsOf (s : State) : Draws :=
  match s.cur.lane.rng with
  | some d => d
  | none => ⟨s.g.rngkey, s.g.draw, s.g.sdraw⟩

/-- The word has issued and waits for its consumer outside the lane stream, bound as it issued: its function registers and its draws
(R60, R62, R124, R202). Words of its lookahead window go on meanwhile, also where they pop or push a queue that it names itself: the
rows that it pops are taken at its delivery (DESIGN CHOICE, log entry 104). -/
def State.setAside (s : State) (u : Uses) (assist : Option (Nat × Nat)) (upd : Group → Group) : State :=
  let w := { s.cur.lane with
    left := s.windowLeft u
    counted := true
    fn := some (match s.cur.lane.fn with | some b => b | none => s.boundFn)
    assist := assist
    rng := some s.drawsOf }
  let drawn := s.cur.lane.upd upd s.g
  (s.laneNext u).modG fun g => { g with waitingWords := g.waitingWords ++ [w], draw := drawn.draw, sdraw := drawn.sdraw }

/-- Some lanes of a result are the assist's. -/
def assisted (elems : List Elem) (regs : List (Nat × Elem)) : Bool := elems.any (·.assist) || regs.any fun r => r.2.assist

/-- A word whose consumer cannot accept its result has issued all the same (R60, R202). It leaves the stream free while its lookahead
window lasts (R62); then the stream stalls until it has retired (R12). -/
def State.heldBack (s : State) (u : Uses) (c : Consumer) (assist : Bool) (upd : Group → Group) : State :=
  if s.cur.src = .waiting then s
  else s.setAside u (if assist then some (bitsOf c.route 0 2, rowsPer s.g.width) else none) upd

/-- Executing one lane word: the decode checks, the waits, the pops of its fields, its effect, delivery and the next word.
The assist takes only a group that is ACTIVE (Table 1-3). -/
def runLane (u : Uses) (mreg : Nat) (reserved : Bool) (c : Consumer) (fields : List VReg) (f : Env → LaneDo) (s : State) : Result :=
  let matrix := c.cmask.getLsbD 1 || c.cmask.getLsbD 3
  match s.laneChecks u (reserved || (c.cmask.getLsbD 1 && s.g.width == 64 && bitsOf c.route 2 3 == 7)) matrix with
  | some e => s.laneReject e mreg
  | none =>
    match s.issueWait u with
    | some w => .next (s.laneStalled w)
    | none =>
      let broken := s.teamBroken s.g.team
      match popFields (rowsPer s.g.width) broken fields s.queues with
      | none => .next (s.laneStalled (.queues (queueFields fields)))
      | some (q1, rows, pf) =>
        if s.badLanes u fields mreg ≠ 0 then .next (s.haltLane (s.badAt .uncorrectable (s.badLanes u fields mreg)))
        else
        match f ⟨s.g.withDraws s.cur.lane, s.cur.lane, rows, s.active mreg, s.nprodOf⟩ with
        | .trap e m fl => (s.modG fun g => g.raise fl).trapLane e none m 0
        | .corrupt fns => .next ((s.emptyFn fns).haltLane (s.badAt .uncorrectable (s.active mreg)))
        | .hurt m => .next (s.haltLane (s.badAt .uncorrectable m))
        | .out elems regs masks flags upd =>
          match if (c.cmask.getLsbD 1 && s.arowBusy (bitsOf c.route 5 1)) || (assisted elems regs && s.g.st != .active) then none
                else (s.popBad fields).deliver c q1 broken elems regs masks (flags ||| pf) (s.cur.lane.upd upd) with
          | some s1 => .next (s1.laneNext u)
          | none => .next (s.heldBack u c (assisted elems regs) upd)

end Sys2Proof.Machine
end

