-- ==== Sys2Proof/Machine/LaneNum.lean ====
section
/-! DEFINITION. What the lane arithmetic shares: the destination stage of arithmetic and of conversions (R326, R98), the
draws of stochastic rounding (R100), and the run of a word over its active lanes. -/

namespace Sys2Proof.Machine

/-! ### Stochastic rounding (R100) -/

/-- The launch seed of the executing group (Table 8-2). -/
def State.seed (s : State) : W32 :=
  match s.gridOf s.g with
  | some x => BitVec.ofNat 32 (recSeed x.record)
  | none => 0

/-- The draw of a lane's `j`-th rounding, counted from the group's `sdraw` (R100). -/
def stoDraw (key : Word) (seed : W32) (order sdraw lane j : Nat) : Nat :=
  (philox key seed (BitVec.ofNat 32 order) (BitVec.ofNat 32 (2 ^ 31 + (sdraw + j / 4) % 2 ^ 31)) (BitVec.ofNat 32 lane) (j % 4)).toNat

/-- The rounding mode FMT.RND of a conversion, with its draw where it is stochastic (R98, R99). -/
def convRnd (fmt : Word) (draw : Nat) : Rnd :=
  match fmtRnd fmt with
  | 0 => .rne
  | 1 => .rtz
  | 2 => .rdn
  | 3 => .rup
  | _ => .sto draw

/-- Rounding a value to a format drops bits: only then does a stochastic rounding take a draw (R99). -/
def inexactF (t : EType) (v : FVal) (dscale : Int) : Bool :=
  match v with
  | .num s m e =>
    let f := EType.format t
    m != 0 && (roundAt .rtz s m (e + dscale) (max (log2Of m (e + dscale) - f.man) (1 - (f.bias : Int) - f.man))).2
  | _ => false

/-- Rounding a value to an integer drops bits. -/
def inexactI (v : FVal) : Bool :=
  match v with
  | .num s m e => (roundAt .rtz s m e 0).2
  | _ => false

/-- The word rounds stochastically in some lane: sdraw advances by `n` (R100). -/
def Group.drew (g : Group) (n : Nat) : Group := { g with sdraw := (g.sdraw + n) % 2 ^ 31 }

/-- A result of a lane, its flags, and whether rounding it dropped bits. -/
abbrev Conv := Elem × Flags × Bool

/-- Results of a conversion: sdraw advances where the mode is stochastic and some lane took a draw. -/
def LaneDo.conv (e : Env) (l : List Conv) : LaneDo :=
  .out (l.map fun (p : Conv) => p.1) [] [] (Flags.join (l.map fun (p : Conv) => p.2.1))
    fun g => if fmtRnd e.w.fmt == 4 && l.any (fun (p : Conv) => p.2.2) then g.drew 1 else g

/-! ### The destination stage -/

/-- A floating result in a lane: a result that the assist delivers brings its flags with it (R104). -/
def fElem (i : Nat) (r : FRes) (f : Flags) : Elem × Flags :=
  if r.assist then (⟨i, wd r.bits, true, r.flags⟩, f) else (⟨i, wd r.bits, false, 0⟩, f ||| r.flags)

/-- The destination stage of arithmetic: RNE, the word's scale and clamp (R326, R98). -/
def arithFin (w : L3) (e : Env) : Fin := ⟨.rne, none, w.dscale.toInt, w.clamp.toNat, e.ftz⟩

/-- The destination stage of a conversion: FMT.RND and FMT.NSAT (R98, R101). -/
def convFin (w : L3) (e : Env) (seed : W32) (lane j : Nat) : Fin :=
  ⟨convRnd e.w.fmt (if fmtRnd e.w.fmt = 4 then stoDraw e.g.rngkey seed e.g.order e.g.sdraw lane j else 0),
   some (fmtNsat e.w.fmt), w.dscale.toInt, w.clamp.toNat, e.ftz⟩

/-- A converted value in a lane: its `j`-th rounding. -/
def convElem (w : L3) (e : Env) (seed : W32) (t : EType) (i j : Nat) (v : FVal) (f : Flags) : Conv :=
  let r := fElem i (finish t (convFin w e seed i j) v) f
  (r.1, r.2, inexactF t v w.dscale.toInt)

/-! ### Running a word over its lanes -/

/-- A word whose sources and destination have the width of its type: sources by field, and source masks. -/
def laneWord (w : L3) (pair : Bool) (srcs : List VReg) (masks : List Nat) (f : Env → LaneDo) (s : State) : Result :=
  runLane (L3uses w pair (srcs.map fun r => (r, pair)) masks) w.mreg.toNat false (L3consumer w pair) srcs f s

/-- A mask named as a source: m0 is EM (R328). -/
def Env.maskSrc (e : Env) (m : Nat) : Word := if m = 0 then e.w.em &&& widthMask e.g.width else e.g.mreg m

/-- A word that writes the bit of each active lane in the mask that vd names (R328). -/
def laneMask (w : L3) (pair : Bool) (srcs : List VReg) (f : Env → List (Nat × Bool × Flags)) (s : State) : Result :=
  runLane (maskUses w (srcs.map fun r => (r, pair)) []) w.mreg.toNat false (L3consumer w false) srcs
    (fun e =>
      let l := f e
      .mask w.vd.toNat (e.g.mreg w.vd.toNat) e.act (maskOf ((l.filter fun (p : Nat × Bool × Flags) => p.2.1).map Prod.fst))
        (Flags.join (l.map fun (p : Nat × Bool × Flags) => p.2.2))) s

end Sys2Proof.Machine
end

