-- ==== Sys2Proof/Machine/LaneConv.lean ====
section
/-! DEFINITION. Conversions and block quantisation (R344 to R347, Table 4-6). -/

namespace Sys2Proof.Machine

/-- An infinity converted to its own format, which holds it: it keeps its sign, whatever NSAT (Table 4-6, first row). -/
def sameInf (w : L3) (i : Nat) (v : FVal) : Conv :=
  (Elem.plain i (wd (finish w.ty { Fin.rne with clamp := w.clamp.toNat } v).bits), 0, false)

/-- CVT from a floating type (Table 2-7). -/
def cvtFromFloat (w : L3) (e : Env) (seed : W32) (i : Nat) : Conv :=
  let v := e.rdF w.srcType 0 w.va (modOf w.mods 0) i
  if w.ty.isFloat && w.srcType == w.ty && v.isInf then sameInf w i v
  else if w.ty.isFloat then convElem w e seed w.ty i 0 v (nanFlags [v])
  else
    let r := toInteger w.ty (convFin w e seed i 0).rnd v
    (Elem.plain i (placeI w.ty r.1), r.2, inexactI v)

/-- CVT from an integer type. -/
def cvtFromInt (w : L3) (e : Env) (seed : W32) (i : Nat) : Conv :=
  let n := e.rdI w.srcType 0 w.va (modOf w.mods 0) i
  if w.ty.isFloat then convElem w e seed w.ty i 0 (FVal.ofInt n) 0
  else (Elem.plain i (placeI w.ty (if w.clamp = 3 then saturate w.ty n else n)), 0, false)

/-- CVT (R344, Table 4-6). -/
def execCvt (w : L3) (s : State) : Result :=
  runLane (L3uses w w.ty.is64 [(w.va, w.srcType.is64)] []) w.mreg.toNat false (L3consumer w w.ty.is64) [w.va]
    (fun e => .conv e (e.actives.map fun i =>
      if w.srcType.isFloat then cvtFromFloat w e s.seed i else cvtFromInt w e s.seed i)) s

/-! ### Blocks -/

/-- A quantised block (R345): codes, scale, special, flags, and whether some rounding took a draw. -/
structure QBlock where
  codes : List Nat
  scale : Nat
  special : Nat
  flags : Flags
  drew : Bool
  deriving DecidableEq, Repr

/-- The exponent of the top binade of an element format (R345). -/
def elemMax (t : EType) : Int := if t = .e4m3 then 8 else if t = .e5m2 then 15 else 2

/-- The lowest index whose magnitude is the largest, of the non-zero values. -/
def outlier (vals : List FVal) : Option Nat :=
  (vals.zipIdx.foldl (fun (b : Option (Nat × FVal)) p =>
    if p.1.isZero then b
    else match b with
      | none => some (p.2, p.1.abs)
      | some x => if cmpVal p.1.abs x.2 = 1 then some (p.2, p.1.abs) else b) none).map Prod.fst

/-- The block's scale for a largest magnitude. -/
def blockScale (t : EType) (amax : FVal) : Nat :=
  match amax with
  | .num _ m e => if m = 0 then 0x7F else (max 0 (min 254 (log2Of m e - elemMax t + 127))).toNat
  | _ => 0x7F

/-- Quantise a block of values, each element rounded by its own mode (R345, R101). -/
def quantBlock (t : EType) (x : Bool) (vals : List FVal) (rnd : Nat → Rnd) : QBlock :=
  if vals.any FVal.isNan then
    ⟨vals.map fun _ => 0, 0xFF, 0, Flags.inv ||| nanFlags vals, false⟩
  else if vals.any FVal.isInf then ⟨vals.map fun _ => 0, 0xFF, 0, Flags.ovf, false⟩
  else
    let o := if x then outlier vals else none
    let amax := vals.zipIdx.foldl (fun a p => if o ≠ some p.2 && cmpVal p.1.abs a = 1 then p.1.abs else a) (FVal.zero false)
    let sc := blockScale t amax
    let up : Int := 127 - sc
    let fin (j : Nat) : Fin := ⟨rnd j, some true, 0, 0, false⟩
    let elem (p : FVal × Nat) : Nat × Flags × Bool :=
      if o = some p.2 then
        let r := finish .e4m3 (fin p.2) (p.1.scale up)
        (r.bits, r.flags, inexactF .e4m3 (p.1.scale up) 0)
      else
        let r := finish t (fin p.2) (p.1.scale up)
        (if x && r.bits == 8 then 0 else r.bits, r.flags &&& ~~~Flags.ovf, inexactF t (p.1.scale up) 0)
    let l := vals.zipIdx.map elem
    ⟨l.zipIdx.map fun q => if o = some q.2 then 8 else q.1.1, sc,
      match o with | some j => ((l.map Prod.fst).getD j 0) | none => 0,
      Flags.join (l.map fun q => q.2.1), l.any fun q => q.2.2⟩

/-- QBLK (R345): codes to vd, side entries to vd + 1. -/
def execQblk (w : L3) (s : State) : Result :=
  runLane
    { L3uses w true [(w.va, false)] [] with wv := [w.vd.toNat, w.vd.toNat + 1], even := [w.vd.toNat] }
    w.mreg.toNat false (L3consumer w false) [w.va]
    (fun e =>
      let block (h : Nat) : QBlock :=
        quantBlock w.ty (w.aux.getLsbD 4)
          ((List.range 32).map fun j =>
            if e.actives.contains (32 * h + j) then e.rdF w.srcType 0 w.va (modOf w.mods 0) (32 * h + j) else FVal.zero false)
          fun j => (convFin w e s.seed (32 * h + j) 0).rnd
      let bs := (List.range (if e.g.width = 64 then 2 else 1)).map block
      let at_ (i : Nat) : QBlock := bs.getD (i / 32) ⟨[], 0, 0, 0, false⟩
      .out (e.actives.map fun i => Elem.plain i (wd ((at_ i).codes.getD (i % 32) 0)))
        (e.actives.map fun i => (w.vd.toNat + 1, Elem.plain i (wd ((at_ i).scale + (at_ i).special * 256))))
        [] (Flags.join (bs.map fun (b : QBlock) => b.flags))
        fun g => if fmtRnd e.w.fmt == 4 && bs.any (fun (b : QBlock) => b.drew) then g.drew 1 else g) s

/-- The value of an element code with its side entry (R94, R95, R346). -/
def mxValue (t : EType) (x : Bool) (code side : Nat) : FVal :=
  let v := if x && code % 16 == 8 then decodeF .e4m3 (side / 256 % 256) else decodeF t (code % 2 ^ t.bits)
  if side % 256 = 255 then .qnan else v.scale ((side % 256 : Nat) - 127)

/-- DQBLK (R346): a scale of 0xFF gives a quiet NaN and no flag. -/
def execDqblk (w : L3) (s : State) : Result :=
  laneWord w false [w.va, w.vb] []
    (fun e => .conv e (e.actives.map fun i =>
      let v := mxValue w.srcType (w.aux.getLsbD 4) (e.src 0 w.va false i).toNat (e.src 1 w.vb false i).toNat
      convElem w e s.seed w.ty i 0 v (nanFlags [v]))) s

/-- FKEY's map on `n` bits, and back (R347). -/
def fkeyBits (n x : Nat) : Nat := if 2 ^ (n - 1) ≤ x then 2 ^ n - 1 - x else x + 2 ^ (n - 1)
def funkeyBits (n k : Nat) : Nat := if 2 ^ (n - 1) ≤ k then k - 2 ^ (n - 1) else 2 ^ n - 1 - k

/-- FKEY (R347). -/
def execFkey (w : L3) (s : State) : Result :=
  laneWord w false [w.va] []
    (fun e => .elems (e.actives.map fun i => (Elem.plain i (wd (fkeyBits w.ty.bits (e.rdB w.ty 0 w.va i))), 0))) s

/-- FUNKEY (R347). -/
def execFunkey (w : L3) (s : State) : Result :=
  laneWord w false [w.va] []
    (fun e => .elems (e.actives.map fun i => (Elem.plain i (wd (funkeyBits w.ty.bits (e.rdB w.ty 0 w.va i))), 0))) s

end Sys2Proof.Machine
end

