-- ==== Sys2Proof/Machine/Fetch.lean ====
section
/-! DEFINITION. Instruction fetch in the three streams (R18, R235, R378). A word that a fetch finds on a tier page is read
directly (log entry 11). -/

namespace Sys2Proof.Machine

/-- What a fetch finds: the word's bits, a fault with its first failing byte, PROTECTION, bad data, a busy walker, or a row that an SDUE
holds (R386). -/
inductive Fetched where
  | word (w : Nat)
  | fault (kind level : Nat) (va : Nat)
  | protect (va pa : Nat)
  | bad (c : Cause) (va pa : Nat)
  | busy
  | held (flat n : Nat)
  deriving DecidableEq, Repr

/-- Read the rest of a word, `n` bytes from `va`, each piece through its own page. -/
def State.fetchPart (s : State) (w : Who) (kind va n : Nat) : State × Fetched :=
  match s.translate w kind va with
  | (s1, .busy) => (s1, .busy)
  | (s1, .fault k l) => (s1, .fault k l va)
  | (s1, .protect pa) => (s1, .protect va pa)
  | (s1, .ok flat loc) =>
    if loc = 3 && Config.hostRefuses s.tick then (s1, .protect va flat)
    else if s1.heldFor flat n then (s1, .held flat n)
    else
      match s1.checkRead flat n with
      | (s2, some c) => (s2, .bad c (va + (s1.firstBad flat n - flat)) (s1.firstBad flat n))
      | (s2, none) => (s2, .word (s2.seenN flat n))

/-- Fetch an `n`-byte word, which lies in one page or straddles two (R235). -/
def State.fetchWord (s : State) (w : Who) (kind va n : Nat) : State × Fetched :=
  let k := min n (65536 - va % 65536)
  if k = n then s.fetchPart w kind va n
  else
    match s.fetchPart w kind va k with
    | (s1, .word lo) =>
      match s1.fetchPart w kind (va + k) (n - k) with
      | (s2, .word hi) => (s2, .word (lo + hi * 2 ^ (8 * k)))
      | r => r
    | r => r

/-- The stream that executes as a requester. A program is served by its launching core's walker, or for a record by core 0
of the SDUE's die (R379). -/
def State.progWho (s : State) (p : NmProg) : Who :=
  let core :=
    match s.ecmds.find? fun c => c.id == p.cmd with
    | some c => if c.recIndex.isSome then 256 * (s.cur.stack / 4) else c.core
    | none => 256 * (s.cur.stack / 4)
  ⟨.command p.cmd, core, p.ctx, true⟩

def State.streamWho (s : State) : Who :=
  match s.cur.stream with
  | .lane => ⟨.lane s.cur.core s.cur.slot, s.cur.core, s.g.ctx, s.g.mode == .user⟩
  | _ => ⟨.scalar s.cur.core s.cur.slot, s.cur.core, s.g.ctx, s.g.mode == .user⟩

/-- The program of the SDUE that executes. -/
def State.prog? (s : State) : Option NmProg := lookupKey s.cur.sdue (s.stackAt s.cur.stack).sdue

/-- The words of the lane section in force (Table 16-2); none for a handler, whose section has no declared end. -/
def State.laneEnd (s : State) : Option (Nat × Nat) :=
  if s.g.mode = .supervisor then none
  else
    match s.gridOf s.g with
    | some x => some (bitsOf x.desc 128 64, 12 * bitsOf x.desc 192 32)
    | none => none

/-- A lane word past the end of a kernel's lane section is a fetch fault (R290), of a kind that the manual does not say. R91 says
instead that a word of the zero padding before the next section traps RESERVED_FIELD: the model takes R91 for a zero word within the
padding to a multiple of 48 bytes, and R290 for every other (log entry 64). -/
def State.fetchPast (s : State) (base n a : Nat) : State × Fetched :=
  let out : State × Fetched := (s, .fault (Config.freeChoice s.tick 4 % 9) 0 a)
  if a < base + (n + 47) / 48 * 48 then
    match s.fetchWord s.streamWho 3 a 12 with
    | (s1, .word w) => if w = 0 then (s1, .word w) else out
    | r => r
  else out

/-- Fetch the word that the executing stream stands at. The walker's words are read at physical addresses (R223, log entry
12). A lane word before LBASE, which a rewritten EPCL can name, is fetched like any other: no rule makes it a fault (log entry 64). -/
def State.fetch (s : State) : State × Fetched :=
  match s.cur.stream with
  | .scalar =>
    if s.g.mode = .walker then (s, .word (s.readN (s.g.spc.toNat % 2 ^ 52) 4))
    else s.fetchWord s.streamWho 3 s.g.spc.toNat 4
  | .lane =>
    let a := s.cur.lane.lpc.toNat
    match s.laneEnd with
    | some (base, n) =>
      if base + n ≤ a then s.fetchPast base n a
      else s.fetchWord s.streamWho 3 a 12
    | none => s.fetchWord s.streamWho 3 a 12
  | .sdue =>
    match s.prog? with
    | none => (s, .busy)
    | some p => s.fetchWord (s.progWho p) 0 p.npc.toNat 8

end Sys2Proof.Machine
end

