-- ==== Sys2Proof/Machine/Streams.lean ====
section
/-! DEFINITION. Turns of the three streams: which word each stands at (R18 to R25, R422), when a group may issue (R176,
R182), and what becomes of a word that cannot be fetched or decoded (R71 to R77, R235, R380, R226). -/

namespace Sys2Proof.Machine

/-! ### Near-memory programs that end or wait -/

/-- A program ends without completing (R380): its record or its command's status says so, and the cause is logged (R325). -/
def State.progFail (s : State) (cause : Nat) : State :=
  match s.prog? with
  | none => s
  | some p =>
    let s1 := s.dropProgram p.cmd
    match s.ecmds.find? fun c => c.id == p.cmd with
    | some c =>
      let s2 := s1.endCause c stFailed (some cause)
      if c.recIndex.isNone then s2.event (.nmEnded p.ctx cause) else s.unlessHeld s2
    | none => s1

/-- Replace the program of the SDUE that executes. -/
def State.setProg (s : State) (p : NmProg) : State :=
  let k := s.stackAt s.cur.stack
  s.setStack s.cur.stack { k with sdue := sins s.cur.sdue p (serase s.cur.sdue k.sdue) }

/-- A fault of a program's access, by the engine rules (R226, R379): a first-touch page is mapped, a missing page is
requested from the host, any other fault ends the program. -/
def State.progFault (s : State) (kind acc : Nat) (va : Nat) : State :=
  match s.prog? with
  | none => s
  | some p =>
    let core := (s.progWho p).core
    let ask (t : State) : State :=
      if t.prien core p.ctx then
        let r : WalkReq := ⟨.command p.cmd, wd va, BitVec.ofNat 2 acc, true, p.ctx⟩
        (t.sendPage core r).setProg { p with pageReq := some r }
      else t.progFail Cause.pageFault.code
    if kind = 1 then
      match s.firstTouch p.ctx core (s.cur.stack / 4) va with
      | (s1, .noFrame) => ask s1
      | (s1, _) => s1
    else if kind = 0 then ask s
    else s.progFail Cause.pageFault.code

/-- PROTECTION of a program's access (R243, R379). -/
def State.progFreeze (s : State) (acc va pa : Nat) : State :=
  match s.prog? with
  | none => s
  | some p => s.freezeRequester ⟨.command p.cmd, wd va, BitVec.ofNat 2 acc, true, p.ctx⟩ (wd pa)

/-! ### Words that are no instruction -/

/-- A word that its decoder rejects: in a group a trap (R75, R76), in an SDUE the end of the program (R74, R380). -/
def rejectWord (c : Cause) (s : State) : Result :=
  match s.cur.stream with
  | .scalar => s.trapS c
  | .lane => s.laneReject c s.cur.mreg
  | .sdue => .next (s.progFail c.code)

/-- ILLEGAL_OPCODE (R71, R72, R73, R74, R77). -/
def execIllegalOpcode (s : State) : Result := rejectWord .illegalOpcode s

/-- FETCH_FAULT (R235), with the fault that fetching the word again gives. A program's fetch is a read access (R378). -/
def execFetchFault (s : State) : Result :=
  match s.fetch with
  | (s1, .fault k l va) =>
    match s.cur.stream with
    | .scalar => s1.trapScalar .fetchFault (some (wd va)) (faultProg k l 3 0 0)
    | .lane => s1.trapLane .fetchFault (some (wd va)) (s1.active 0) (faultProg k l 3 0 0)
    | .sdue => .next (s1.progFault k 0 va)
  | (s1, _) => .next s1

/-- A fetch that yields PROTECTION freezes the master (R243). -/
def fetchProtected (va pa : Nat) (s : State) : Result :=
  match s.cur.stream with
  | .sdue => .next (s.progFreeze 0 va pa)
  | _ => s.protection 3 (wd va) (wd pa)

/-- A fetch that meets bad data halts the group, or ends the program (Table 10-3). -/
def fetchBad (c : Cause) (va pa : Nat) (s : State) : Result :=
  match s.cur.stream with
  | .scalar => s.haltScalar ⟨0, wd va, wd pa, c, 3, 0⟩
  | .lane => .next (s.haltLane ⟨s.active 0, wd va, wd pa, c, 3, 0⟩)
  | .sdue => .next (s.progFail c.code)

/-- A fetch waits, and its stream is stalled by something (R14). -/
def State.fetchWaits (s : State) (r : Stall) (w : LaneWait) : Result :=
  match s.cur.stream with
  | .scalar => s.stall r
  | .lane => .next (s.laneStalled w)
  | .sdue => .next s

/-- A pair word with both slots idle: a word without an operation. The manual does not say whether a mask that it names counts as read in a
lookahead window (R62, R67): DESIGN CHOICE, it reads and writes nothing (log entry 84). -/
def laneIdle (mreg : Nat) (s : State) : Result :=
  runLane Uses.empty mreg false ⟨0, false, 0, 0⟩ [] (fun _ => .elems []) s

/-! ### When a group may issue -/

/-- The group one below in grid order has issued its first instruction (R176); one that has gone had. -/
def State.predIssued (s : State) (g : Group) : Bool :=
  let pred :=
    if 0 < g.gidx then s.memberOf g.team (g.gidx - 1)
    else if g.teamIndex = 0 then none
    else
      match s.team? (g.team - 1) with
      | some t => s.memberOf (g.team - 1) (t.ngroups - 1)
      | none => none
  match pred with
  | some p => p.issued
  | none => true

/-- A group's class lets it issue: a parallel group's first instruction (R176), a concurrent grid with no team SAVED (R182). -/
def State.classLets (s : State) (g : Group) : Bool :=
  match s.team? g.team with
  | none => true
  | some t =>
    if g.cls = 1 then g.issued || s.predIssued g
    else if g.cls = 0 then s.teams.all fun p => p.2.grid != t.grid || p.2.image.isNone
    else true

/-- The executing group may issue. -/
def State.mayIssue (s : State) : Bool := s.g.st == .active && s.classLets s.g

/-- A resident group whose issued words and queued effects go on: ACTIVE, PENDING or WAITING. -/
def Group.retries (g : Group) : Bool := g.st == .active || g.st == .pending || g.st == .waiting

/-! ### Who issues first (R194) -/

/-- A group goes before another (Table 8-11): a starved one before one that is not, starved ones in the order in which they were
flagged, others by age stamp; of equal ones the lower slot (log entry 77). -/
def goesBefore (p q : Nat × Group) : Bool :=
  match p.2.starved, q.2.starved with
  | some _, none => true
  | none, some _ => false
  | some a, some b => a < b || (a == b && p.1 < q.1)
  | none, none => p.2.age < q.2.age || (p.2.age == q.2.age && p.1 < q.1)

/-- No ACTIVE group of the core with a word of the stream that is ready goes before the executing one. What the waits of R14 do not
say of a word's readiness is timing of the pipelines, which the move gives. -/
def State.goesFirst (s : State) (ready : Group → Bool) : Bool :=
  (s.coreGroups s.cur.core).all fun p =>
    p.1 == s.cur.slot || p.2.st != .active || s.cur.unready.getLsbD p.1 || !s.classLets p.2 || !ready p.2
      || !goesBefore p (s.cur.slot, s.g)

/-! ### Turns -/

/-- What a stream comes to at its turn: a word to fetch, a queued scalar effect, an end without a word, or nothing. -/
inductive Turn where
  | word (s : State)
  | effect (i : Instr) (s : State)
  | settled (s : State)
  | nothing

/-- The scalar stream can go on: a group that GEXIT or TRETIRE drains issues no more scalar words (R319, R320). -/
def Group.scalarGoes (g : Group) : Bool := !g.exiting && !g.stopped && !g.awaitsAtomic

/-- A group's scalar word is ready. -/
def State.scalarReady (s : State) (g : Group) : Bool := g.scalarGoes && s.resolved s.cur.core g

/-- The scalar stream's turn. -/
def scalarTurn (s : State) : Turn :=
  if s.mayIssue && s.g.scalarGoes && s.goesFirst s.scalarReady then
    .word { s with cur := { s.cur with stream := .scalar, src := .stream, mreg := 0 } }
  else .nothing

/-- The executing lane word. -/
def State.atLane (s : State) (w : LaneWord) (src : LaneFrom) : State :=
  { s with cur := { s.cur with stream := .lane, lane := w, src := src, mreg := 0 } }

/-- The lane word at an address, with the state that the group now has. -/
def Group.wordAt (g : Group) (a : Word) (k : Store Word) : LaneWord := ⟨a, g.em, g.fmt, k, 0, none, 0, false, none, none, none, none⟩

/-- The lane stream stands at a lane word: an abandoned one, one of its block, or the first of a block at its queue's head. -/
def Group.laneGoes (g : Group) : Bool :=
  !g.stopped && (!g.abandoned.isEmpty || g.settle.run.isSome
    || match g.lq with | .block _ :: _ => true | _ => false)

/-- A group's lane word is ready: nothing that the stream is known to wait on holds it. -/
def State.laneWordReady (s : State) (g : Group) : Bool :=
  g.laneGoes && match g.lWait with | some w => s.laneOver s.cur.core g w | none => true

/-- The lane stream's turn (R20, R422): abandoned words first, then the block that runs, then the queue's head. A queued scalar
effect is no lane word and takes its position while the group is not ACTIVE too (R279). -/
def laneTurn (s : State) : Turn :=
  let g := s.g.settle
  let first := s.mayIssue && s.goesFirst s.laneWordReady
  if s.g.stopped then .nothing
  else
    match g.abandoned, g.run, g.lq with
    | [], none, .fswitch _ _ _ :: _ => if g.retries then .effect .functionRegisterSwitch (s.setG g) else .nothing
    | [], none, .csr _ _ :: _ => if g.retries then .effect .laneQueueScalarEffect (s.setG g) else .nothing
    | [], none, .rngseed _ _ :: _ => if g.retries then .effect .laneQueueScalarEffect (s.setG g) else .nothing
    | w :: _, _, _ => if first then .word (s.atLane w .again) else .nothing
    | [], some b, _ => if first then .word ((s.setG g).atLane (g.wordAt g.lpc b.k) .stream) else .nothing
    | [], none, .block b :: r =>
      if first then .word ((s.setG { g with lq := r, run := some b, lpc := b.addr }).atLane (g.wordAt b.addr b.k) .stream)
      else .nothing
    | [], none, [] => .nothing

/-- The oldest word that waits for a queue or a row buffer tries again (R60): it has issued, so its group need not be ACTIVE. -/
def retryTurn (s : State) : Turn :=
  match s.g.retries, s.g.waitingWords with
  | true, w :: _ => .word (s.atLane w .waiting)
  | _, _ => .nothing

/-- An SDUE's turn: it runs its program once started, unless that waits for the host (R378, R226); 2³² words end it (R380). -/
def sdueTurn (s : State) : Turn :=
  match s.prog? with
  | some p =>
    let s1 := { s with cur := { s.cur with stream := .sdue, mreg := 0 } }
    if p.pageReq.isSome || !p.loaded then .nothing
    else if 2 ^ 32 ≤ p.count then .settled (s1.progFail Cause.illegalWait.code)
    else .word s1
  | none => .nothing

/-- Decode the word of the executing stream. -/
def decodeStream (st : Stream) (w : Nat) : Decoded :=
  match st with
  | .scalar => decodeBits 32 w
  | .lane => decodeBits 96 w
  | .sdue => decodeBits 64 w

/-- Note the mask field of a lane word: bits 25:22, or 87:84 of a pair word (Tables 2-5, 2-11, 2-13). -/
def State.noteMask (s : State) (w : Nat) : State :=
  let v := BitVec.ofNat 96 w
  { s with cur := { s.cur with mreg := if bitsOf v 92 4 = 15 then bitsOf v 84 4 else bitsOf v 22 4 } }

end Sys2Proof.Machine
end

