-- ==== Sys2Proof/Machine/EngMem.lean ====
section
/-! DEFINITION. Memory accesses of engines, SDUEs and the matrix sequencer: translation by pages (R226), pieces of a range,
bad data that travels with its bytes (R248), and the faults of an engine command. -/

namespace Sys2Proof.Machine

/-- One piece of a range that lies in one page: virtual and flat address, LOC, bytes. -/
structure Piece where
  va : Nat
  flat : Nat
  loc : Nat
  n : Nat
  deriving DecidableEq, Repr

/-- What translating a range comes to: its pieces, a busy walker, a fault with its kind, level and address, or PROTECTION. -/
inductive Ranged where
  | ok (l : List Piece)
  | busy
  | fault (kind level va : Nat)
  | protect (va pa : Nat)
  deriving DecidableEq, Repr

/-- The parts of a range that lie in one 64 KiB page each, by page count. -/
def rangeParts (va n : Nat) : List (Nat × Nat) :=
  if n = 0 then []
  else
    (List.range (frameOf (va + n - 1) - frameOf va + 1)).map fun i =>
      let a := if i = 0 then va else (frameOf va + i) * 65536
      (a, min (va + n) ((frameOf va + i + 1) * 65536) - a)

/-- Translate parts in ascending order. -/
def State.landParts (s : State) (w : Who) (kind : Nat) : List (Nat × Nat) → State × Ranged
  | [] => (s, .ok [])
  | p :: r =>
    match s.translate w kind p.1 with
    | (s1, .ok flat loc) =>
      match s1.landParts w kind r with
      | (s2, .ok l) => (s2, .ok (⟨p.1, flat, loc, p.2⟩ :: l))
      | x => x
    | (s1, .busy) => (s1, .busy)
    | (s1, .fault k l) => (s1, .fault k l p.1)
    | (s1, .protect pa) => (s1, .protect p.1 pa)

/-- Translate a range (R226). -/
def State.landRange (s : State) (w : Who) (kind va n : Nat) : State × Ranged := s.landParts w kind (rangeParts va n)

/-- Read pieces: the state after logging errors, the bytes, and the first cause of bad data. -/
def readPieces (s : State) : List Piece → State × List Byte × Option Cause
  | [] => (s, [], none)
  | p :: r =>
    match s.checkRead p.flat p.n with
    | (s1, c) =>
      let q := readPieces s1 r
      (q.1, s1.seenAt p.flat p.n ++ q.2.1, match c with | some x => some x | none => q.2.2)

/-- Write bytes over pieces. -/
def writePieces (s : State) : List Piece → List Byte → State
  | [], _ => s
  | p :: r, l => writePieces (s.store p.flat (l.take p.n) false) r (l.drop p.n)

/-- Bytes that have just been written hold poisoned data: they are written again so, by the stack that queued them where it did (R248,
R273). -/
def State.poisonAt (s : State) (l : List Nat) : State :=
  if l.isEmpty then s else s.writeCells (l.map fun a => (a, 1)) (l.map fun a => (a, s.byteAt a)) true

/-- Bytes of pieces hold poisoned data where the list says so. -/
def poisonPieces (s : State) : List Piece → List Bool → State
  | [], _ => s
  | p :: r, l => poisonPieces (s.poisonAt (((l.take p.n).zipIdx.filter fun (q : Bool × Nat) => q.1).map fun q => p.flat + q.2)) r (l.drop p.n)

/-- A piece of a peer module's memory by lines, each of which travels as a message (R248). -/
def Piece.lines (p : Piece) : List Piece :=
  if (flowOf p.flat).isNone then [p]
  else
    ((List.range (p.n / 64 + 2)).map fun i =>
      let lo := max p.flat (p.flat / 64 * 64 + 64 * i)
      let hi := min (p.flat + p.n) (p.flat / 64 * 64 + 64 * (i + 1))
      { p with va := p.va + (lo - p.flat), flat := lo, n := hi - lo }).filter fun q => q.n != 0

/-- Write bytes over pieces; a message to a peer module carries the poison of its line. -/
def writeBad (s : State) : List Piece → List Byte → List Bool → State
  | [], _, _ => s
  | p :: r, l, b => writeBad (s.store p.flat (l.take p.n) ((flowOf p.flat).isSome && (b.take p.n).any id)) r (l.drop p.n) (b.drop p.n)

/-- Write bytes with their marks (R248). -/
def putPoisoned (s : State) (l : List Piece) (bytes : List Byte) (bad : List Bool) : State :=
  if bad.any id then
    let q := l.flatMap Piece.lines
    poisonPieces (writeBad s q bytes bad) q bad
  else writePieces s l bytes

/-- Which bytes of pieces lie in bad units. -/
def badBytes (s : State) : List Piece → List Bool
  | [] => []
  | p :: r =>
    (if s.marks.isEmpty && !s.encOn && s.eqx.queued.isEmpty then List.replicate p.n false else (addrs p.flat p.n).map s.byteBad) ++ badBytes s r

/-- A piece on a row that another SDUE holds makes the access wait (R139). -/
def State.piecesHeld (s : State) (l : List Piece) (stack sdue : Nat) : Bool := l.any fun p => s.rowHeld p.flat p.n stack sdue

/-- So does, for a write, a piece that needs a shadow while none is free (R274). -/
def State.writesHeld (s : State) (l : List Piece) (stack sdue : Nat) : Bool :=
  s.piecesHeld l stack sdue || l.any fun p => s.noShadow p.flat p.n

/-- A piece that the host refuses (R242). -/
def State.pieceRefused (s : State) (l : List Piece) : Option Piece :=
  l.find? fun p => p.loc == 3 && Config.hostRefuses s.tick

/-- A range in a vault window, given by its die and base, or in global memory: its pieces. -/
def State.landSpace (s : State) (w : Who) (vault : Option (Nat × Nat)) (kind va n : Nat) : State × Ranged :=
  match vault with
  | some (d, b) => (s, .ok (if n = 0 then [] else [⟨va, vaultFlat d (b + va), 0, n⟩]))
  | none => s.landRange w kind va n

/-- Bytes of pieces as a team with a commit window reads them (R255). -/
def State.pieceBytes (s : State) (win : List CLine) (l : List Piece) : List Byte :=
  l.flatMap fun (p : Piece) => s.loadBytes win p.va p.flat p.n

/-- Of two causes of bad data, UNCORRECTABLE where either read found an error itself (R249). -/
def worse (a b : Option Cause) : Option Cause :=
  match a, b with
  | some .uncorrectable, _ => a
  | _, some .uncorrectable => b
  | some _, _ => a
  | none, _ => b

/-- The misses that a command met wait for its core's walker, whatever else becomes of the attempt (R223). -/
def State.keepMiss (s t : State) (core : Nat) : State := s.setCore core { s.coreAt core with missed := (t.coreAt core).missed }

/-! ### Commands at issue -/

/-- NMATOMs of a group that were issued before a command and have not performed (R167). -/
def State.atomsBefore (s : State) (team gidx id : Nat) : Bool :=
  s.hbmStacks.any fun k => k.2.atoms.any fun a => a.team == team && a.gidx == gidx && a.before ≤ id

/-- Place a command's locks (R153). -/
def State.addLocks (s : State) (ctx cmd : Nat) (l : List LockReq) : State :=
  l.foldl (fun (t : State) x =>
    let d := t.dieAt x.die
    t.setDie x.die { d with locks := d.locks ++ [x.entry ctx cmd] }) s

/-! ### Engine commands -/

/-- An engine command as a requester; its walker is its issuing core's. -/
def cmdWho (c : ECmd) (user : Bool) : Who := ⟨.command c.id, c.core, c.ctx, user⟩

/-- A fault of a command's access (R226): a first-touch page is mapped; a missing page is requested from the host with
PRIEN set; anything else ends the command FAILED. -/
def State.cmdFault (s : State) (c : ECmd) (user : Bool) (kind acc va : Nat) : State :=
  let ask (t : State) : State :=
    if t.prien c.core c.ctx then
      let r : WalkReq := ⟨.command c.id, wd va, BitVec.ofNat 2 acc, user, c.ctx⟩
      let t1 := t.sendPage c.core r
      { t1 with ecmds := t1.ecmds.map fun (x : ECmd) => if x.id = c.id then { x with pageReq := some r } else x }
    else t.endCause c stFailed (some Cause.pageFault.code)
  if kind = 1 then
    match s.firstTouch c.ctx c.core (dieOf c.core) va with
    | (s1, .noFrame) => ask s1
    | (s1, _) => s1
  else if kind = 0 then ask s
  else s.endCause c stFailed (some Cause.pageFault.code)

end Sys2Proof.Machine
end

