-- ==== Sys2Proof/Machine/Functions.lean ====
section
/-! DEFINITION. Function images (R114, R115), their evaluation (R116, R117) and FLOAD's checks (R121, R122). -/

namespace Sys2Proof.Machine

/-- A function image, 1024 bytes with byte 0 in the low bits. -/
abbrev Image := BitVec 8192

/-- The FP32 value at a byte of an image. -/
def imF (g : Image) (byte : Nat) : FVal := decodeF .f32 (bitsOf g (8 * byte) 32)

/-- Header fields (Table 5-2). -/
def imPa (g : Image) : FVal := imF g 0
def imPb (g : Image) : FVal := imF g 4
def imLo (g : Image) : FVal := imF g 8
def imHi (g : Image) : FVal := imF g 12
def imC1 (g : Image) : FVal := imF g 16
def imRmode (g : Image) : Nat := bitsOf g 256 2
def imPowq (g : Image) : Nat := bitsOf g 258 2
def imBrule (g : Image) : Nat := bitsOf g 260 2
def imArule (g : Image) : Nat := bitsOf g 262 2
def imNrule (g : Image) : Nat := bitsOf g 264 2
def imMono (g : Image) : Nat := bitsOf g 266 2
def imSym (g : Image) : Nat := bitsOf g 268 2
def imDeg (g : Image) : Nat := bitsOf g 272 3
def imNseg (g : Image) : Nat := bitsOf g 276 5
/-- Breakpoints and coefficients (R114). -/
def imBp (g : Image) (i : Nat) : FVal := imF g (64 + 4 * i)
def imC (g : Image) (s j : Nat) : FVal := imF g (128 + 24 * s + 4 * j)
def imD (g : Image) (s j : Nat) : FVal := imF g (512 + 20 * s + 4 * j)

/-- a ≤ b and a < b of values; a NaN compares false. -/
def leV (a b : FVal) : Bool := !a.isNan && !b.isNan && cmpVal a b != 1
def ltV (a b : FVal) : Bool := !a.isNan && !b.isNan && cmpVal a b == -1

/-- One fused rounding to FP32 with RNE (R98). Its flags are dropped: R116 names no flag of steps 1 to 7 (DESIGN CHOICE, log
entry 96). -/
def fmaR (a b c : FVal) : FVal := rneF32 (fFma a b c).1

/-- floor of a finite value, as an integer. -/
def floorV (v : FVal) : Int :=
  match v with
  | .num s m e =>
    let n : Int := ((roundAt .rdn s m e 0).1 : Int)
    if s then -n else n
  | _ => 0

/-- 2q of a POW code: −2, −1, 1 (Table 5-2). -/
def powTwice (c : Nat) : Int := if c = 0 then -2 else if c = 1 then -1 else 1

/-- Range reduction (Table 5-3): u and k. -/
def reduceV (g : Image) (t : FVal) : FVal × Int :=
  match imRmode g with
  | 0 => (t, 0)
  | 1 =>
    let k := floorV t
    ((fAdd t (FVal.ofInt (-k))).1, k)
  | r =>
    match t with
    | .num _ m e =>
      let x := log2Of m e
      if r = 3 ∧ imPowq g ≠ 0 ∧ x % 2 = 1 then (.num false m (e - x + 1), x - 1) else (.num false m (e - x), x)
    | v => (v, 0)

/-- Step 6: Horner, one rounding a step, in segment s. -/
def hornerV (g : Image) (d : Bool) (s : Nat) (u : FVal) : FVal :=
  if d then
    if imDeg g = 0 then FVal.zero false
    else (List.range (imDeg g - 1)).foldl (fun p i => fmaR p u (imD g s (imDeg g - 2 - i))) (imD g s (imDeg g - 1))
  else (List.range (imDeg g)).foldl (fun p i => fmaR p u (imC g s (imDeg g - 1 - i))) (imC g s (imDeg g))

/-- Step 7: the post-reduction scale (Table 5-3). -/
def postV (g : Image) (d : Bool) (p : FVal) (k : Int) : FVal :=
  match imRmode g with
  | 0 => p
  | 1 => p.scale k
  | 2 => if d then p.scale (-k) else fmaR (FVal.ofInt k) (imC1 g) p
  | _ => p.scale ((if d then powTwice (imPowq g) - 2 else powTwice (imPowq g)) * k / 2)

/-- Steps 4 to 7 without the fold. -/
def coreV (g : Image) (d : Bool) (t : FVal) : FVal :=
  let q := reduceV g t
  let s := (List.range (imNseg g)).foldl (fun b i => if leV (imBp g i) q.1 then i else b) 0
  postV g d (hornerV g d s q.1) q.2

def foldV (g : Image) (d sg : Bool) (v : FVal) : FVal :=
  if sg && ((imSym g == 1 && !d) || (imSym g == 2 && d)) then v.neg else v

/-- What an evaluation comes to: TRAP, or the value v before step 8, with FNDOM. -/
inductive Eval where
  | trap
  | val (v : FVal) (fndom : Bool)
  deriving DecidableEq, Repr

/-- Steps 1 to 7 of R116. -/
def evalImage (g : Image) (d : Bool) (x : FVal) : Eval :=
  let t0 := fmaR (imPa g) x (imPb g)
  if t0.isNan then
    match imNrule g with
    | 3 => .trap
    | 0 => .val (if d then FVal.zero false else imF g 28) true
    | _ => .val .qnan true
  else
    let sg := imSym g != 0 && t0.neg?
    let t := if imSym g = 0 then t0 else t0.abs
    if ltV t (imLo g) || ltV (imHi g) t then
      let below := ltV t (imLo g)
      match if below then imBrule g else imArule g with
      | 3 => .trap
      | 0 => .val (foldV g d sg (if d then FVal.zero false else if below then imF g 20 else imF g 24)) true
      | 2 => .val (foldV g d sg (if d then imPa g else t)) true
      | _ => .val (foldV g d sg (coreV g d (if below then imLo g else imHi g))) true
    else .val (foldV g d sg (coreV g d t)) false

/-! ### FLOAD's checks (Table 5-6), in order: the offset of each failing item -/

/-- An offset where a condition holds. -/
def failAt (c : Bool) (offset : Nat) : List Nat := if c then [offset] else []

def finiteV (v : FVal) : Bool := !v.isNan && !v.isInf

/-- RZ fields of the header, as first bit and width. -/
def imRz : List (Nat × Nat) := [(270, 2), (275, 1), (281, 7), (296, 216)]

/-- The lowest set bit of the header's RZ fields. -/
def imRzBit (g : Image) : Option Nat :=
  (imRz.flatMap fun (p : Nat × Nat) => (List.range p.2).map fun i => p.1 + i).find? fun b => g.getLsbD b

def headerFails (g : Image) : List Nat :=
  failAt (bitsOf g 288 8 != 1) 36
    ++ (match imRzBit g with | some b => [b / 8] | none => [])
    ++ failAt (imPowq g == 3) 32
    ++ failAt (imMono g == 3 || imSym g == 3) 33
    ++ failAt (imNrule g == 1) 33
    ++ failAt (imPowq g != 0 && imRmode g != 3) 32
    ++ failAt (bitsOf g 128 32 != 0 && imRmode g != 2) 16
    ++ failAt (5 < imDeg g || imNseg g == 0 || 16 < imNseg g) 34

def domainFails (g : Image) : List Nat :=
  failAt (!finiteV (imLo g)) 8
    ++ failAt (!finiteV (imHi g)) 12
    ++ failAt (ltV (imHi g) (imLo g)) 8
    ++ failAt (2 ≤ imRmode g && leV (imLo g) (FVal.zero false)) 8
    ++ failAt (imMono g != 0 && imSym g == 2) 33

def breakFails (g : Image) : List Nat :=
  ((List.range (imNseg g)).flatMap fun i =>
      failAt (!finiteV (imBp g i) || (i != 0 && !ltV (imBp g (i - 1)) (imBp g i))) (64 + 4 * i))
    ++ failAt (imRmode g == 1 && cmpVal (imBp g 0) (FVal.zero false) != 0) 64
    ++ failAt (2 ≤ imRmode g && cmpVal (imBp g 0) FVal.one != 0) 64
    ++ ((List.range 16).flatMap fun i => failAt (imNseg g ≤ i && bitsOf g (8 * (64 + 4 * i)) 32 != 0) (64 + 4 * i))

def coefFails (g : Image) : List Nat :=
  ((List.range 176).flatMap fun i => failAt (!finiteV (imF g (128 + 4 * i))) (128 + 4 * i))
    ++ ((List.range 16).flatMap fun s => (List.range 6).flatMap fun j =>
          failAt (imDeg g < j && bitsOf g (8 * (128 + 24 * s + 4 * j)) 32 != 0) (128 + 24 * s + 4 * j))
    ++ ((List.range 16).flatMap fun s => (List.range 5).flatMap fun j =>
          failAt (imDeg g ≤ j && bitsOf g (8 * (512 + 20 * s + 4 * j)) 32 != 0) (512 + 20 * s + 4 * j))
    ++ ((List.range 192).flatMap fun i => failAt (bitsOf g (8 * (832 + i)) 8 != 0) (832 + i))

/-- The largest FP32 value below a finite one. -/
def predV (v : FVal) : FVal :=
  let b := (finish .f32 Fin.rne v).bits
  if b % 2 ^ 31 = 0 then decodeF .f32 0x80000001
  else if 2 ^ 31 ≤ b then decodeF .f32 (b + 1)
  else decodeF .f32 (b - 1)

/-- The seams of R122. -/
def seamFails (g : Image) : List Nat :=
  if imMono g = 0 then []
  else
    let ok (a b : FVal) : Bool := if imMono g = 1 then leV a b else leV b a
    let n := imNseg g
    let w : Int := if imRmode g = 1 then 1 else if imRmode g = 3 ∧ imPowq g ≠ 0 then 4 else 2
    let left := hornerV g false (n - 1) (predV (FVal.ofInt w))
    let right :=
      match imRmode g with
      | 1 => rneF32 ((hornerV g false 0 (FVal.zero false)).scale 1)
      | 2 => rneF32 (fAdd (hornerV g false 0 FVal.one) (imC1 g)).1
      | _ => rneF32 ((hornerV g false 0 FVal.one).scale (powTwice (imPowq g) * (if imPowq g = 0 then 1 else 2) / 2))
    ((List.range n).flatMap fun i =>
        failAt (i != 0 && !ok (hornerV g false (i - 1) (predV (imBp g i))) (hornerV g false i (imBp g i))) (64 + 4 * i))
      ++ failAt (imRmode g != 0 && !ok left right) 64
      ++ failAt (imSym g == 1 && !ok (FVal.zero false) (rneF32 (coreV g false (imLo g)))) 8

/-- The byte offset of the first failing item, or none: the image passes (R121). -/
def imageReject (g : Image) : Option Nat :=
  match headerFails g with
  | x :: _ => some x
  | [] => (domainFails g ++ breakFails g ++ coefFails g ++ seamFails g).head?

end Sys2Proof.Machine
end

