-- ==== Sys2Proof/Machine/Access.lean ====
section
/-! DEFINITION. Memory accesses of a group from issue to performance: what performing does, at issue and later. -/

namespace Sys2Proof.Machine

/-! ### Loads and stores -/

/-- The element that bytes of memory give in a lane of a register or pair (R327). -/
def loadElem (t : EType) (reg lane : Nat) (bytes : List Byte) : List (Nat × W32) :=
  destWrites reg t.is64 [Elem.plain lane (placeI t (intOf t (ofBytes bytes)))]

/-- Consecutive registers' elements (R363). -/
def loadElems (t : EType) (reg n lane : Nat) (bytes : List Byte) : List (Nat × W32) :=
  (List.range n).flatMap fun j => loadElem t (reg + j) lane ((bytes.drop (j * (t.bits / 8))).take (t.bits / 8))

/-- Where the data of an access comes from: memory, or words of the team's window (R255). -/
def State.todoSources (s : State) (path : Path) (x : Todo) : List Nat :=
  if path = .vlt then addrs x.flat x.n else s.sources s.g.team x.va x.flat x.n

/-- The access kind of Table 9-3. -/
def MemAct.kind : MemAct → Nat
  | .load _ _ _ => 0
  | .store _ => 1
  | _ => 2

/-- An access that met bad data: its lanes, the first bad byte's address, and its cause. -/
def State.badTodo (s : State) (path : Path) (x : Todo) (c : Cause) : Bad :=
  let l := s.todoSources path x
  let i := s.firstBadOf l
  ⟨x.mask, wd (x.va + i), wd (l.getD i x.flat), c, x.act.kind, x.prog⟩

/-- Accesses that meet bad data: the state after its log, and the good ones apart from the bad. -/
def checkLanes (path : Path) (s : State) : List Todo → State × List Todo × List Bad
  | [] => (s, [], [])
  | x :: r =>
    match s.checkAt (s.todoSources path x) with
    | (s1, none) => let q := checkLanes path s1 r; (q.1, x :: q.2.1, q.2.2)
    | (s1, some c) => let q := checkLanes path s1 r; (q.1, q.2.1, s.badTodo path x c :: q.2.2)

/-- Two reports of bad data together: every lane, the lowest address, UNCORRECTABLE where either read found an error (R249). -/
def Bad.join (a b : Bad) : Bad :=
  let low := if b.va.ult a.va then b else a
  { low with mask := a.mask ||| b.mask, cause := if a.cause = .uncorrectable then .uncorrectable else b.cause }

/-- The report of some bad accesses. -/
def badSummary : List Bad → Option Bad
  | [] => none
  | x :: r => some (r.foldl Bad.join x)

/-- What performing some accesses of one instruction comes to: the state, the elements that come back, the bad accesses. -/
abbrev Performed := State × List (Nat × W32) × List Bad

/-- Loads (R362, R363): the data leaves memory now and lands at its arrival (R368). -/
def performLoads (path : Path) (l : List Todo) (s : State) : Performed :=
  match checkLanes path s l with
  | (s1, good, bad) =>
    let win := if path = .vlt then [] else s1.windowOf s1.g
    let elems (x : Todo) : List (Nat × W32) :=
      match x.act with
      | .load t reg n => loadElems t reg n x.lane (s1.loadBytes win x.va x.flat x.n)
      | _ => []
    (if path = .vlt then s1 else s1.noteReads s1.g (good.map fun (x : Todo) => (x.va, x.flat, x.n)), good.flatMap elems, bad)

/-- Stores (R362, R363). Those that perform together cover their units together (R247). -/
def performStores (l : List Todo) (s : State) : Performed :=
  let bytes (x : Todo) : List Byte := match x.act with | .store b => b | _ => []
  (s.storeAll (l.map fun (x : Todo) => (x.flat, bytes x)), [], [])

/-! ### Atomics (R365, R366, R287) -/

/-- The new bits of a 32-bit lane atomic, with its flags (R365); FTZ flushes what it reads and writes. -/
def atomNew (op : AtomOp) (t : EType) (ftz : Bool) (old v c : W32) : W32 × Flags :=
  let float (r : FVal × Flags) : W32 × Flags :=
    let f := finish .f32 { Fin.rne with ftz := ftz } r.1
    (BitVec.ofNat 32 f.bits, r.2 ||| f.flags)
  let a := readF .f32 ftz old.toNat
  let b := readF .f32 ftz v.toNat
  match op with
  | .add => if t = .f32 then float (fAdd a b) else (old + v, 0)
  | .min =>
    if t = .f32 then float (fMinMax false a b)
    else (if intOf t old.toNat ≤ intOf t v.toNat then old else v, 0)
  | .max =>
    if t = .f32 then float (fMinMax true a b)
    else (if intOf t old.toNat ≤ intOf t v.toNat then v else old, 0)
  | .and => (old &&& v, 0)
  | .or => (old ||| v, 0)
  | .xor => (old ^^^ v, 0)
  | .swap => (v, 0)
  | .cas => (if old = c then v else old, 0)

/-- One read-modify-write at the memory side: its flags go to the group, and the old value comes back (R365). -/
def rmwAt (op : AtomOp) (t : EType) (ftz : Bool) (flat : Nat) (v c : W32) (s : State) : State × W32 :=
  let old := BitVec.ofNat 32 (s.seenN flat 4)
  let r := atomNew op t ftz old v c
  ((s.store flat (toBytes 4 r.1.toNat) false).modG fun g => g.raise r.2, old)

/-- The new value of an atomic on n-byte integers (R287). -/
def satomNew (op : AtomOp) (w : Nat) (old v c : BitVec w) : BitVec w :=
  match op with
  | .add => old + v
  | .min => if old.toInt ≤ v.toInt then old else v
  | .max => if old.toInt ≤ v.toInt then v else old
  | .and => old &&& v
  | .or => old ||| v
  | .xor => old ^^^ v
  | .swap => v
  | .cas => if old = c then v else old

/-- Lane atomics one after another (R172); a folded operand raises its flags too (R366). -/
def rmwAll : List Todo → State → State × List (Nat × W32)
  | [], s => (s, [])
  | x :: r, s =>
    match x.act with
    | .rmw op t ftz v c f d =>
      let q := rmwAt op t ftz x.flat v c s
      let p := rmwAll r (q.1.modG fun g => g.raise f)
      (p.1, (match d with | some k => [(k, q.2)] | none => []) ++ p.2)
    | _ => rmwAll r s

def performAtoms (path : Path) (l : List Todo) (s : State) : Performed :=
  match checkLanes path s l with
  | (s1, good, bad) =>
    let r := rmwAll good s1
    (r.1, r.2, bad)

/-- A scalar atomic (R287, R288): the old value goes to its register. -/
def performScalarAtom (x : Todo) (op : AtomOp) (n : Nat) (v c : Word) (d : SReg) (s : State) : Performed :=
  match s.checkRead x.flat n with
  | (s1, some e) => (s1, [], [s.badTodo .vlt x e])
  | (s1, none) =>
    let old := BitVec.ofNat (8 * n) (s1.seenN x.flat n)
    let new := satomNew op (8 * n) old (v.setWidth _) (c.setWidth _)
    ((s1.store x.flat (toBytes n new.toNat) false).modG fun g => g.setS d (old.signExtend 64), [], [])

/-- Perform some accesses of one instruction, which are of one kind. -/
def performList (path : Path) (l : List Todo) (s : State) : Performed :=
  match l with
  | [] => (s, [], [])
  | x :: _ =>
    match x.act with
    | .load _ _ _ => performLoads path l s
    | .store _ => performStores l s
    | .rmw _ _ _ _ _ _ _ => performAtoms path l s
    | .satom op n v c d => performScalarAtom x op n v c d s

/-! ### Issue -/

/-- An access that an instruction starts in the group's lane or scalar stream, with what has come of it so far. -/
def newAccess (path : Path) (x : Spot) (o : Order) (lpc : Word) (pages : List Nat) : Access where
  path := path
  writes := []
  todo := []
  order := o
  lane := x.lane
  past := false
  mark := x.mark
  arms := x.arms
  loops := x.loops
  lpc := lpc
  bad := none
  cmd := none
  pages := pages
  arrived := true
  done := false

/-- Which of some accesses of an instruction perform at issue: those of lanes that are not `late` and that nothing holds back. -/
def State.ready (s : State) (late : Word) (x : Spot) (o : Order) (t : Todo) : Bool :=
  !late.getLsbD t.lane && s.mayPerform s.g s.g.inflight x o t.flat t.n t.act.writes

/-- Issue an instruction's accesses: some perform, the others, those of the lanes `late` among them, stay outstanding. With `returns`, bad
data of those that perform is for the caller; else it is reported when the instruction completes (Table 10-3). -/
def State.issueAccess (s : State) (a : Access) (returns : Bool) (late : Word) (l : List Todo) : State × Option Bad :=
  let r := performList a.path (l.filter (s.ready late a.spot a.order)) s
  let wait := l.filter fun t => !s.ready late a.spot a.order t
  let b := badSummary r.2.2
  (r.1.modG fun g => g.track { a with
    writes := r.2.1
    todo := wait
    bad := if returns then none else b
    arrived := !returns || (r.2.1.isEmpty && wait.isEmpty) }, if returns then b else none)

/-! ### Performing later -/

/-- Two reports of bad data together, where there are any (R249). -/
def joinBad (a b : Option Bad) : Option Bad :=
  match a, b with
  | some x, some y => some (x.join y)
  | some x, none => some x
  | none, y => y

/-- An access whose data goes back to the group. -/
def MemAct.returns : MemAct → Bool
  | .load _ _ _ => true
  | .rmw _ _ _ _ _ _ (some _) => true
  | .satom _ _ _ _ _ => true
  | _ => false

/-- A range lock keeps an outstanding access of the executing group from performing. -/
def State.todoLocked (s : State) (a : Access) (t : Todo) : Bool :=
  let die := dieOf s.cur.core
  s.lockedOut die s.g.ctx s.g.team s.g.gidx (a.path == .vlt) (if a.path = .vlt then t.flat - vaultFlat die 0 else t.va) t.n t.act.writes

/-- The executing group's `j`-th outstanding access of its `n`-th instruction in flight performs, where it may (R139, R158). -/
def State.performLater (s : State) (n j : Nat) : State :=
  match s.g.inflight[n]? with
  | none => s
  | some a =>
    match a.todo[j]? with
    | none => s
    | some t =>
      if s.todoLocked a t || !s.mayPerform s.g (s.g.inflight.take n) a.spot a.order t.flat t.n t.act.writes then s
      else
        let r := performList a.path [t] s
        let b := badSummary r.2.2
        let s1 := r.1.modG fun g => { g with
          inflight := g.inflight.modify n fun (x : Access) => { x with
            writes := x.writes ++ r.2.1
            todo := x.todo.eraseIdx j
            arrived := x.arrived || !x.lane
            bad := if t.act.returns then x.bad else joinBad x.bad b } }
        match if t.act.returns then b else none with
        | some x =>
          if !s.g.live then s1
          else if a.lane then s1.haltGroup s.cur.core s.cur.slot true a.lpc x
          else (s1.haltGroup s.cur.core s.cur.slot false s.g.nextLane x).modG fun g => { g with epcs := a.lpc }
        | none => s1

end Sys2Proof.Machine
end

