-- ==== Sys2Proof/Machine/ScalarAlu.lean ====
section
/-! DEFINITION. Scalar integer arithmetic, immediates and register moves (R281 to R284, R292). -/

namespace Sys2Proof.Machine

/-- Write sd and go on with the next word (R278). -/
def State.writeNext (s : State) (d : SReg) (v : Word) : State := (s.modG fun g => g.setS d v).nextPc

/-- A word with one scalar result. -/
def scalarResult (d : SReg) (v : Word) (s : State) : Result := .next (s.writeNext d v)

/-- A two-source ALU word (Table 11-1). -/
def aluTwoSrc (f : Word → Word → Word) (d a b : SReg) (s : State) : Result :=
  scalarResult d (f (s.g.sreg a) (s.g.sreg b)) s

/-- A one-source ALU word (Table 11-1). -/
def aluOneSrc (f : Word → Word) (d a : SReg) (s : State) : Result := scalarResult d (f (s.g.sreg a)) s

/-! ### The values of Table 11-1 -/

def mulhVal (x y : Word) : Word := BitVec.ofInt 64 (x.toInt * y.toInt / 2 ^ 64)
def mulhzVal (x y : Word) : Word := wd (x.toNat * y.toNat / 2 ^ 64)
/-- Quotient truncated toward zero; divisor 0: all ones; −2⁶³ by −1: −2⁶³. -/
def divVal (x y : Word) : Word := if y = 0 then BitVec.allOnes 64 else BitVec.ofInt 64 (x.toInt.tdiv y.toInt)
def divzVal (x y : Word) : Word := if y = 0 then BitVec.allOnes 64 else wd (x.toNat / y.toNat)
/-- Remainder with the sign of the dividend; divisor 0: the dividend. -/
def remVal (x y : Word) : Word := if y = 0 then x else BitVec.ofInt 64 (x.toInt.tmod y.toInt)
def remzVal (x y : Word) : Word := if y = 0 then x else wd (x.toNat % y.toNat)
/-- Shift amounts are sb[5:0] (R281). -/
def shAmt (y : Word) : Nat := bitsOf y 0 6
def minVal (x y : Word) : Word := if x.toInt ≤ y.toInt then x else y
def maxVal (x y : Word) : Word := if x.toInt ≤ y.toInt then y else x
def minzVal (x y : Word) : Word := if x.toNat ≤ y.toNat then x else y
def maxzVal (x y : Word) : Word := if x.toNat ≤ y.toNat then y else x
/-- Set bits among the low n of a number. -/
def popCount (n v : Nat) : Nat := ((List.range n).filter fun i => v.testBit i).length
/-- Leading zeros of an n-bit number. -/
def leadZeros (n v : Nat) : Nat := if v = 0 then n else n - 1 - Nat.log2 v
def sextVal (n : Nat) (x : Word) : Word := (x.setWidth n).signExtend 64
def zextVal (n : Nat) (x : Word) : Word := (x.setWidth n).setWidth 64

def execAdd (d a b : SReg) (s : State) : Result := aluTwoSrc (· + ·) d a b s
def execSub (d a b : SReg) (s : State) : Result := aluTwoSrc (· - ·) d a b s
def execMul (d a b : SReg) (s : State) : Result := aluTwoSrc (· * ·) d a b s
def execMulh (d a b : SReg) (s : State) : Result := aluTwoSrc mulhVal d a b s
def execMulhz (d a b : SReg) (s : State) : Result := aluTwoSrc mulhzVal d a b s
def execDiv (d a b : SReg) (s : State) : Result := aluTwoSrc divVal d a b s
def execDivz (d a b : SReg) (s : State) : Result := aluTwoSrc divzVal d a b s
def execRem (d a b : SReg) (s : State) : Result := aluTwoSrc remVal d a b s
def execRemz (d a b : SReg) (s : State) : Result := aluTwoSrc remzVal d a b s
def execAnd (d a b : SReg) (s : State) : Result := aluTwoSrc (· &&& ·) d a b s
def execOr (d a b : SReg) (s : State) : Result := aluTwoSrc (· ||| ·) d a b s
def execXor (d a b : SReg) (s : State) : Result := aluTwoSrc (· ^^^ ·) d a b s
def execAndn (d a b : SReg) (s : State) : Result := aluTwoSrc (fun x y => x &&& ~~~y) d a b s
def execShl (d a b : SReg) (s : State) : Result := aluTwoSrc (fun x y => x <<< shAmt y) d a b s
def execShr (d a b : SReg) (s : State) : Result := aluTwoSrc (fun x y => x >>> shAmt y) d a b s
def execSar (d a b : SReg) (s : State) : Result := aluTwoSrc (fun x y => x.sshiftRight (shAmt y)) d a b s
def execRotr (d a b : SReg) (s : State) : Result := aluTwoSrc (fun x y => x.rotateRight (shAmt y)) d a b s
def execMin (d a b : SReg) (s : State) : Result := aluTwoSrc minVal d a b s
def execMax (d a b : SReg) (s : State) : Result := aluTwoSrc maxVal d a b s
def execMinz (d a b : SReg) (s : State) : Result := aluTwoSrc minzVal d a b s
def execMaxz (d a b : SReg) (s : State) : Result := aluTwoSrc maxzVal d a b s
def execSlt (d a b : SReg) (s : State) : Result := aluTwoSrc (fun x y => if x.slt y then 1 else 0) d a b s
def execSltz (d a b : SReg) (s : State) : Result := aluTwoSrc (fun x y => if x.ult y then 1 else 0) d a b s
def execClz (d a : SReg) (s : State) : Result := aluOneSrc (fun x => wd (leadZeros 64 x.toNat)) d a s
def execPopc (d a : SReg) (s : State) : Result := aluOneSrc (fun x => wd (popCount 64 x.toNat)) d a s
def execSextB (d a : SReg) (s : State) : Result := aluOneSrc (sextVal 8) d a s
def execSextH (d a : SReg) (s : State) : Result := aluOneSrc (sextVal 16) d a s
def execSextW (d a : SReg) (s : State) : Result := aluOneSrc (sextVal 32) d a s
def execZextB (d a : SReg) (s : State) : Result := aluOneSrc (zextVal 8) d a s
def execZextH (d a : SReg) (s : State) : Result := aluOneSrc (zextVal 16) d a s
def execZextW (d a : SReg) (s : State) : Result := aluOneSrc (zextVal 32) d a s

/-- SEL (R282). -/
def execSel (d a b c : SReg) (s : State) : Result :=
  scalarResult d (if s.g.sreg c ≠ 0 then s.g.sreg a else s.g.sreg b) s

/-- The sign-extended imm12 (R50). -/
def imm12 (i : BitVec 12) : Word := i.signExtend 64

/-- An immediate ALU word (R283). -/
def aluImm (f : Word → Word → Word) (d a : SReg) (i : BitVec 12) (s : State) : Result :=
  scalarResult d (f (s.g.sreg a) (imm12 i)) s

def execAddi (d a : SReg) (i : BitVec 12) (s : State) : Result := aluImm (· + ·) d a i s
def execAndi (d a : SReg) (i : BitVec 12) (s : State) : Result := aluImm (· &&& ·) d a i s
def execOri (d a : SReg) (i : BitVec 12) (s : State) : Result := aluImm (· ||| ·) d a i s
def execXori (d a : SReg) (i : BitVec 12) (s : State) : Result := aluImm (· ^^^ ·) d a i s
def execSlti (d a : SReg) (i : BitVec 12) (s : State) : Result := aluImm (fun x y => if x.slt y then 1 else 0) d a i s
def execShli (d a : SReg) (n : BitVec 6) (s : State) : Result := aluOneSrc (fun x => x <<< n.toNat) d a s
def execShri (d a : SReg) (n : BitVec 6) (s : State) : Result := aluOneSrc (fun x => x >>> n.toNat) d a s
def execSari (d a : SReg) (n : BitVec 6) (s : State) : Result := aluOneSrc (fun x => x.sshiftRight n.toNat) d a s

/-- imm20 in bits [31:12], sign-extended (R50, R52). -/
def imm20 (i : BitVec 20) : Word := (i ++ (0 : BitVec 12)).signExtend 64

def execLhi (d : SReg) (i : BitVec 20) (s : State) : Result := scalarResult d (imm20 i) s
def execPchi (d : SReg) (i : BitVec 20) (s : State) : Result := scalarResult d (s.g.spc + imm20 i) s

/-- MOVK (R292): the live uniform register; queued blocks keep their copies (R20). -/
def execMovk (k : BitVec 4) (a : SReg) (s : State) : Result :=
  .next (s.modG fun g => { g with k := sset 0 k.toNat (g.sreg a) g.k }).nextPc

end Sys2Proof.Machine
end

