-- ==== Sys2Proof/Machine/ScalarMem.lean ====
section
/-! DEFINITION. Scalar loads, stores and atomics (R285 to R288), with the checks of one access in the order of R236. -/

namespace Sys2Proof.Machine

/-- Bytes of an access size (R285). -/
def sizeBytes : Size → Nat
  | .b => 1 | .h => 2 | .w => 4 | .d => 8

/-- The executing group as a requester of its scalar stream. -/
def State.scalarWho (s : State) : Who :=
  ⟨.scalar s.cur.core s.cur.slot, s.cur.core, s.g.ctx, s.g.mode == .user⟩

/-- One scalar access: address, bytes, access kind code (Table 9-3), and whether sa is s63 (Table 6-1). -/
structure ScalarAcc where
  addr : Word
  n : Nat
  kind : Nat
  stack : Bool
  deriving DecidableEq, Repr

def ScalarAcc.path (x : ScalarAcc) : Path := if x.stack then .stk else .glb

/-- What the checks of an access come to: it performs at a flat address with its LOC, or the word has its result already. -/
inductive Checked where
  | go (s : State) (flat loc : Nat)
  | done (r : Result)

/-- A page fault of the scalar stream (R232, R233). -/
def pageFaultScalar (s : State) (x : ScalarAcc) (kind level : Nat) : Result :=
  s.trapScalar .pageFault (some x.addr) (faultProg kind level x.kind (if x.stack then 2 else 1) 0)

/-- The walker's accesses use physical addresses, and its loads are checked against the owned frames of the context in s4 (R223);
stores and atomics are checked in the same way (log entry 88). -/
def walkerCheck (x : ScalarAcc) (s : State) : Checked :=
  let a := x.addr.toNat
  if a % x.n ≠ 0 then .done (.next s.walkerTrap)
  else if !s.owned (bitsOf (s.g.sreg 4) 0 6) (frameOf a) 1 then
    let c := s.coreAt s.cur.core
    match c.walk with
    | none => .done (.next s.walkerTrap)
    | some r => .done (.next (((s.setCore s.cur.core { c with walk := none }).modG fun g => { g with st := .waiting }).freezeRequester r x.addr))
  else if x.kind != 1 && (s.marksIn a x.n).any (fun p => p.2.kind != .correctable) then .done (.next s.walkerTrap)
  else .go s a 0

/-- Count an access that needs nothing more, and go on. -/
def scalarTrack (x : ScalarAcc) (s : State) : State :=
  (s.modG fun g => g.track (newAccess x.path g.scalarSpot ⟨false, false⟩ g.spc [frameOf x.addr.toNat])).nextPc

/-- The checks of R236 for a scalar access: RANGE_LOCK, STACK_LIMIT, MISALIGNED, then translation; a tier page is a
tier-miss event that completes the word (R241), counted where it is no load (R147); the host may refuse (R242). -/
def scalarCheck (x : ScalarAcc) (s : State) : Checked :=
  let g := s.g
  let a := x.addr.toNat
  if g.mode = .walker then walkerCheck x s
  else
    match s.lockAddr (dieOf s.cur.core) g.ctx false a x.n (x.kind != 0) with
    | some l => .done (s.trapScalar .rangeLock (some (wd l)) 0)
    | none =>
      if x.stack && x.addr < g.slimS then .done (s.trapScalar .stackLimit (some x.addr) 0)
      else if a % x.n ≠ 0 then .done (s.trapScalar .misaligned (some x.addr) 0)
      else
        match s.translate s.scalarWho x.kind a with
        | (s1, .busy) => .done (s1.stall (.miss s.scalarWho.req))
        | (s1, .fault k l) => .done (pageFaultScalar s1 x k l)
        | (s1, .protect pa) => .done (s1.protection x.kind x.addr (wd pa))
        | (s1, .ok flat loc) =>
          if loc = 1 then
            .done (.next (if x.kind = 0 then (s1.modG Group.tmiss).nextPc else scalarTrack x (s1.modG Group.tmiss)))
          else if loc = 3 && Config.hostRefuses s.tick then .done (s1.protection x.kind x.addr (wd flat))
          else .go s1 flat loc

/-- A scalar load (R285, R286). It stalls while an earlier access of the group or an SDUE's row lock holds it back (R139, R171). -/
def scalarLoad (signed : Bool) (d a : SReg) (z : Size) (imm : BitVec 12) (s : State) : Result :=
  let x : ScalarAcc := ⟨s.g.sreg a + imm12 imm, sizeBytes z, 0, a == 63⟩
  match scalarCheck x s with
  | .done r => r
  | .go s1 flat _ =>
    if !s1.mayPerform s1.g s1.g.inflight s1.g.scalarSpot ⟨false, false⟩ flat x.n false then s1.stall (.held flat x.n false)
    else
      let from_ := if s1.g.mode = .walker then addrs flat x.n else s1.sources s1.g.team x.addr.toNat flat x.n
      match s1.checkAt from_ with
      | (s2, some c) =>
        let i := s1.firstBadOf from_
        s2.haltScalar ⟨0, wd (x.addr.toNat + i), wd (from_.getD i flat), c, 0, 0⟩
      | (s2, none) =>
        let v := wd (ofBytes (s2.loadBytes (s2.windowOf s2.g) x.addr.toNat flat x.n))
        scalarResult d (if signed then sextVal (8 * x.n) v else v) (s2.noteReads s2.g [(x.addr.toNat, flat, x.n)])

def execLds (d a : SReg) (z : Size) (imm : BitVec 12) (s : State) : Result := scalarLoad true d a z imm s
def execLdz (d a : SReg) (z : Size) (imm : BitVec 12) (s : State) : Result := scalarLoad false d a z imm s

/-- The bytes a commit window of the group's team may hold in lines (R255). -/
def State.windowRoom (s : State) (g : Group) : Nat :=
  match s.gridOf g with
  | some x => windowLines (descCwin x.desc)
  | none => 0

/-- The pending form of a scalar access. -/
def ScalarAcc.todo (x : ScalarAcc) (flat : Nat) (act : MemAct) : Todo := ⟨0, 0, x.addr.toNat, flat, x.n, act, 0⟩

/-- Issue a counted scalar access: it performs, or stays outstanding (R139, R158); the group halts at bad data that it meets. -/
def scalarIssue (x : ScalarAcc) (o : Order) (returns : Bool) (t : Todo) (s : State) : Result :=
  let a := newAccess x.path s.g.scalarSpot o s.g.spc [frameOf t.va]
  match s.issueAccess a returns s.cur.late [t] with
  | (s1, some b) => s1.haltScalar b
  | (s1, none) => .next s1.nextPc

/-- ST (R285, R286); in a commit task a store with sa ≠ s63 is buffered (R255), and one whose line does not fit traps (R257). -/
def execSt (d a : SReg) (z : Size) (imm : BitVec 12) (s : State) : Result :=
  let x : ScalarAcc := ⟨s.g.sreg a + imm12 imm, sizeBytes z, 1, a == 63⟩
  if s.g.full x.path then s.stall (.counter x.path)
  else
    match scalarCheck x s with
    | .done r => r
    | .go s1 flat _ =>
      let bytes := toBytes x.n (s1.g.sreg d).toNat
      if !x.stack && s1.inCommit s1.g then
        if !s1.mayPerform s1.g s1.g.inflight s1.g.scalarSpot ⟨false, false⟩ flat x.n true then s1.stall (.held flat x.n true)
        else
          match overflowLine (s1.windowOf s1.g) (s1.windowRoom s1.g) [(x.addr.toNat, x.n)] with
          | some l => s1.trapScalar .commitOverflow (some (wd l)) 0
          | none => .next (scalarTrack x (s1.bufferBytes s1.g x.addr.toNat bytes))
      else scalarIssue x ⟨false, false⟩ false (x.todo flat (.store bytes)) s1

/-- SATOM of n bytes (R287, R288), an acquire and a release (Table 7-1): the scalar stream stalls until its old value arrives (R147).
COMMIT_FORBIDDEN comes before the checks of its address (DESIGN CHOICE, log entry 113). -/
def satom (n : Nat) (d a b : SReg) (op : AtomOp) (_scope : BitVec 5) (s : State) : Result :=
  let x : ScalarAcc := ⟨s.g.sreg a, n, 2, a == 63⟩
  if s.inCommit s.g then s.trapS .commitForbidden
  else if s.g.full x.path then s.stall (.counter x.path)
  else
    match scalarCheck x s with
    | .done r => r
    | .go s1 flat _ => scalarIssue x ⟨true, true⟩ true (x.todo flat (.satom op n (s1.g.sreg b) (s1.g.sreg d) d)) s1

def execSatomW (d a b : SReg) (op : AtomOp) (scope : BitVec 5) (s : State) : Result := satom 4 d a b op scope s
def execSatomD (d a b : SReg) (op : AtomOp) (scope : BitVec 5) (s : State) : Result := satom 8 d a b op scope s

end Sys2Proof.Machine
end

