-- ==== Sys2Proof/Machine/Sched.lean ====
section
/-! DEFINITION. The core scheduler (R14, R194), its timers, register rows (R32, R192) and compaction (R36, R193). -/

namespace Sys2Proof.Machine

/-! ### The active set -/

/-- Places in use. -/
def State.used (s : State) (core : Nat) : Nat :=
  (((s.coreGroups core).filter fun p => p.2.st == .active).map fun p => p.2.places).sum

/-- The oldest of some groups: smallest stamp, then lowest slot. -/
def oldest (stamp : Group → Nat) : List (Nat × Group) → Option (Nat × Group)
  | [] => none
  | p :: r =>
    match oldest stamp r with
    | none => some p
    | some q => if stamp q.2 < stamp p.2 then some q else some p

/-- The time at which a group was flagged. -/
def Group.flaggedAt (g : Group) : Nat :=
  match g.starved with
  | some t => t
  | none => 0

/-- The group among those of some slots that enters next with some places vacant: the oldest starved one, alone while it does not fit;
else the oldest PENDING one that fits (R194). -/
def State.entrantOf (s : State) (slots : Nat → Bool) (core vacant : Nat) : Option Nat :=
  let pend := (s.coreGroups core).filter fun p => slots p.1 && p.2.st == .pending && s.classLets p.2
  match oldest Group.flaggedAt (pend.filter fun p => p.2.starved.isSome) with
  | some p => if p.2.places ≤ vacant then some p.1 else none
  | none => (oldest Group.age (pend.filter fun p => p.2.places ≤ vacant)).map Prod.fst

def State.entrant (s : State) (core vacant : Nat) : Option Nat := s.entrantOf (fun _ => true) core vacant

/-- One group enters a vacant place. -/
def State.enterVacant (s : State) (core : Nat) : State :=
  match s.entrant core (8 - s.used core) with
  | some k => s.setGroupAt core k { s.groupAt core k with st := .active }
  | none => s

/-- GROUP_SWAP (R16, R194). -/
def execGroupSwap (core : Nat) (s : State) : Result := .next (s.enterVacant core)

/-- STARVATION_FLAG (R194): a PENDING group that has not issued for STARVE cycles. -/
def execStarvationFlag (core slot : Nat) (s : State) : Result :=
  let g := s.groupAt core slot
  if g.st = .pending ∧ g.starved.isNone ∧ g.lastIssue + (s.coreAt core).starve.toNat ≤ s.cycles core then
    .next (s.setGroupAt core slot { g with starved := some (s.cycles core) })
  else .next s

/-- Send the youngest ACTIVE groups back to PENDING until there is room, at most `n` of them. -/
def State.makeRoom (s : State) (core need : Nat) : Nat → State
  | 0 => s
  | n + 1 =>
    if s.used core + need ≤ 8 then s
    else
      match oldest (fun g => 2 ^ 64 - g.age) ((s.coreGroups core).filter fun p => p.2.st == .active) with
      | none => s
      | some p => (s.setGroupAt core p.1 (p.2.toPending s.time (s.cycles core))).makeRoom core need n

/-- FORCED_SWAP (R194): the oldest starved group has waited STARVE further cycles, and no place that it fits was vacated: it
would have entered first. -/
def execForcedSwap (core : Nat) (s : State) : Result :=
  match oldest Group.flaggedAt ((s.coreGroups core).filter fun p => p.2.st == .pending && p.2.starved.isSome) with
  | none => .next s
  | some p =>
    if p.2.flaggedAt + (s.coreAt core).starve.toNat ≤ s.cycles core ∧ 8 < s.used core + p.2.places then
      let s1 := s.makeRoom core p.2.places 8
      .next (s1.setGroupAt core p.1 { s1.groupAt core p.1 with st := .active })
    else .next s

/-! ### Compaction -/

/-- A group that parks and is released (R193, R202): a word that waits for a queue or a row buffer is abandoned. It returns to
PENDING, or to WAITING while what it waits on is unresolved and no abandoned word can issue (Table 1-3). -/
def State.repark (s : State) (core : Nat) (g : Group) : Group :=
  let g1 := { g with abandoned := g.unfinished.map LaneWord.dropped, waitingWords := [] }
  if g.st = .active || g.st = .pending || (g.st = .waiting && (!s.scalarStuck core g1 || s.laneReady core g1)) then
    g1.toPending s.time (s.cycles core)
  else g1

/-- Compact a core's register file; no value changes (R36, R193). -/
def State.compact (s : State) (core : Nat) : State :=
  (compacted (s.coreGroups core)).foldl (fun t p =>
    if p.2.pinned then t else t.setGroupAt core p.1 (s.repark core p.2)) s

/-- A group of a core waits at RACQ, and no aligned block is free (R192). -/
def State.rowsWanted (s : State) (core : Nat) : Bool :=
  (s.coreGroups core).any fun p =>
    match p.2.sWait with
    | some (.rows n) => (allocRows (s.rowsUsed core) n p.2.places).isNone
    | _ => false

/-- COMPACTION (R36, R193): a request has found no block. A placement compacts for itself (R190). -/
def execCompaction (core : Nat) (s : State) : Result := .next (if s.rowsWanted core && s.canCompact core then s.compact core else s)

end Sys2Proof.Machine
end

