-- ==== Sys2Proof/Machine/ScalarSys.lean ====
section
/-! DEFINITION. Scalar words that act on the group, its team, its core or the module (R164, R179, R238, R294 to R300, R318 to
R324), and the events that end their waits. -/

namespace Sys2Proof.Machine

/-! ### Barriers (R295, R251) -/

/-- The team with its barrier settled. -/
def State.settledTeam (s : State) : Option Team := (s.teamOf s.g).map fun t => { t with bar := s.barrierOf s.g.team t }

/-- Write the status of a completed phase and go on. A group without a team is alone at its barrier. -/
def barDone (d : SReg) (s : State) : State :=
  (s.modG fun g => { g with barPhase := none, barWaits := false }).writeNext d (if s.teamBroken s.g.team then 1 else 0)

/-- Wait for the phase of the pending arrival, or complete. -/
def barAwait (d : SReg) (phase : Nat) (s : State) : Result :=
  match s.settledTeam with
  | none => .next (barDone d s)
  | some t => if phase < t.bar.phase then .next (barDone d (s.setTeam s.g.team t)) else (s.setTeam s.g.team t).wait .barrier

/-- Arrive in the current phase: the phase, and the state with the arrival noted. -/
def barArrive (s : State) : Nat × State :=
  match s.settledTeam with
  | none => (0, s.modG fun g => { g with barPhase := some 0 })
  | some t =>
    let t1 := { t with bar := { t.bar with arrived := t.bar.arrived ++ [s.g.gidx] } }
    (t.bar.phase, (s.setTeam s.g.team t1).modG fun g => { g with barPhase := some t.bar.phase })

/-- BAR: arrives, then waits; a BAR that waits already goes on waiting. The arrival is a release (R296): the group's earlier accesses have
performed. -/
def execBar (d : SReg) (s : State) : Result :=
  s.joinAll fun s =>
    match s.g.barPhase with
    | some ph => if s.g.barWaits then barAwait d ph s else s.trapS .illegalWait
    | none =>
      let q := barArrive s
      barAwait d q.1 (q.2.modG fun g => { g with barWaits := true })

/-- BARARRIVE, whose arrival is a release too (R296). -/
def execBararrive (d : SReg) (s : State) : Result :=
  s.joinAll fun s => if s.g.barPhase.isSome then s.trapS .illegalWait else .next ((barArrive s).2.writeNext d 0)

/-- BARWAIT. -/
def execBarwait (d : SReg) (s : State) : Result :=
  s.join fun s =>
    match s.g.barPhase with
    | none => s.trapS .illegalWait
    | some ph => barAwait d ph s

/-! ### REGROUP (R46 to R48, R294, R252) -/

/-- An arrival at REGROUP: group index and key register. -/
def regroupArrival (gidx : Nat) (v : VReg) : Nat := gidx * 1024 + v.toNat

/-- Lanes of the team in the order of key, old group, old lane (R47). -/
def regroupOrder (l : List (Nat × Nat × Group)) : List (Nat × Nat) :=
  ((l.flatMap fun (p : Nat × Nat × Group) => (List.range p.2.2.width).map fun i =>
      (((p.2.2.vreg p.2.1 i).toNat * 16 + p.2.2.gidx) * 64 + i, (p.2.2.gidx, i))).foldl
    (fun st q => sins q.1 q.2 st) ([] : Store (Nat × Nat))).map Prod.snd

/-- The registers and mask bits that come to lane `i` of the `j`-th participating group. -/
def regroupLane (l : List (Nat × Nat × Group)) (order : List (Nat × Nat)) (width j i : Nat) : Option (Group × Nat) :=
  match order[j * width + i]? with
  | none => none
  | some (gi, lane) => (l.find? fun p => p.2.2.gidx == gi).map fun p => (p.2.2, lane)

/-- The j-th participating group after the move, its REGROUP complete. -/
def regrouped (l : List (Nat × Nat × Group)) (order : List (Nat × Nat)) (time j : Nat) (g : Group) : Group :=
  let lanes := List.range g.width
  let from_ (i : Nat) : Group × Nat := match regroupLane l order g.width j i with | some q => q | none => (g, i)
  let v := (List.range g.alloc).foldl (fun v r => lanes.foldl (fun v i => sset 0 (64 * r + i) ((from_ i).1.vreg r (from_ i).2) v) v) g.v
  let m := (List.range 15).foldl (fun m k =>
    sset 0 (k + 1) (maskOf (lanes.filter fun i => ((from_ i).1.mreg (k + 1)).getLsbD (from_ i).2)) m) g.m
  let bad := (List.range g.alloc).flatMap fun r => (lanes.filter fun i => (from_ i).1.badV.contains (64 * r + (from_ i).2)).map fun i => 64 * r + i
  { g.issue time with v := v, badV := bad, m := m, em := widthMask g.width, spc := g.spc + 4, sWait := none }

/-- Trap in every participating group (R48). -/
def regroupTrap (c : Cause) (key : Nat) (l : List (Nat × Nat × Group)) (s : State) : State :=
  let s1 :=
    match s.team? key with
    | some t => s.setTeam key { t with regroup := { t.regroup with arrived := [] } }
    | none => s
  let s2 := l.foldl (fun t p =>
    ({ t with cur := { t.cur with core := p.1 / 48, slot := p.1 % 48 } }).trapEntry false c TrapInfo.none) s1
  { s2 with cur := s.cur }

/-- The first failing check of a REGROUP in which every group has arrived. -/
def regroupFails (l : List (Nat × Nat × Group)) : Option Cause :=
  if l.any (fun p => p.2.2.alloc ≤ p.2.1) then some .regOutOfBlock
  else if l.any (fun p => l.any fun q => p.2.2.alloc != q.2.2.alloc) then some .regOutOfBlock
  else if l.any (fun p => !p.2.2.rstack.isEmpty || l.any fun q => p.2.2.width != q.2.2.width) then some .illegalWait
  else none

/-- The arrivals at a team's REGROUP with the executing group's own; a group with no team is alone. -/
def State.regroupArrivals (s : State) (v : VReg) : List Nat :=
  let a := regroupArrival s.g.gidx v
  match s.teamOf s.g with
  | some t => if t.regroup.arrived.contains a then t.regroup.arrived else t.regroup.arrived ++ [a]
  | none => [a]

/-- Set what has arrived at the executing group's REGROUP, and its phase. -/
def State.setRegroup (s : State) (next : Nat) (arrived : List Nat) : State :=
  match s.teamOf s.g with
  | some t => s.setTeam s.g.team { t with regroup := ⟨t.regroup.phase + next, arrived⟩ }
  | none => s

/-- The groups that take part, with their slots' keys and key registers. -/
def State.participants (s : State) (v : VReg) (arrived : List Nat) : List (Nat × Nat × Group) :=
  if (s.teamOf s.g).isSome then s.regroupers s.g.team arrived else [(48 * s.cur.core + s.cur.slot, v.toNat, s.g)]

/-- Every group of the team has arrived. -/
def State.regroupFull (s : State) (arrived : List Nat) : Bool :=
  match s.teamOf s.g with
  | some t => s.allArrived s.g.team t (arrived.map fun x => x / 1024)
  | none => true

/-- REGROUP: a register of 640 or more is RESERVED_FIELD (R294). It waits for every group and until nothing is outstanding (R46);
a broken team traps (R252). -/
def execRegroup (v : VReg) (s : State) : Result :=
  if 640 ≤ v.toNat then s.trapS .reservedField
  else s.join fun s =>
    let arrived := s.regroupArrivals v
    let s1 := s.setRegroup 0 arrived
    let l := s1.participants v arrived
    if s.teamBroken s.g.team then .next (regroupTrap .illegalWait s.g.team l s1)
    else if !s.regroupFull arrived || l.any (fun p => !p.2.2.quiet) then s1.wait .regroup
    else
      match regroupFails l with
      | some c => .next (regroupTrap c s.g.team l s1)
      | none =>
        let s2 := s.setRegroup 1 []
        .next { s2 with
          groups := (l.zip (List.range l.length)).foldl
            (fun gs p => sset Group.init p.1.1 (regrouped l (regroupOrder l) s.now p.2 p.1.2.2) gs) s2.groups }

/-! ### Fences and waits -/

/-- FENCE: a join that waits until the group's earlier accesses have performed, for every agent; R175 allows it to wait for more
than its kind and its scope require. -/
def fenceWord (s : State) : Result := s.joinAll fun s => .next s.nextPc

def execFence (_scope : BitVec 5) (s : State) : Result := fenceWord s
def execFenceAcq (_scope : BitVec 5) (s : State) : Result := fenceWord s
def execFenceRel (_scope : BitVec 5) (s : State) : Result := fenceWord s

/-- WAITP (R149). -/
def execWaitp (p : Path) (a : SReg) (s : State) : Result :=
  s.join fun s => if s.g.count p ≤ (s.g.sreg a).toNat then .next s.nextPc else s.wait (.path p (s.g.sreg a).toNat)

/-- A blocking wait is legal (Table 8-5). -/
def handleLegal (cls : Word) (h : Handle) : Bool :=
  match h with
  | .engine _ => true
  | .task c _ => cls == 0 || (cls == 1 && c)
  | .group l _ => cls == 0 || (cls == 1 && l)
  | _ => false

/-- Write a WAITG's status and go on. -/
def waitgEnd (d : SReg) (st : Nat) (s : State) : State := (s.modG fun g => { g with deadline := none }).writeNext d (wd st)

/-- A task's handle names a record in a row that an SDUE holds: reading it waits (R386). -/
def State.handleHeld (s : State) (ctx : Nat) (h : Word) : Bool :=
  bitsOf h 62 2 == 0 && bitsOf h 0 62 < (s.ctxAt ctx).almRecords && s.rangeHeld ctx (s.recordVa ctx (bitsOf h 0 62)) 64

/-- WAITG (R179, R180, R297). -/
def execWaitg (d a b : SReg) (s : State) : Result :=
  s.join fun s =>
    let h := s.g.sreg a
    let tmo := s.g.sreg b
    if s.handleHeld s.g.ctx h then s.stall (.held ((s.deviceFlat s.g.ctx (s.recordVa s.g.ctx (bitsOf h 0 62))).getD 0) 64 false) else
    let x := s.handle s.g h
    let s := s.lookUp s.g.ctx h
    match x with
    | .bad => s.trapS .reservedField
    | .own => s.trapS .illegalWait
    | _ =>
      if tmo ≠ 0 && !handleLegal s.g.cls x then s.trapS .illegalWait
      else
        match x.status with
        | some st => .next (waitgEnd d st s)
        | none =>
          if tmo = 0 then .next (waitgEnd d stTimeout s)
          else
            let dl :=
              if s.g.sWait = some (.handle h d) then s.g.deadline
              else if tmo = BitVec.allOnes 64 then none else some (s.now + tmo.toNat)
            match dl with
            | some t =>
              if t ≤ s.now then .next (waitgEnd d stTimeout s)
              else (s.modG fun g => { g with deadline := some t }).wait (.handle h d)
            | none => (s.modG fun g => { g with deadline := none }).wait (.handle h d)

/-- Act as a group of a core. -/
def State.asGroup (s : State) (core slot : Nat) : State := { s with cur := { s.cur with core := core, slot := slot } }

/-- A WAITING group whose instruction has completed becomes PENDING (R14). -/
def State.wake (s : State) : State := s.modG fun g => if g.st = .waiting then g.toPending s.time s.now else g

/-- The deadline of a wait has passed. -/
def Group.due (g : Group) (time : Nat) : Bool :=
  match g.deadline with
  | some t => t ≤ time
  | none => false

/-- WAITG_TIMEOUT (R179). -/
def execWaitgTimeout (core slot : Nat) (s : State) : Result :=
  let s1 := s.asGroup core slot
  match s1.g.sWait with
  | some (.handle h d) =>
    if s1.g.due s1.now && (s1.handle s1.g h).status.isNone then .next (waitgEnd d stTimeout s1).wake else .next s
  | _ => .next s

/-- YIELD (R298): another group takes the place, and no starvation flag clears. -/
def execYield (s : State) : Result :=
  let flag := s.g.starved
  let s1 := s.nextPc.modG fun g => { g with starved := flag }
  match s.entrantOf (· != s.cur.slot) s.cur.core (8 - s.used s.cur.core + s.g.places) with
  | none => .next s1
  | some k =>
    let s2 := s1.modG fun g => { g.toPending s.time s.now with starved := flag }
    .next (s2.setGroupAt s.cur.core k { s2.groupAt s.cur.core k with st := .active })

/-- SLEEP (R299). -/
def execSleep (a : SReg) (s : State) : Result :=
  let n := min (s.g.sreg a).toNat 0xFFFFFFFF
  if n = 0 then .next s.nextPc
  else if s.g.sWait = some .sleep ∧ s.g.due s.now then .next (s.modG fun g => { g with deadline := none }).nextPc
  else if s.g.sWait = some .sleep then s.wait .sleep
  else (s.modG fun g => { g with deadline := some (s.now + n) }).wait .sleep

/-- SLEEP_EXPIRY (R299). -/
def execSleepExpiry (core slot : Nat) (s : State) : Result :=
  let s1 := s.asGroup core slot
  if s1.g.sWait = some .sleep ∧ s1.g.due s1.now then .next (s1.modG fun g => { g with deadline := none }).nextPc.wake
  else .next s

/-- FNFENCE (R126): every earlier FLOAD of the group has switched. One in a handler does not wait for the queue that the trap set
aside (log entry 87). -/
def execFnfence (s : State) : Result :=
  if s.g.lq.any LqItem.isSwitch then s.stall .switch else .next s.nextPc

/-! ### Register blocks (R33, R300) -/

/-- Budget codes of a kernel descriptor (Table 16-2). -/
def budgetRows (c : Nat) : Nat := if c = 1 then 64 else if c = 2 then 128 else if c = 3 then 256 else if c = 4 then 512 else 0

/-- The role budget of a group of a kernel. -/
def descBudget (d : BitVec 512) (gidx : Nat) : Nat :=
  budgetRows (if gidx < bitsOf d 20 5 then bitsOf d 32 3 else bitsOf d 35 3)

def State.budget (s : State) (g : Group) : Nat :=
  match s.gridOf g with
  | some x => descBudget x.desc g.gidx
  | none => 0

/-- Vector registers of the base block only. -/
def baseOnly (v : Store W32) : Store W32 := v.filter fun p => p.1 < 64 * 128

/-- RACQ has its rows; those of the new block read zero. -/
def racqDone (n : Nat) (rows : List Nat) (s : State) : State :=
  (s.modG fun g => { g with ext := n, extRows := rows, v := baseOnly g.v, badV := g.badV.filter fun k => k < 64 * 128 }).nextPc

/-- A group that compaction has parked while its instruction is unresolved is WAITING after it, unless its lane stream can issue
(Table 1-3). -/
def State.parkedWait (s : State) (core : Nat) (g : Group) : Group := if s.blocked core g then { g with st := .waiting } else g

/-- RACQ (R33, R192, R300): where no aligned block is free the core compacts the file, once it can, and RACQ retries. -/
def execRacq (n : Rows) (s : State) : Result :=
  s.join fun s =>
    let g := s.g
    if g.ext ≠ 0 then s.trapS .reservedField
    else if s.budget g < n.count then s.trapS .regOutOfBlock
    else
      match allocRows (s.rowsUsed s.cur.core) n.count g.places with
      | some rows => .next (racqDone n.count rows s)
      | none =>
        if !s.canCompact s.cur.core then s.wait (.rows n.count)
        else
          let s1 := s.compact s.cur.core
          match allocRows (s1.rowsUsed s.cur.core) n.count g.places with
          | some rows => .next (racqDone n.count rows s1)
          | none => .next (s1.modG fun g => s1.parkedWait s.cur.core { g with sWait := some (.rows n.count) })

/-- Free the extended block. -/
def Group.freeExt (g : Group) : Group :=
  { g with ext := 0, extRows := [], v := baseOnly g.v, badV := g.badV.filter fun k => k < 64 * 128 }

/-- RREL (R300). -/
def execRrel (s : State) : Result :=
  s.join fun s =>
    if s.g.ext = 0 then s.trapS .reservedField
    else if s.g.extLoads then s.stall .ext
    else .next (s.modG Group.freeExt).nextPc

/-! ### Tasks and the end of a group -/

/-- TLAUNCH (R187, R318); it waits as a release at MODULE scope does. -/
def execTlaunch (d a : SReg) (s : State) : Result :=
  let va := (s.g.sreg a).toNat
  let c := s.ctxAt s.g.ctx
  if va % 64 ≠ 0 then s.trapS .misaligned
  else if va < c.almBase.toNat ∨ c.almRecords ≤ (va - c.almBase.toNat) / 64 then s.protection 1 (wd va) 0
  else if s.inCommit s.g then s.trapS .commitForbidden
  else
    s.joinAll fun s =>
      let i := (va - c.almBase.toNat) / 64
      let t := s.decrement s.g.ctx i
      if t.cur.rowWait && !s.cur.rowWait then s.stall (.held ((s.deviceFlat s.g.ctx (s.recordVa s.g.ctx i)).getD 0) 64 true)
      else .next (t.writeNext d (wd i))

/-- GEXIT has joined: the group drains, and GROUP_EXIT_COMPLETE ends it. In supervisor mode the trap that the handler could
not resume counts as a fault (R237), at the TIME of this word (log entry 90). -/
def Group.leaving (g : Group) (time cyc : Nat) : Group :=
  { g.issue cyc with
    exiting := true
    fault := if g.mode = .supervisor then some (time, g.cause.setWidth 8) else g.fault }

/-- A group that ends by R237 aborts its commit task (R259). -/
def State.leave (s : State) : State :=
  let s1 := s.modG fun g => g.leaving s.time s.now
  if s.g.mode = .supervisor then s1.faultGrid s.g else s1

/-- GEXIT (R319). -/
def execGexit (s : State) : Result := s.join fun s => .next s.leave

/-- A sibling of TRETIRE stops at its next instruction boundary (R320); one of the active set parks. -/
def Group.stop (g : Group) : Group :=
  { g with
    stopped := true
    lq := []
    run := none
    abandoned := []
    waitingWords := []
    sWait := none
    lWait := none
    deadline := none
    st := if g.st = .active then .parked else g.st }

/-- TRETIRE (R320). -/
def execTretire (s : State) : Result :=
  s.join fun s =>
    let s1 := s.leave
    .next { s1 with groups := s1.groups.map fun (p : Nat × Group) =>
      if p.2.team = s.g.team ∧ p.2.gidx ≠ s.g.gidx ∧ p.2.live ∧ (s.teamOf s.g).isSome then (p.1, p.2.stop) else p }

/-- Everything that the group started has drained (R319): queue, counters, NMATOMs, matrix batches, an assist. -/
def State.drained (s : State) (core : Nat) (g : Group) : Bool :=
  g.quiet && g.nmPending == 0 && g.assistRec.isNone && g.pageReq.isNone
    && !(s.coreAt core).mcmds.any fun m => m.team == g.team && m.gidx == g.gidx && m.fault.isNone

/-- GROUP_EXIT_COMPLETE (R319, R320). A poisoned NMATOM halts the group here where no NMFENCE followed it (Table 10-3). -/
def execGroupExitComplete (core slot : Nat) (s : State) : Result :=
  let g := s.groupAt core slot
  if (g.exiting || g.stopped) && g.live && s.drained core g then
    if g.nmPoison then .next (s.haltGroup core slot false g.nextLane (s.badAt .poison 0))
    else
      let c := s.coreAt core
      let s1 := s.setCore core { c with mcmds := c.mcmds.filter fun m => !(m.team == g.team && m.gidx == g.gidx) }
      .next (s1.setGroupAt core slot { g.freeExt with ret := [], st := .exited })
  else .next s

/-! ### Traps and their return -/

/-- TRAP (R321). -/
def execTrap (a : SReg) (s : State) : Result := s.trapScalar .software (some (s.g.sreg a)) 0

/-- BKPT (R321). -/
def execBkpt (s : State) : Result := s.trapS .breakpoint

/-- The group re-enters its handler with PAGE_FAULT, KIND 0x8 (R240). -/
def Group.refused (g : Group) (h : Word) : Group :=
  { g with
    cause := wd Cause.pageFault.code
    faultprog := putBits (putBits g.faultprog 12 4 8) 24 2 0
    spc := h
    em := if g.status.getLsbD 2 then g.faultmask else 1
    sWait := none }

/-- The shadowed state returns (R238). -/
def Group.returned (g : Group) (time : Nat) : Group :=
  match g.shadow with
  | some h => (g.resumeFrom h).issue time
  | none => { (g.setMode .user).issue time with spc := g.epcs, lpc := g.epcl, sWait := none }

/-- A host page request of ERET: the group parks until the response (R240). -/
def eretAsk (s : State) : State :=
  let g := s.g
  if s.prien s.cur.core g.ctx then
    let who : Requester := if g.status.getLsbD 2 then .lane s.cur.core s.cur.slot else .scalar s.cur.core s.cur.slot
    let r : WalkReq := ⟨who, g.faultva, g.faultprog.extractLsb' 16 2, false, g.ctx⟩
    (s.sendPage s.cur.core r).modG fun g => { g.issue s.now with st := .parked, pageReq := some r }
  else s.modG fun g => (g.refused (handlerOf (s.descOn s.cur.core g.ctx))).issue s.now

/-- ERET (R238). -/
def execEret (s : State) : Result :=
  let g := s.g
  if g.mode ≠ .supervisor then s.protection 0 0 0
  else if bitsOf g.faultprog 24 2 = 3 then .next ((s.modG fun g => { g with st := .exited, fault := some (s.time, g.cause.setWidth 8) }).faultGrid g)
  else if bitsOf g.epcs 0 2 ≠ 0 then s.trapS .misaligned
  else
    s.join fun s =>
      match bitsOf g.faultprog 24 2 with
      | 0 => .next (s.modG fun g => g.returned s.now)
      | 1 =>
        match s.firstTouch g.ctx s.cur.core (dieOf s.cur.core) g.faultva.toNat with
        | (s1, .noFrame) => .next (eretAsk s1)
        | (s1, _) => .next (s1.modG fun g => g.returned s.now)
      | _ => .next (eretAsk s)

/-! ### Translation -/

/-- TLBFILL (R224). -/
def execTlbfill (a b : SReg) (s : State) : Result :=
  let g := s.g
  let lev := g.sreg a
  if g.mode ≠ .walker then s.protection 0 0 0
  else if bitsOf lev 2 62 ≠ 0 then s.trapS .reservedField
  else
    let c := s.coreAt s.cur.core
    let s1 := s.modG fun g => { g.issue s.now with st := .waiting }
    match c.walk with
    | none => .next s1
    | some r =>
      let s2 := s1.setCore s.cur.core { c with walk := none }
      match s2.fill ⟨r.who, s.cur.core, r.ctx, r.user⟩ r.kind.toNat r.va.toNat lev.toNat (g.sreg b) with
      | (s3, .fault k l) => .next (s3.setCore s.cur.core { s3.coreAt s.cur.core with verdict := some (r, k, l) })
      | (s3, .protect pa) => .next (s3.freezeRequester r (wd pa))
      | (s3, _) => .next s3

/-- Slot 47 of a core waits for its next request. -/
def State.walkerIdle (s : State) (core : Nat) : State := s.setGroupAt core 47 { s.groupAt core 47 with st := .waiting }

/-- A walk that meets an invalidation ends without a result, and its request is walked again; a result not yet taken is dropped. -/
def Core.rewalk (c : Core) (hit : WalkReq → Bool) : Core :=
  { c with
    walk := if c.walk.any hit then none else c.walk
    missed := if c.walk.any hit then c.walk.toList ++ c.missed else c.missed
    verdict := if c.verdict.any fun v => hit v.1 then none else c.verdict }

/-- Remove the entries of a context, or those that map an address, from every TLB of the module (R225). A walk in progress may be of any
frame of the page, whose size the table alone tells: those of the same 64 MiB are made again. -/
def State.dropTlb (s : State) (ctx : Nat) (va : Option Nat) : State :=
  let keep (t : TlbEntry) : Bool := !(t.ctx == ctx && (match va with | some a => t.hits ctx a | none => true))
  let asked (r : WalkReq) : Bool := r.ctx == ctx && (match va with | some a => a / 2 ^ 26 == r.va.toNat / 2 ^ 26 | none => true)
  let stopped := (s.cores.filter fun p => p.2.walk.any asked).map Prod.fst
  stopped.foldl State.walkerIdle { s with
    cores := s.cores.map fun (p : Nat × Core) => (p.1, { p.2.rewalk asked with tlb := p.2.tlb.filter keep })
    dies := s.dies.map fun (p : Nat × Die) => (p.1, { p.2 with tlb := p.2.tlb.filter keep }) }

/-- The 64 KiB pages of the entries that `dropTlb` removes: first page and count. -/
def State.tlbPages (s : State) (ctx : Nat) (va : Option Nat) : List (Nat × Nat) :=
  let hit (t : TlbEntry) : Bool := t.ctx == ctx && (match va with | some a => t.hits ctx a | none => true)
  let all := (s.cores.flatMap fun (p : Nat × Core) => p.2.tlb) ++ s.dies.flatMap fun (p : Nat × Die) => p.2.tlb
  (all.filter hit).map fun t => (frameOf t.va, 2 ^ (t.bits - 16))

/-- TLBINV (R225). -/
def execTlbinv (a b : SReg) (s : State) : Result :=
  let g := s.g
  if g.mode ≠ .supervisor then s.protection 0 0 0
  else if bitsOf (g.sreg b) 1 63 ≠ 0 then s.trapS .reservedField
  else
    s.join fun s =>
      let va := if (g.sreg b).getLsbD 0 then none else some (g.sreg a).toNat
      let old := match g.sWait with | some (.inv l) => l | _ => []
      let pages := old ++ (s.tlbPages g.ctx va).filter fun p => !old.contains p
      let s1 := s.dropTlb g.ctx va
      if s1.throughPages g.ctx pages then s1.wait (.inv pages)
      else .next s1.nextPc

/-! ### Function registers, formats, control registers -/

/-- The bank is one that the context owns on the core (R29). -/
def State.ownsBank (s : State) (ctx : Nat) (bank : Bool) : Bool := !bank || (s.descOn s.cur.core ctx).getLsbD 21

/-- The pieces of an image, at most two pages (R121): flat addresses and sizes, or the word's end. -/
def floadPieces (va : Nat) (s : State) : Nat → List Nat → State × Except Result (List (Nat × Nat))
  | _, [] => (s, .ok [])
  | n, p :: rest =>
    let a := max va (p * 65536)
    let k := min (n - (a - va)) (65536 - a % 65536)
    match s.translate s.scalarWho 0 a with
    | (s1, .busy) => (s1, .error (s1.stall (.miss s.scalarWho.req)))
    | (s1, .fault kd l) => (s1, .error (s1.trapScalar .pageFault (some (wd a)) (faultProg kd l 0 1 0)))
    | (s1, .protect pa) => (s1, .error (s1.protection 0 (wd a) (wd pa)))
    | (s1, .ok flat loc) =>
      if !s1.mayPerform s1.g s1.g.inflight s1.g.scalarSpot ⟨false, false⟩ flat k false then (s1, .error (s1.stall (.held flat k false)))
      else if loc = 3 && Config.hostRefuses s.tick then (s1, .error (s1.protection 0 (wd a) (wd flat)))
      else
        match floadPieces va s1 n rest with
        | (s2, .ok l) => (s2, .ok ((flat, k) :: l))
        | r => r

/-- Where the bytes of the pieces come from (R255). -/
def State.floadSources (s : State) (va : Nat) : List (Nat × Nat) → List Nat
  | [] => []
  | (f, k) :: r => s.sources s.g.team va f k ++ s.floadSources (va + k) r

/-- The pieces as read events: virtual and flat address and size (R261). -/
def floadReads (va : Nat) : List (Nat × Nat) → List (Nat × Nat × Nat)
  | [] => []
  | (f, k) :: r => (va, f, k) :: floadReads (va + k) r

/-- FLOAD (R120 to R123). -/
def execFload (bank : Bool) (fn : BitVec 4) (a : SReg) (s : State) : Result :=
  let g := s.g
  let va := (g.sreg a).toNat
  match s.lockAddr (dieOf s.cur.core) g.ctx false va 1024 false with
  | some l => s.trapScalar .rangeLock (some (wd l)) 0
  | none =>
  if va % 64 ≠ 0 then s.trapScalar .misaligned (some (wd va)) 0
  else if !s.ownsBank g.ctx bank then s.trapS .fnEmpty
  else
    match floadPieces va s 1024 (pagesOf [va, va + 1023]) with
    | (_, .error r) => r
    | (s1, .ok ps) =>
      let from_ := s1.floadSources va ps
      match s1.checkAt from_ with
      | (s2, some c) =>
        let i := s1.firstBadOf from_
        s2.haltScalar ⟨0, wd (va + i), wd (from_.getD i 0), c, 0, 0⟩
      | (s2, none) =>
        let bytes := (ps.foldl (fun (q : Nat × List Byte) p =>
          (q.1 + p.2, q.2 ++ s2.loadBytes (s2.windowOf g) q.1 p.1 p.2)) (va, [])).2
        let img : Image := BitVec.ofNat 8192 (ofBytes bytes)
        match imageReject img with
        | some off => s2.trapScalar .floadReject (some (wd va)) (wd off)
        | none =>
          .next ((s2.noteReads g (floadReads va ps)).modG fun g => { g with
            lq := g.lq ++ [.fswitch (if bank then 1 else 0) fn.toNat img] }).nextPc

/-- FUNCTION_REGISTER_SWITCH (R123), at the queue's head. It is a write that others may see, so the group's reads take their values first
(R174). -/
def execFunctionRegisterSwitch (s : State) : Result :=
  match s.g.lq with
  | .fswitch b f img :: r =>
    if !s.g.readsDone then .next s else
    let c := s.coreAt s.cur.core
    let k := (s.g.ctx * 2 + b) * 16 + f
    .next ((s.setCore s.cur.core { c with fn := sset 0 k img c.fn, fnBad := c.fnBad.filter fun x => x != k }).modG fun g => { g with lq := r })
  | _ => .next s

/-- LANE_QUEUE_SCALAR_EFFECT (R279), at the queue's head. -/
def execLaneQueueScalarEffect (s : State) : Result :=
  match s.g.lq with
  | .csr .fmt v :: r => .next (s.modG fun g => { g with lq := r, fmt := v })
  | .csr .rngkey v :: r => .next (s.modG fun g => { g with lq := r, rngkey := v })
  | .csr .slim v :: r => .next (s.modG fun g => { g with lq := r, slim := v })
  | .rngseed k i :: r => .next (s.modG fun g => { g with lq := r, rngkey := k, draw := i })
  | _ => .next s

/-- FMT values that R96 accepts. -/
def fmtOk (v : Word) : Bool := (v &&& ~~~0x1377) == 0 && bitsOf v 0 3 < 6 && bitsOf v 4 3 < 5

/-- SETFMT (R96, R322). -/
def execSetfmt (a : SReg) (s : State) : Result :=
  let v := s.g.sreg a
  if fmtOk v then .next (s.modG fun g => { g with fmtS := v, lq := g.lq ++ [.csr .fmt v] }).nextPc
  else s.trapS .reservedField

/-- RNGSEED (R134). -/
def execRngseed (a b : SReg) (s : State) : Result :=
  let k := s.g.sreg a
  .next (s.modG fun g => { g with rngkeyS := k, lq := g.lq ++ [.rngseed k ((g.sreg b).setWidth 31)] }).nextPc

/-- Numbers of Table 1-6, and those marked supervisor. -/
def csrKnown (r : BitVec 12) : Bool :=
  [0x000, 0x001, 0x002, 0x003, 0x004, 0x005, 0x006, 0x010, 0x011, 0x012, 0x013, 0x014, 0x020, 0x100, 0x101].contains r.toNat
def csrPrivileged (r : BitVec 12) : Bool := (1 ≤ r.toNat && r.toNat ≤ 6) || r == 0x100 || r == 0x101

/-- The value of a control register (R31, R279). -/
def State.csrRead (s : State) (r : BitVec 12) : Word :=
  let g := s.g
  match r.toNat with
  | 0x000 => g.status
  | 0x001 => g.cause
  | 0x002 => g.epcs
  | 0x003 => g.epcl
  | 0x004 => g.faultva
  | 0x005 => g.faultmask
  | 0x006 => g.faultprog
  | 0x010 => g.fmtS
  | 0x011 => g.rngkeyS
  | 0x012 => g.slimS
  | 0x013 => g.cls
  | 0x014 => g.auditclass
  | 0x020 => wd s.time
  | 0x100 => (s.coreAt s.cur.core).starve
  | _ => g.ctxid

/-- A write that R31 or the register's own table refuses with RESERVED_FIELD. -/
def csrRefuses (r : BitVec 12) (v : Word) : Bool :=
  match r.toNat with
  | 0x001 => bitsOf v 8 56 != 0
  | 0x006 => (v &&& ~~~0x37FF3FF) != 0
  | 0x010 => !fmtOk v
  | 0x100 => v.toNat < 1024 || 65536 < v.toNat
  | _ => false

/-- Write a control register; a write to one marked RO, or to an RO field, is ignored (R31). -/
def State.csrWrite (s : State) (r : BitVec 12) (v : Word) : State :=
  match r.toNat with
  | 0x002 => s.modG fun g => { g with epcs := v }
  | 0x003 => s.modG fun g => { g with epcl := v }
  | 0x004 => s.modG fun g => { g with faultva := v }
  | 0x005 => s.modG fun g => { g with faultmask := v &&& widthMask g.width }
  | 0x006 => s.modG fun g => { g with faultprog := v }
  | 0x010 => s.modG fun g => { g with fmtS := v, lq := g.lq ++ [.csr .fmt v] }
  | 0x011 => s.modG fun g => { g with rngkeyS := v, lq := g.lq ++ [.csr .rngkey v] }
  | 0x012 => s.modG fun g => { g with slimS := v, lq := g.lq ++ [.csr .slim v] }
  | 0x100 => s.setCore s.cur.core { s.coreAt s.cur.core with starve := v }
  | _ => s

/-- The checks of a CSR word (R31, R76), then its effect. -/
def csrChecked (r : BitVec 12) (v : Option Word) (f : State → Result) (s : State) : Result :=
  if !csrKnown r then s.trapS .reservedField
  else if csrPrivileged r && s.g.mode == .user then s.protection 0 0 0
  else
    match v with
    | some x => if csrRefuses r x then s.trapS .reservedField else f s
    | none => f s

/-- CSRR (R323); reading STATUS clears TMISS (R241). -/
def execCsrr (d : SReg) (r : BitVec 12) (s : State) : Result :=
  csrChecked r none (fun s =>
    let v := s.csrRead r
    let s1 := if r = 0 then s.modG fun g => { g with status := putBits g.status 24 1 0 } else s
    .next (s1.writeNext d v)) s

/-- CSRW (R323). -/
def execCsrw (a : SReg) (r : BitVec 12) (s : State) : Result :=
  csrChecked r (some (s.g.sreg a)) (fun s => .next (s.csrWrite r (s.g.sreg a)).nextPc) s

/-- CSRX (R323): the register is read before it is written. -/
def execCsrx (d a : SReg) (r : BitVec 12) (s : State) : Result :=
  csrChecked r (some (s.g.sreg a)) (fun s =>
    let v := s.csrRead r
    .next ((s.csrWrite r (s.g.sreg a)).writeNext d v)) s

/-- DEPENDENCE_RESOLVED (R14): a WAITING group returns to PENDING once what its scalar stream waits on has resolved, or its
lane stream can issue again. -/
def execDependenceResolved (core slot : Nat) (s : State) : Result :=
  let g := s.groupAt core slot
  if g.st = .waiting ∧ g.mode ≠ .walker ∧ (!s.scalarStuck core g || s.laneReady core g) then
    .next (s.setGroupAt core slot (g.toPending s.time (s.cycles core)))
  else .next s

end Sys2Proof.Machine
end

