-- ==== Sys2Proof/Machine/LaneFn.lean ====
section
/-! DEFINITION. Function, softmax, sampling and random lane words (R116 to R119, R124, R129 to R133, R348 to R350). -/

namespace Sys2Proof.Machine

/-- The image that a word's function register holds at issue (R29, R119, R124): none where it is empty or its bank is not
the context's. A word that waits for a consumer keeps the version that it bound. -/
def State.fnImage (s : State) (fn : Nat) : Option Image :=
  let img := sget 0 fn (match s.cur.lane.fn with | some b => b | none => s.boundFn)
  if s.ownsBank s.g.ctx (s.cur.lane.fmt.getLsbD 12) && img != 0 then some img else none

/-- FN_EMPTY: no lane is performed (R119, R348). -/
def fnEmptyTrap (e : Env) : LaneDo := .trap .fnEmpty e.act 0

/-- The registers among those that a word binds that hold an error (R245). -/
def State.fnErrors (s : State) (fns : List Nat) : List Nat :=
  if s.cur.lane.fn.isSome then [] else (fns.map (s.fnBase + ·)).filter (s.coreAt s.cur.core).fnBad.contains

/-- A word halts its group where a function register that it binds holds an error. -/
def State.fnChecked (s : State) (fns : List Nat) (d : LaneDo) : LaneDo := if s.fnErrors fns = [] then d else .corrupt (s.fnErrors fns)

/-- Each active lane's evaluations; the lanes that met TRAP trap together before any lane is written (R117). -/
def evalLanes {α : Type} (e : Env) (f : Nat → Option α) (flags : List (Nat × α) → Flags) (k : List (Nat × α) → LaneDo) : LaneDo :=
  let l := e.actives.map fun i => (i, f i)
  let bad := (l.filter fun (p : Nat × Option α) => p.2.isNone).map Prod.fst
  let good := l.filterMap fun (p : Nat × Option α) => p.2.map fun a => (p.1, a)
  if bad.isEmpty then k good else .trap .fnDomain (maskOf bad) (Flags.fndom ||| flags good)

/-- The FNDOM flag of an evaluation. -/
def domFlag (b : Bool) : Flags := Flags.when b Flags.fndom

/-! ### APPLY (R116, R117) -/

/-- x of R116 in a lane: read as FP32 after its modifiers. -/
def Env.fnArg (e : Env) (w : L3) (i : Nat) : FVal := e.rdF .f32 0 w.va (modOf w.mods 0) i

/-- The values of the derivative orders `ds` at x, and FNDOM; none where one meets TRAP. -/
def evalOrders (img : Image) (ds : List Bool) (x : FVal) : Option (List FVal × Bool) :=
  ds.foldr (fun d r =>
    match evalImage img d x, r with
    | .val v b, some (l, c) => some (v :: l, b || c)
    | _, _ => none) (some ([], false))

/-- APPLY and its kin: the first order to vd, the second to vd + 1. The first result always takes the lane's index j = 0 and the
derivative of APPLY2 index 1, also where the first result is exact and draws nothing (DESIGN CHOICE, log entry 93). -/
def applyWord (w : L3) (ds : List Bool) (s : State) : Result :=
  let pair := ds.length == 2
  runLane
    { L3uses w false [(w.va, false)] [] with
      binds := true
      wv := if w.cmask.getLsbD 0 then (if pair then [w.vd.toNat, w.vd.toNat + 1] else [w.vd.toNat]) else []
      even := if pair then [w.vd.toNat] else []
      named := if pair then [w.vd.toNat, w.vd.toNat + 1] else [w.vd.toNat] }
    w.mreg.toNat false (L3consumer w false) [w.va]
    (fun e =>
      s.fnChecked [bitsOf w.aux 0 4] <|
      match s.fnImage (bitsOf w.aux 0 4) with
      | none => fnEmptyTrap e
      | some img =>
        evalLanes e (fun i => evalOrders img ds (e.fnArg w i)) (fun l => domFlag (l.any fun p => p.2.2)) fun l =>
          let r (k : Nat) : List Conv := l.map fun p =>
            convElem w e s.seed w.ty p.1 k (p.2.1.getD k .qnan) (domFlag p.2.2 ||| nanFlags [e.fnArg w p.1])
          let r0 := r 0
          let r1 := if pair then r 1 else []
          .out (r0.map fun (c : Conv) => c.1) (r1.map fun (c : Conv) => (w.vd.toNat + 1, c.1)) []
            (Flags.join ((r0 ++ r1).map fun (c : Conv) => c.2.1))
            fun g => if fmtRnd e.w.fmt == 4 && (r0 ++ r1).any (fun (c : Conv) => c.2.2) then g.drew 1 else g) s

/-- APPLY (R116). -/
def execApply (w : L3) (s : State) : Result := applyWord w [false] s
/-- APPLYD (R116). -/
def execApplyd (w : L3) (s : State) : Result := applyWord w [true] s
/-- APPLY2 (R116). -/
def execApply2 (w : L3) (s : State) : Result := applyWord w [false, true] s

/-! ### Online softmax (R129, R130) -/

/-- F: an evaluation rounded to FP32 with RNE, and FNDOM. Its own rounding raises neither OVF nor UNF: the spec names FNDOM
alone for it (DESIGN CHOICE, log entry 96). -/
def evalF (img : Image) (x : FVal) : Option (FVal × Flags) :=
  match evalImage img false x with
  | .trap => none
  | .val v d => some (rneF32 v, domFlag d)

/-- A value rounded to FP32 with RNE by an internal step: a separate FSUB, or OSMERGE's product of s₂ and e₂, with its flags. A subnormal
is kept, also where FTZ is 1: R129 sends only the new s to R103 (DESIGN CHOICE, log entry 106). -/
def stepF32 (r : FVal × Flags) : FVal × Flags :=
  let f := finish .f32 Fin.rne r.1
  (decodeF .f32 f.bits, r.2 ||| f.flags)

/-- e1 and e2 of R129: 0 where the maximum is −∞, else F of the difference. -/
def expTerm (img : Image) (m m2 : FVal) : Option (FVal × Flags) :=
  if m = .inf true then some (FVal.zero false, 0)
  else
    let a := stepF32 (fSub m m2)
    (evalF img a.1).map fun r => (r.1, a.2 ||| r.2)

/-- The merge of two (m, s) pairs (R129); OSMAX's second sum is 1 and is not multiplied. -/
def softMerge (img : Image) (m s m2 : FVal) (s2 : Option FVal) : Option (FVal × FVal × Flags) :=
  let srcs := [m, s, m2] ++ s2.toList
  if srcs.any FVal.isNan then some (.qnan, .qnan, nanFlags srcs)
  else if m = .inf false || m2 = .inf false then some (.inf false, .qnan, Flags.inv)
  else
    let mx := (fMinMax true m m2).1
    match expTerm img m mx, expTerm img m2 mx with
    | some e1, some e2 =>
      let t := match s2 with | some x => stepF32 (fMul x e2.1) | none => (e2.1, 0)
      let r := fFma s e1.1 t.1
      some (mx, r.1, e1.2 ||| e2.2 ||| t.2 ||| r.2)
    | _, _ => none

/-- A half of a pair source: a special operand supplies itself. -/
def Env.pairF (e : Env) (f : Nat) (r : VReg) (hi : Bool) (i : Nat) : FVal :=
  readF .f32 e.ftz
    (if r.toNat < 640 then (e.g.vreg (r.toNat + (if hi then 1 else 0)) i).toNat else (e.src f r false i).toNat % 2 ^ 32)

/-- OSMAX and OSMERGE: the pair in vd, vd + 1 is read and written (R348). -/
def softWord (w : L3) (merge : Bool) (s : State) : Result :=
  let d := w.vd.toNat
  runLane
    { L3uses w false [(w.va, merge)] [] with
      binds := true
      rv := [d, d + 1] ++ srcRegs merge w.va
      wv := [d, d + 1]
      even := d :: pairFirst merge w.va }
    w.mreg.toNat false (L3consumer w false) [w.va]
    (fun e =>
      s.fnChecked [bitsOf w.aux 0 4] <|
      match s.fnImage (bitsOf w.aux 0 4) with
      | none => fnEmptyTrap e
      | some img =>
        let lane (i : Nat) : Option (FVal × FVal × Flags) :=
          softMerge img (e.pairF 0 w.vd false i) (e.pairF 0 w.vd true i) (e.pairF 0 w.va false i)
            (if merge then some (e.pairF 0 w.va true i) else none)
        evalLanes e lane (fun _ => 0) fun l =>
          let sums := l.map fun p => (fElem p.1 (finish .f32 ⟨.rne, none, 0, 0, e.ftz⟩ p.2.2.1) p.2.2.2)
          .out (l.map fun p => Elem.plain p.1 (wd (finish .f32 Fin.rne p.2.1).bits)) (sums.map fun q => (d + 1, q.1)) []
            (Flags.join (sums.map Prod.snd)) id) s

/-- OSMAX (R129). -/
def execOsmax (w : L3) (s : State) : Result := softWord w false s
/-- OSMERGE (R129). -/
def execOsmerge (w : L3) (s : State) : Result := softWord w true s

/-- OSNORM of a lane before its final rounding (R130). -/
def softNorm (fe fr : Image) (x m s : FVal) : Option (FVal × Flags) :=
  let f := nanFlags [x, m, s]
  if m = .inf true then some (FVal.zero false, f ||| Flags.fmrow)
  else if x = .inf true then some (FVal.zero false, f)
  else if x.isNan || m.isNan || s.isNan then some (.qnan, f)
  else
    let a := stepF32 (fSub x m)
    match evalF fe a.1, evalF fr s with
    | some p, some q =>
      let r := fMul p.1 q.1
      some (r.1, f ||| a.2 ||| p.2 ||| q.2 ||| r.2)
    | _, _ => none

/-- OSNORM (R130): (m, s) from the vb pair. -/
def execOsnorm (w : L3) (s : State) : Result :=
  runLane { L3uses w false [(w.va, false), (w.vb, true)] [] with binds := true } w.mreg.toNat false (L3consumer w false) [w.va, w.vb]
    (fun e =>
      s.fnChecked [bitsOf w.aux 0 4, bitsOf w.aux 4 4] <|
      match s.fnImage (bitsOf w.aux 0 4), s.fnImage (bitsOf w.aux 4 4) with
      | some fe, some fr =>
        evalLanes e (fun i => softNorm fe fr (e.rdF .f32 0 w.va 0 i) (e.pairF 1 w.vb false i) (e.pairF 1 w.vb true i)) (fun _ => 0)
          fun l => .elems (l.map fun p => fElem p.1 (finish .f32 ⟨.rne, none, 0, 0, e.ftz⟩ p.2.1) p.2.2)
      | _, _ => fnEmptyTrap e) s

/-! ### SAMPLE (R131, R132) -/

/-- A cleaned weight and its flags (R131). -/
def cleanWeight (v : FVal) : FVal × Flags :=
  if v.isNan then (FVal.zero false, Flags.snan)
  else if v.isZero then (FVal.zero false, 0)
  else if v.neg? then (FVal.zero false, Flags.inv)
  else (v, 0)

/-- u as SAMPLE takes it (R131). -/
def cleanU (u : FVal) : FVal × Flags :=
  if u.isNan || (u.neg? && !u.isZero) then (FVal.zero false, Flags.inv)
  else if leV FVal.one u then (decodeF .f32 0x3F7FFFFF, Flags.inv)
  else (u, 0)

/-- The steps of a prefix tree (Table 5-10): distances below a width, in order. -/
def distances (width : Nat) : List Nat := [1, 2, 4, 8, 16, 32].filter (· < width)

/-- One step of the prefix sums. -/
def sumStep (p : List FVal) (dist : Nat) : List FVal :=
  p.zipIdx.map fun (q : FVal × Nat) =>
    if q.2 < dist then q.1 else rneF32 (fAdd (p.getD (q.2 - dist) (FVal.zero false)) q.1).1

/-- The first index whose value satisfies a condition. -/
def firstIdx (l : List FVal) (c : FVal → Bool) : Option Nat := (l.zipIdx.find? fun (p : FVal × Nat) => c p.1).map Prod.snd

/-- The index that SAMPLE selects, with its flags, from cleaned weights and u (R132). -/
def samplePick (w : List FVal) (u : FVal) : Int × Flags :=
  match firstIdx w FVal.isInf with
  | some i => (i, 0)
  | none =>
    let p := (distances w.length).foldl sumStep w
    let t := p.getLastD (FVal.zero false)
    if t.isZero then (-1, Flags.smpz)
    else if t.isInf then (((firstIdx p FVal.isInf).getD 0 : Nat), Flags.ovf)
    else
      let target := rneF32 (fMul u t).1
      match firstIdx p fun v => ltV target v with
      | some i => (i, 0)
      | none => (((w.zipIdx.filter fun (q : FVal × Nat) => !q.1.isZero).map Prod.snd).getLastD 0, 0)

/-- SAMPLE (R131, R132, R349): va is read in every lane and vb in lane 0, so an error there halts the group (R245). -/
def execSample (w : L3) (s : State) : Result :=
  runLane { L3uses w false [(w.va, false), (w.vb, false)] [] with far := farOf [w.va, w.vb] false (srcRegs false w.va) 1 }
    w.mreg.toNat false (L3consumer w false) [w.va, w.vb]
    (fun e =>
      if s.elemBad [w.va, w.vb] 1 false 0 || e.lanes.any (s.elemBad [w.va, w.vb] 0 false) then .hurt e.act else
      let ws := e.lanes.map fun i => if e.act.getLsbD i then cleanWeight (e.rdF .f32 0 w.va 0 i) else (FVal.zero false, 0)
      let u := cleanU (e.rdF .f32 1 w.vb 0 0)
      let r := samplePick (ws.map Prod.fst) u.1
      .out (e.actives.map fun i => Elem.plain i (placeI .s32 r.1)) [] []
        (Flags.join (ws.map Prod.snd) ||| u.2 ||| r.2) id) s

/-! ### RAND (R133, R350) -/

/-- A draw as its type writes it. -/
def randValue (t : EType) (x : W32) : Word :=
  if t = .f32 then wd (finish .f32 Fin.rne (.num false (x.toNat / 256) (-24))).bits else x.setWidth 64

/-- RAND: words 0 to n − 1 of one call per active lane; vd is a multiple of n, or the word traps with MISALIGNED. -/
def execRand (w : L3) (s : State) : Result :=
  let n := 2 ^ w.aux.toNat
  let d := w.vd.toNat
  runLane
    { L3uses w false [] [] with
      wv := (List.range n).map (d + ·)
      even := if d % n = 0 then [] else [1] }
    w.mreg.toNat false (L3consumer w false) []
    (fun e =>
      let word (i j : Nat) : Word :=
        randValue w.ty (philox e.g.rngkey s.seed (BitVec.ofNat 32 e.g.order) (e.g.draw.setWidth 32) (BitVec.ofNat 32 i) j)
      .out (e.actives.map fun i => Elem.plain i (word i 0))
        (e.actives.flatMap fun i => (List.range (n - 1)).map fun j => (d + 1 + j, Elem.plain i (word i (j + 1)))) [] 0
        fun g => { g with draw := g.draw + 1 }) s

end Sys2Proof.Machine
end

