-- ==== Sys2Proof/Machine/LaneIssue.lean ====
section
/-! DEFINITION. Lane words whose effect reaches beyond the group's registers: the decode checks, the waits and the pops, then an
effect on the whole state; and the order of lanes that the manual leaves open (R158). -/

namespace Sys2Proof.Machine

/-- Run a word whose effect needs the state: `k` gets what the word reads with, and the step that ends the word. -/
def laneIssue (u : Uses) (mreg : Nat) (matrix : Bool) (fields : List VReg) (k : Env → (State → State) → Result) (s : State) : Result :=
  match s.laneChecks u false matrix with
  | some e => s.laneReject e mreg
  | none =>
    match s.issueWait u with
    | some w => .next (s.laneStalled w)
    | none =>
      match popFields (rowsPer s.g.width) (s.teamBroken s.g.team) fields s.queues with
      | none => .next (s.laneStalled (.queues (queueFields fields)))
      | some (q, rows, f) =>
        if s.badLanes u fields mreg ≠ 0 then .next (s.haltLane (s.badAt .uncorrectable (s.badLanes u fields mreg)))
        else
          k ⟨s.g.withDraws s.cur.lane, s.cur.lane, rows, s.active mreg, s.nprodOf⟩ fun t =>
            (((t.popBad fields).setQueues q).modG fun g => g.raise f).laneNext u

/-- Insert by a key. -/
def insertBy {α : Type} (key : α → Nat) (a : α) : List α → List α
  | [] => [a]
  | b :: r => if key a ≤ key b then a :: b :: r else b :: insertBy key a r

/-- The order in which lanes act at the memory side: free where two of them meet at one address (R158, R365, R369). -/
def State.openOrder {α : Type} (s : State) (lane addr : α → Nat) (l : List α) : List α :=
  if (l.map addr).Nodup then l else l.foldr (insertBy fun x => Config.freeOrder s.tick (lane x)) []

end Sys2Proof.Machine
end

