-- ==== Sys2Proof/Machine/LaneMem.lean ====
section
/-! DEFINITION. Lane memory words (R361 to R370), operand prefetch (R371) and accumulator access (R372 to R374). -/

namespace Sys2Proof.Machine

/-! ### Addresses -/

/-- One access of a lane: the register of a group of registers, the lane, the address or window offset, the bytes. -/
structure LaneAcc where
  reg : Nat
  lane : Nat
  va : Nat
  n : Nat
  deriving DecidableEq, Repr

/-- An access and where it lands: its flat address and LOC. -/
abbrev Landed := LaneAcc × Nat × Nat

/-- A lane's element of the offset, the last of the word's source fields. A replay of VLDM or VSTM past its first register keeps what
the word read before that register (R364). -/
def laneOffset (w : LM) (e : Env) (i : Nat) : W32 :=
  match e.w.offs with
  | some o => if e.w.prog = 0 then (e.src (e.rows.length - 1) w.vo false i).setWidth 32 else sget 0 i o
  | none => (e.src (e.rows.length - 1) w.vo false i).setWidth 32

/-- addr(i) of R65, with the block's k copy. -/
def laneAddr (w : LM) (e : Env) (i : Nat) : Word :=
  sget 0 w.kb.toNat e.w.k + ((laneOffset w e i).signExtend 64) <<< w.scl.toNat + w.imm.signExtend 64

/-- The executing word keeps its offsets for a replay. -/
def State.keepOffsets (s : State) (w : LM) (e : Env) : State :=
  { s with cur := { s.cur with lane := { s.cur.lane with
      offs := some (e.lanes.foldl (fun l i => sset 0 i (laneOffset w e i) l) []) } } }

def lmPath (w : LM) : Path :=
  match Path.ofCode w.path with
  | some p => p
  | none => .glb

/-- The executing group as a requester of its lane stream. -/
def State.laneWho (s : State) : Who := ⟨.lane s.cur.core s.cur.slot, s.cur.core, s.g.ctx, s.g.mode == .user⟩

/-- Base and size of the vault window of the group's team (R141). -/
def State.vaultWindow (s : State) : Nat × Nat :=
  match s.teamOf s.g with
  | some t => (t.base, t.wsize)
  | none => (0, 0)

/-! ### The checks before translation (R155, R141, R143, R136, in the order of R236) -/

/-- A failing check: its cause, the lowest of the failing accesses' addresses, and the lanes; none where no access fails. -/
def failingAt (c : Cause) (l : List (LaneAcc × Nat)) : Option (Cause × Nat × Word) :=
  match l with
  | [] => none
  | x :: r => some (c, r.foldl (fun m y => min m y.2) x.2, maskOf (l.map fun (y : LaneAcc × Nat) => y.1.lane))

def failing (c : Cause) (l : List LaneAcc) : Option (Cause × Nat × Word) := failingAt c (l.map fun x => (x, x.va))

/-- The first failing check of a word's accesses. -/
def State.accessChecks (s : State) (path : Path) (kind : Nat) (l : List LaneAcc) : Option (Cause × Nat × Word) :=
  let die := dieOf s.cur.core
  let win := s.vaultWindow
  let locked (x : LaneAcc) : Option (LaneAcc × Nat) :=
    if path = .vlt then
      if x.va < win.2 then (s.lockAddr die s.g.ctx true (win.1 + x.va) x.n (kind != 0)).map fun a => (x, a - win.1) else none
    else (s.lockAddr die s.g.ctx false x.va x.n (kind != 0)).map fun a => (x, a)
  (failingAt .rangeLock (l.filterMap locked))
    <|> (failing .scratchBounds (l.filter fun x => path == .vlt && win.2 ≤ x.va))
    <|> (failing .stackLimit (l.filter fun x => path == .stk && x.va < s.g.slim.toNat))
    <|> (failing .misaligned (l.filter fun x => x.va % x.n != 0))

/-! ### Translation (R220, R233, R234) -/

/-- What translating some accesses comes to: those that land, whether a tier page was met, and those that fault. -/
inductive Landing where
  | busy
  | protect (va pa : Nat)
  | ok (good : List Landed) (tier : Bool) (bad : List (LaneAcc × Nat × Nat))
  deriving DecidableEq, Repr

/-- The level of the leaf that maps an address, as the TLBs hold it. -/
def State.leafLevel (s : State) (ctx va : Nat) : Nat :=
  match (s.dieAt (dieOf s.cur.core)).tlb.find? fun (t : TlbEntry) => t.hits ctx va with
  | some t => if t.bits = 26 then 1 else 0
  | none => 0

/-- Whether a page's answer violates protection: the frame's address. -/
def protectedPage (p : Nat × Xlat) : Option (Nat × Nat) :=
  match p.2 with
  | .protect pa => some (p.1, pa)
  | _ => none

/-- Classify accesses by their page's answer. A tier page lets no GLB or STK access perform (R241), and an NMATOM faults
on every page outside the module's DRAM (R369). -/
def State.classify (s : State) (path : Path) (m : List (Nat × Xlat)) : List LaneAcc → Landing
  | [] => .ok [] false []
  | x :: r =>
    match s.classify path m r with
    | .ok good tier bad =>
      match atPage m x.va with
      | .ok flat loc =>
        if path = .nma ∧ loc ≠ 0 then .ok good tier ((x, 7, s.leafLevel s.g.ctx x.va) :: bad)
        else if loc = 1 ∧ path ≠ .fab then .ok good true bad
        else .ok ((x, flat, loc) :: good) tier bad
      | .fault k l => .ok good tier ((x, k, l) :: bad)
      | .protect pa => .protect x.va pa
      | .busy => .busy
    | b => b

/-- Translate accesses: every distinct page is looked up before any lane performs (R220). -/
def State.land (s : State) (path : Path) (kind : Nat) (l : List LaneAcc) : State × Landing :=
  if path = .vlt then
    (s, .ok (l.map fun (x : LaneAcc) => (x, vaultFlat (dieOf s.cur.core) (s.vaultWindow.1 + x.va), 0)) false [])
  else
    match s.translatePages s.laneWho kind (pagesOf (l.flatMap fun (x : LaneAcc) => [x.va, x.va + x.n - 1])) with
    | (s1, m) =>
      if m.any fun p => p.2 == .busy then (s1, .busy)
      else
        match m.findSome? protectedPage with
        | some (p, pa) =>
          (s1, .protect ((l.filter fun (x : LaneAcc) => frameOf x.va == p).foldl (fun v x => min v x.va) (p * 65536 + 65535)) pa)
        | none => (s1, s1.classify path m l)

/-- Translate registers in ascending order, up to the first that faults in some lane (R234). -/
def State.landRows (s : State) (path : Path) (kind : Nat) : List (List LaneAcc) → State × Landing
  | [] => (s, .ok [] false [])
  | row :: rest =>
    match s.land path kind row with
    | (s1, .ok good tier []) =>
      match s1.landRows path kind rest with
      | (s2, .ok good2 tier2 bad) => (s2, .ok (good ++ good2) (tier || tier2) bad)
      | x => x
    | (s1, .ok _ _ bad) => (s1, .ok [] false bad)
    | x => x

/-! ### Performing -/

/-- rd of a data source: with FTZ a subnormal FP32, FP16 or BF16 element reads as a zero of its sign (R326, R103). -/
def flushed (t : EType) (ftz : Bool) (x : Word) : Word :=
  if ftz && flushes t && (readF t true (x.toNat % 2 ^ t.bits)).isZero then x &&& wd (2 ^ (t.bits - 1)) else x

/-- The low bytes of a lane's element of a data source, the word's source field `f` (R362, Table 2-11). -/
def storeElem (e : Env) (t : EType) (f : Nat) (r : VReg) (lane : Nat) : List Byte :=
  toBytes (t.bits / 8) (flushed t e.ftz (e.src f r t.is64 lane)).toNat

/-- The pages of accesses that a translation serves (R225). -/
def accessPages (path : Path) (l : List Landed) : List Nat :=
  if path = .vlt then [] else pagesOf (l.map fun (x : Landed) => x.1.va)

/-! ### A memory word -/

/-- FAULTPROG and the end of a word some of whose accesses fault (R232 to R234). -/
def faultLanes (path : Path) (kind : Nat) (mask : Word) (prog : Nat) (bad : List (LaneAcc × Nat × Nat)) (s : State) : Result :=
  match bad with
  | [] => .next s
  | x :: r =>
    let low := r.foldl (fun (m : LaneAcc × Nat × Nat) y => if y.1.va < m.1.va then y else m) x
    s.trapLane .pageFault (some (wd low.1.va)) mask (faultProg low.2.1 low.2.2 kind path.code.toNat prog)

/-- The line of a buffered store that does not fit in the commit window (R257). -/
def State.overflows (s : State) (path : Path) (kind : Nat) (good : List Landed) : Option Nat :=
  if path = .glb && kind == 1 && s.inCommit s.g then
    overflowLine (s.windowOf s.g) (s.windowRoom s.g) (good.map fun (x : Landed) => (x.1.va, x.1.n))
  else none

/-- Accesses that a commit task forbids (R256). -/
def State.forbidden (s : State) (path : Path) (kind : Nat) : Bool :=
  s.inCommit s.g && (path == .nma || (path == .glb && kind == 2) || (path == .fab && kind == 1))

/-! ### The accesses of a word -/

/-- What a landed access does when it performs. -/
def todoOf (f : LaneAcc → MemAct) (x : Landed) : Todo := ⟨x.1.lane, maskOf [x.1.lane], x.1.va, x.2.1, x.1.n, f x.1, x.1.reg⟩

/-- Order attributes of VLD, VLDV, VST and VSTV (R65, Table 7-1); other words carry none. The model orders the group's own accesses by
them whatever their scope, which R175 allows (log entry 13). -/
def lmOrder (w : LM) (kind : Nat) (multi : Bool) : Order :=
  if multi then ⟨false, false⟩ else ⟨kind == 0 && bitsOf w.aux 0 2 == 1, kind == 1 && bitsOf w.aux 0 2 == 2⟩

/-- A lane word's access. -/
def State.laneNew (s : State) (path : Path) (o : Order) (good : List Landed) : Access :=
  newAccess path s.g.laneSpot o s.cur.lane.lpc (accessPages path good)

/-- GLB stores of a commit task are buffered (R255); of lanes that store to one place any may be the last (R158, log entry 62). -/
def State.bufferTodos (s : State) (l : List Todo) : State :=
  s.bufferAll s.g.team ((s.openOrder (fun (x : Todo) => 64 * x.lane + x.prog) Todo.va l).map fun x => (x.va, match x.act with | .store b => b | _ => []))

/-- NMATOM (R369): each lane's atomic joins the queue of its line's stack, lanes that meet at one address in any order (R158, log entry
62). -/
def State.queueAtoms (s : State) (w : LM) (l : List Todo) : State :=
  let g := s.g
  ((s.openOrder Todo.lane Todo.flat l).foldl (fun (t : State) x =>
    let k := t.stackAt (stackOf x.flat)
    let v : W32 := match x.act with | .rmw _ _ _ v _ _ _ => v | _ => 0
    t.setStack (stackOf x.flat) { k with atoms := k.atoms ++ [⟨x.va, x.flat, w.ty, w.aux.setWidth 2, v, s.cur.core, g.team, g.gidx, g.ctx, s.nextCmd⟩] }) s).modG
      fun g => { g with nmPending := g.nmPending + l.length }

/-- The accesses of a word in a lane's order: buffered, queued at their SDUE, or issued; none where the word must wait. Those of a
word that then traps perform all (R233, R234). A word that faults in translation is counted on its path, and again when it is replayed; one
that fails an earlier check is not (R147 does not say: DESIGN CHOICE, log entry 112). -/
def laneAccess (w : LM) (kind : Nat) (returns all : Bool) (a : Access) (l : List Todo) (s : State) : Option (State × Option Bad) :=
  let clear := l.all fun t => s.mayPerform s.g s.g.inflight a.spot a.order t.flat t.n t.act.writes
  if a.path = .nma then
    if s.g.performed then some ((s.queueAtoms w l).modG fun g => g.track a, none) else none
  else if a.path = .glb && kind == 1 && s.inCommit s.g then
    if clear then some ((s.bufferTodos l).modG fun g => g.track a, none) else none
  else if all then
    if clear then some (s.issueAccess a returns 0 l) else none
  else some (s.issueAccess a returns s.cur.late l)

/-- The word's accesses, then its end: the group halts at bad data, traps at faults, or the word has issued. The host may refuse an
access (R242). -/
def performWord (w : LM) (kind : Nat) (returns multi : Bool) (good : List Landed) (tier : Bool) (l : List Todo)
    (fault : Option (State → Result)) (finish : State → State) (s : State) : Result :=
  let path := lmPath w
  match if Config.hostRefuses s.tick then good.find? fun (x : Landed) => x.2.2 == 3 else none with
  | some x => s.protection kind (wd x.1.va) (wd x.2.1)
  | none =>
    let s0 := if tier then s.modG Group.tmiss else s
    let o := lmOrder w kind multi
    match laneAccess w kind returns fault.isSome (s0.laneNew path o good) l s0 with
    | none => .next (s.laneStall (if path = .nma then .performed else .held o (l.map fun t => (t.flat, t.n, t.act.writes))))
    | some (s1, some b) => .next (s1.haltLane b)
    | some (s1, none) =>
      match fault with
      | some k => k s1
      | none => .next (finish s1)

/-- A lane memory word (R361): rows of accesses, each row one unit of completion where `multi` holds (R234). Its source
fields are the operands `data` that it stores or combines, and then the offset (log entry 85). COMMIT_FORBIDDEN comes before the checks of
its addresses (R236 and R256 give no order: DESIGN CHOICE, log entry 113). -/
def memWord (w : LM) (u : Uses) (kind : Nat) (returns multi : Bool) (data : List VReg) (rows : Env → List (List LaneAcc))
    (acts : Env → List Landed → List Todo) (s : State) : Result :=
  let path := lmPath w
  if (s.laneChecks u false false).isNone && !s.mustWait u && s.g.full path then .next (s.laneStalled (.counter path))
  else
    laneIssue u w.mreg.toNat false (data ++ [w.vo])
      (fun e fin =>
        let s0 := if multi then s.keepOffsets w e else s
        let rs := rows e
        let all := rs.flatten
        let prog := if multi then s.cur.lane.prog else 0
        if s.forbidden path kind then s.trapLane .commitForbidden none e.act (wd prog)
        else
          match s.accessChecks path kind all with
          | some (c, va, m) => s0.trapLane c (some (wd va)) m (wd prog)
          | none =>
            match if multi then s0.landRows path kind rs else s0.land path kind all with
            | (s1, .busy) => .next (s1.laneStall (.miss s.laneWho.req))
            | (s1, .protect va pa) => s1.protection kind (wd va) (wd pa)
            | (s1, .ok good tier bad) =>
              match s1.overflows path kind good with
              | some line => s1.trapLane .commitOverflow (some (wd line)) e.act (wd prog)
              | none =>
                let mask := if multi then e.act else maskOf (bad.map fun (x : LaneAcc × Nat × Nat) => x.1.lane)
                let at_ := match bad with | x :: _ => if multi then x.1.reg else 0 | [] => 0
                performWord w kind returns multi good tier (acts e good)
                  (if bad.isEmpty then none else some (faultLanes path kind mask at_ bad)) fin s1) s

/-- Registers that a memory word reads and writes beside its offset. -/
def memUses (w : LM) (rv wv even : List Nat) : Uses :=
  ⟨srcRegs false w.vo ++ rv, wv, maskRegs w.mreg.toNat, [], even, w.look.toNat, [], [], false⟩

/-- The registers of a data operand of the word's type. -/
def lmRegs (w : LM) : List Nat := dstRegs w.ty.is64 w.vd
/-- Its alignment: an even first register of a pair. -/
def lmEven (w : LM) : List Nat := pairFirst w.ty.is64 w.vd

/-- One row: an access of `n` bytes in each active lane. -/
def oneRow (w : LM) (n : Nat) (e : Env) : List (List LaneAcc) :=
  [e.actives.map fun i => ⟨0, i, (laneAddr w e i).toNat, n⟩]

/-- The registers among `n` data operands from `vd`: none where they are special operands (R39). -/
def dataRegs (w : LM) (n : Nat) : List Nat := if w.vd.toNat < 640 then (List.range n).map (w.vd.toNat + ·) else []

/-- The operands of lane i's data: source field `j`, operand `vd + j`. -/
def dataAt (w : LM) (e : Env) (ftz : Bool) (j i : Nat) : W32 :=
  (flushed w.ty ftz (e.src j (w.vd + BitVec.ofNat 10 j) false i)).setWidth 32

/-- VLD (R362). -/
def execVld (w : LM) (s : State) : Result :=
  memWord w (memUses w [] (lmRegs w) (lmEven w)) 0 true false [] (oneRow w (w.ty.bits / 8))
    (fun _ => List.map (todoOf fun _ => .load w.ty w.vd.toNat 1)) s

/-- VST (R362). -/
def execVst (w : LM) (s : State) : Result :=
  memWord w (memUses w (srcRegs w.ty.is64 w.vd) [] (lmEven w)) 1 false false [w.vd] (oneRow w (w.ty.bits / 8))
    (fun e => List.map (todoOf fun x => .store (storeElem e w.ty 0 w.vd x.lane))) s

/-- Elements of a short vector (R363). -/
def lmVecN (w : LM) : Nat := 2 ^ (bitsOf w.aux 2 2 + 1)

/-- A register that is no multiple of N is misaligned: an odd number in the list of first registers. -/
def groupEven (n first : Nat) : List Nat := if first % n = 0 then [] else [1]

/-- VLDV (R363). -/
def execVldv (w : LM) (s : State) : Result :=
  let n := (lmVecN w)
  memWord w (memUses w [] ((List.range n).map (w.vd.toNat + ·)) (groupEven n w.vd.toNat)) 0 true false [] (oneRow w (n * (w.ty.bits / 8)))
    (fun _ => List.map (todoOf fun _ => .load w.ty w.vd.toNat n)) s

/-- VSTV (R363). -/
def execVstv (w : LM) (s : State) : Result :=
  let n := (lmVecN w)
  memWord w (memUses w (dataRegs w n) [] (groupEven n w.vd.toNat)) 1 false false ((List.range n).map fun j => w.vd + BitVec.ofNat 10 j)
    (oneRow w (n * (w.ty.bits / 8)))
    (fun e => List.map (todoOf fun x => .store ((List.range n).flatMap fun j => storeElem e w.ty j (w.vd + BitVec.ofNat 10 j) x.lane))) s

/-- N and B of VLDM and VSTM (R364). -/
def lmN (w : LM) : Nat := bitsOf w.aux 0 6 + 1
def lmB (w : LM) : Nat := 4 * 2 ^ bitsOf w.aux 6 4

/-- The registers still to transfer: from FAULTPROG.PROG on replay (R364). -/
def multiRows (w : LM) (e : Env) : List (List LaneAcc) :=
  ((List.range (lmN w)).drop e.w.prog).map fun j =>
    e.actives.map fun i => ⟨j, i, (laneAddr w e i + wd (j * (lmB w))).toNat, 4⟩

/-- VLDM (R364, R234). -/
def execVldm (w : LM) (s : State) : Result :=
  memWord w (memUses w [] ((List.range (lmN w)).map (w.vd.toNat + ·)) []) 0 true true [] (multiRows w)
    (fun _ => List.map (todoOf fun x => .load .b32 (w.vd.toNat + x.reg) 1)) s

/-- VSTM (R364, R234). -/
def execVstm (w : LM) (s : State) : Result :=
  memWord w (memUses w ((List.range (lmN w)).map (w.vd.toNat + ·)) [] []) 1 false true [] (multiRows w)
    (fun e => List.map (todoOf fun x => .store (storeElem e .b32 0 (w.vd + BitVec.ofNat 10 x.reg) x.lane))) s

/-- VATOM (R365): cas names a pair, the new value and the comparand. -/
def execVatom (w : LM) (s : State) : Result :=
  let d := w.vd.toNat
  let ret := w.aux.getLsbD 3
  let cas := w.atomOp == .cas
  let n := if cas then 2 else 1
  memWord w (memUses w (dataRegs w n) (if ret then [d] else []) (if cas then [d] else [])) 2 ret false
    ((List.range n).map fun j => w.vd + BitVec.ofNat 10 j) (oneRow w 4)
    (fun e => List.map (todoOf fun x =>
      .rmw w.atomOp w.ty e.ftz (dataAt w e e.ftz 0 x.lane) (dataAt w e e.ftz 1 x.lane) 0 (if ret then some (64 * d + x.lane) else none))) s

/-- The operands of lanes of equal address, as the program names it, folded into the first, in ascending lane order, with flags (R366). -/
def foldOperands (op : AtomOp) (t : EType) (ftz : Bool) (v : Nat → W32) : List Landed → List Todo → List Todo
  | [], acc => acc
  | x :: r, acc =>
    foldOperands op t ftz v r
      (if acc.any fun p => p.va == x.1.va then
        acc.map fun p =>
          match p.act with
          | .rmw op t ftz a c f d =>
            if p.va = x.1.va then
              let q := atomNew op t ftz a (v x.1.lane) 0
              { p with act := .rmw op t ftz q.1 c (f ||| q.2) d, mask := p.mask ||| maskOf [x.1.lane] }
            else p
          | _ => p
      else acc ++ [todoOf (fun y => .rmw op t ftz (v y.lane) 0 0 none) x])

/-- VATOMV (R366): one read-modify-write for each distinct address. -/
def execVatomv (w : LM) (s : State) : Result :=
  memWord w (memUses w (dataRegs w 1) [] []) 2 false false [w.vd] (oneRow w 4)
    (fun e l => foldOperands w.atomOp w.ty e.ftz (dataAt w e e.ftz 0) l []) s

/-- VPREF (R367): timing only; it raises no counter and never traps after decode. -/
def execVpref (w : LM) (s : State) : Result :=
  laneIssue (memUses w [] [] []) w.mreg.toNat false [w.vo] (fun _ fin => .next (fin s)) s

/-- NMATOM (R369): it ignores FTZ. -/
def execNmatom (w : LM) (s : State) : Result :=
  memWord w (memUses w (dataRegs w 1) [] []) 2 false false [w.vd] (oneRow w 4)
    (fun e => List.map (todoOf fun x => .rmw .add w.ty false (dataAt w e false 0 x.lane) 0 0 none)) s

/-! ### NMFENCE, RPF -/

/-- NMFENCE (R370): a poisoned NMATOM halts the group here (Table 10-3). -/
def execNmfence (_w : L3) (s : State) : Result :=
  laneIssue Uses.empty 0 false []
    (fun _ fin =>
      if s.g.nmPending ≠ 0 then .next (s.laneStall .nmfence)
      else if s.g.nmPoison then .next (s.haltLane (s.badAt .poison 0))
      else .next (fin s)) s

/-- RPF (R371): names the fast-buffer list; it waits for data on its way to a listed register (R368), and names no
register for the lookahead check, since it changes and uses no value. -/
def execRpf (w : L3) (s : State) : Result :=
  if w.rpfList.any fun r => s.g.alloc ≤ r then s.laneReject .regOutOfBlock 0
  else if w.rpfList.any s.g.pending then .next (s.laneStall (.data w.rpfList))
  else laneIssue Uses.empty 0 false [] (fun _ fin => .next (fin (s.modG fun g => { g with rpf := w.rpfList }))) s

/-! ### Accumulators (R372 to R374) -/

/-- A registered B slice reserves its accumulator (R306). -/
def State.accReserved (s : State) (core acc : Nat) : Bool :=
  (s.dieAt (dieOf core)).regs.any fun r => r.core == core && r.acc == acc

/-- The core's matrix unit with some accumulator elements written. -/
def Matrix.accSet (m : Matrix) (acc pos : Nat) (x : W32) : Matrix := { m with acc := sset 0 (acc * 16384 + pos) x m.acc }
def Matrix.accGet (m : Matrix) (acc pos : Nat) : W32 := sget 0 (acc * 16384 + pos) m.acc

/-- An accumulator word: R30 and R306 first, then the commands before it, the positions, and poison. -/
def accWord (w : L3) (u : Uses) (fields : List VReg) (posField : Nat) (posReg : VReg) (poisons : Bool)
    (k : Env → (Nat → Nat) → (State → State) → Result) (s : State) : Result :=
  let acc := bitsOf w.aux 0 2
  if (s.laneChecks u false true).isNone && s.accReserved s.cur.core acc then s.protection 0 0 0
  else if (s.laneChecks u false true).isNone && s.accBusy s.cur.core acc then .next (s.laneStall (.acc acc))
  else
    laneIssue u w.mreg.toNat true fields
      (fun e fin =>
        let pos (i : Nat) : Nat := (e.src posField posReg false i).toNat
        let bad := e.actives.filter fun i => 16383 < pos i
        if !bad.isEmpty then s.trapLane .reservedField none (maskOf bad) 0
        else if poisons && (s.coreAt s.cur.core).mx.poison.getLsbD acc then
          .next (s.haltLane (s.badAt .poison e.act))
        else k e pos fin) s

/-- ACCRD (R372). -/
def execAccrd (w : L3) (s : State) : Result :=
  accWord w (L3uses w false [(w.va, false)] []) [w.va] 0 w.va true
    (fun e pos fin =>
      let m := (s.coreAt s.cur.core).mx
      .next (fin (s.modG fun g => g.writeElems (e.actives.map fun i =>
        (64 * w.vd.toNat + i, m.accGet (bitsOf w.aux 0 2) (pos i)))))) s

/-- The value that ACCWR leaves in an element, with its flags (R373, R105). -/
def accValue (add ftz : Bool) (old v : W32) : W32 × Flags :=
  let x := readF .f32 ftz v.toNat
  if add then
    let r := fAdd (readF .f32 ftz old.toNat) x
    let f := finish .f32 { Fin.rne with ftz := ftz } r.1
    (BitVec.ofNat 32 f.bits, r.2 ||| f.flags)
  else if x.isZero && ftz then (v &&& 0x80000000, 0)
  else (v, 0)

/-- ACCWR (R373): ascending lanes, so that the highest lane of a position stays in write mode. -/
def execAccwr (w : L3) (s : State) : Result :=
  let acc := bitsOf w.aux 0 2
  let add := w.aux.getLsbD 2
  accWord w (L3uses w false [(w.va, false), (w.vb, false)] []) [w.va, w.vb] 1 w.vb add
    (fun e pos fin =>
      let c := s.coreAt s.cur.core
      let r := e.actives.foldl (fun (q : Matrix × Flags) i =>
        let x := accValue add e.ftz (q.1.accGet acc (pos i)) ((e.src 0 w.va false i).setWidth 32)
        (q.1.accSet acc (pos i) x.1, q.2 ||| x.2)) (c.mx, 0)
      .next (fin ((s.setCore s.cur.core { c with mx := r.1 }).modG fun g => g.raise r.2))) s

end Sys2Proof.Machine
end

