-- ==== Sys2Proof/Machine/NearMem.lean ====
section
/-! DEFINITION. The near-memory words (R378 to R386), and near-memory atomics at their stack (R369). -/

namespace Sys2Proof.Machine

/-! ### Wide registers -/

/-- The bytes and the elements of a wide register. -/
def wideBytes (p : NmProg) (r : Nat) : List Byte := (List.range 512).map fun i => sget 0 (512 * r + i) p.w

def chunk (n : Nat) : Nat → List Byte → List Nat
  | 0, _ => []
  | k + 1, l => ofBytes (l.take n) :: chunk n k (l.drop n)

def wideElems (p : NmProg) (r : Nat) (t : EType) : List Nat := chunk (t.bits / 8) (512 / (t.bits / 8)) (wideBytes p r)

/-- Element 0. -/
def wideFirst (p : NmProg) (r : Nat) (t : EType) : Nat :=
  ofBytes ((List.range (t.bits / 8)).map fun i => sget (0 : Byte) (512 * r + i) p.w)

/-- Replace the low bytes of a wide register. -/
def putWide (p : NmProg) (r : Nat) (l : List Byte) : NmProg :=
  { p with w := (l.zipIdx.foldl (fun w (q : Byte × Nat) => if q.2 < 512 then sset 0 (512 * r + q.2) q.1 w else w) p.w) }

/-- Write all 512 bytes: the given ones, then zeros. -/
def setWide (p : NmProg) (r : Nat) (l : List Byte) : NmProg := putWide p r (l ++ List.replicate (512 - l.length) 0)

/-- Write elements of a type. -/
def setElems (p : NmProg) (r : Nat) (t : EType) (l : List Nat) : NmProg := setWide p r (l.flatMap (toBytes (t.bits / 8)))

/-! ### The program's words -/

/-- Run a word of the program that executes. -/
def nmWord (f : NmProg → State → Result) (s : State) : Result :=
  match s.prog? with
  | some p => f p s
  | none => .next s

/-- The word is done: the program goes on at an address. -/
def State.progAt (s : State) (p : NmProg) (npc : Word) : Result :=
  .next (s.setProg { p with npc := npc, count := p.count + 1, waiting := none })

/-- It goes on with the next word. -/
def State.progNext (s : State) (p : NmProg) : Result := s.progAt p (p.npc + 8)

/-- It branches by a signed count of words, from this word (R385). -/
def State.progJump (s : State) (p : NmProg) (off : BitVec 16) : Result := s.progAt p (p.npc + (off.signExtend 64 <<< 3))

/-- The program ends with a cause (R380). -/
def State.progEnd (s : State) (c : Cause) : Result := .next (s.progFail c.code)

/-- The NM address (R70, R379). -/
def nmAddr (p : NmProg) (w : NM) : Nat := (sget 0 w.bslot.toNat p.a + w.off.setWidth 64).toNat

/-- An access of the program: alignment, then its pieces. A word that acts in module DRAM alone ends the program on another page
(R379); then the host may refuse (R242), and a row held elsewhere or a missing shadow makes the word wait (R139, R274). -/
def nmAccess (p : NmProg) (dram : Bool) (va align n kind : Nat) (k : List Piece → State → Result) (s : State) : Result :=
  if va % align ≠ 0 then s.progEnd .misaligned
  else
    match s.landRange (s.progWho p) kind va n with
    | (s1, .busy) => .next s1
    | (s1, .fault f _ a) => .next (s1.progFault f kind a)
    | (s1, .protect a pa) => .next (s1.progFreeze kind a pa)
    | (s1, .ok l) =>
      if dram && l.any fun x => x.loc != 0 then s1.progEnd .reservedField
      else
        match s1.pieceRefused l with
        | some x => .next (s1.progFreeze kind x.va x.flat)
        | none =>
          if if kind = 0 then s1.piecesHeld l s.cur.stack s.cur.sdue else s1.writesHeld l s.cur.stack s.cur.sdue then .next s1
          else k l s1

/-- Bytes that NLD, NST and NATOM move (Table 13-7). -/
def nmLen (w : NM) : Nat := 64 * (bitsOf w.sub 0 3 + 1)

/-- `.inc`: the slot advances after the access (R384). -/
def nmInc (p : NmProg) (w : NM) : NmProg :=
  if w.sub.getLsbD 3 then
    { p with a := sset 0 w.bslot.toNat (sget 0 w.bslot.toNat p.a + wd (nmLen w)) p.a }
  else p

/-- NLD (R384). -/
def execNld (w : NM) (s : State) : Result :=
  nmWord (fun p => nmAccess p false (nmAddr p w) 64 (nmLen w) 0 fun l s =>
    match readPieces s l with
    | (s1, _, some c) => s1.progEnd c
    | (s1, b, none) => s1.progNext (nmInc (setWide p w.wd.toNat b) w)) s

/-- NST (R384). -/
def execNst (w : NM) (s : State) : Result :=
  nmWord (fun p => nmAccess p false (nmAddr p w) 64 (nmLen w) 1 fun l s =>
    (writePieces s l ((wideBytes p w.wd.toNat).take (nmLen w))).progNext (nmInc p w)) s

/-! ### Atomics -/

/-- A memory-side atomic of an SDUE: 0 add, 1 min, 2 max; floats round with RNE and keep subnormals (R369, R384). -/
def nmAtomNew (op : Nat) (t : EType) (old v : Nat) : Nat × Flags :=
  if t.isFloat then
    let r := if op = 0 then fAdd (decodeF t old) (decodeF t v) else fMinMax (op == 2) (decodeF t old) (decodeF t v)
    let f := finish t Fin.rne r.1
    (f.bits, r.2 ||| f.flags)
  else if op = 0 then ((old + v) % 2 ^ t.bits, 0)
  else if op = 1 then (if intOf t old ≤ intOf t v then old else v, 0)
  else (if intOf t old ≤ intOf t v then v else old, 0)

/-- NATOM (R384): only in module DRAM (R379). -/
def execNatom (w : NM) (s : State) : Result :=
  nmWord (fun p => nmAccess p true (nmAddr p w) 64 (nmLen w) 2 fun l s =>
    match readPieces s l with
    | (s1, _, some c) => s1.progEnd c
    | (s1, b, none) =>
      let n := w.ty.bits / 8
      let r := ((chunk n (nmLen w / n) b).zip (wideElems p w.wd.toNat w.ty)).map fun (q : Nat × Nat) =>
        nmAtomNew (bitsOf w.sub 3 2) w.ty q.1 q.2
      let s2 := writePieces s1 l ((r.map Prod.fst).flatMap (toBytes n))
      let p1 := { p with flags := p.flags ||| Flags.join (r.map Prod.snd) }
      s2.progNext (if w.sub.getLsbD 5 then putWide p1 w.wd.toNat b else p1)) s

/-- NMATOM_PERFORM (R369): the `n`-th queued atomic of a stack, where none before it names the same address, no SDUE
holds its row and no command has locked it. A bad location keeps its data, and the group halts at its NMFENCE (Table 10-3). -/
def execNmatomPerform (stack n : Nat) (s : State) : Result :=
  let k := s.stackAt stack
  match k.atoms[n]? with
  | none => .next s
  | some a =>
    if (k.atoms.take n).any (fun x => x.addr == a.addr) || s.rowHeld a.addr 4 32 0 || s.noShadow a.addr 4
        || s.lockedOut (dieOf a.core) a.ctx a.team a.gidx false a.va 4 true then .next s
    else
      let s1 := (s.asServed a.core a.ctx).setStack stack { k with atoms := k.atoms.eraseIdx n }
      let done (bad : Bool) (t : State) : State :=
        t.modTeamGroup a.team a.gidx fun g => { g with nmPending := g.nmPending - 1, nmPoison := g.nmPoison || bad }
      match s1.checkRead a.addr 4 with
      | (s2, some _) => .next (done true s2)
      | (s2, none) =>
        .next (done false (s2.store a.addr (toBytes 4 (nmAtomNew a.op.toNat a.ty (s2.seenN a.addr 4) a.val.toNat).1) false))

/-! ### Locks (R386) -/

/-- NLOCK (R386). -/
def execNlock (w : NM) (s : State) : Result :=
  nmWord (fun p s =>
    let va := nmAddr p w
    if va % 2048 ≠ 0 then s.progEnd .misaligned
    else if 8 ≤ p.locks.length || p.locks.any fun q => va ≤ q.1 then s.progEnd .illegalWait
    else
      nmAccess p true va 2048 2048 0 (fun l s =>
        match l with
        | [x] =>
          let k := s.stackAt s.cur.stack
          (s.setStack s.cur.stack { k with rows := k.rows ++ [(x.flat / 2048, s.cur.sdue)] }).progNext
            { p with locks := (va, x.flat / 2048) :: p.locks }
        | _ => .next s) s) s

/-- NUNLOCK (R386). -/
def execNunlock (w : NM) (s : State) : Result :=
  nmWord (fun p s =>
    let va := nmAddr p w
    if va % 2048 ≠ 0 then s.progEnd .misaligned
    else
      match p.locks.find? fun q => q.1 == va with
      | none => s.progEnd .reservedField
      | some q =>
        let k := s.stackAt s.cur.stack
        (s.setStack s.cur.stack { k with rows := k.rows.filter fun r => !(r.1 == q.2 && r.2 == s.cur.sdue) }).progNext
          { p with locks := p.locks.filter fun x => x.1 != va }) s

/-! ### Floating point (R382) -/

/-- An immediate operand: FP32, rounded with RNE to the type; a signalling NaN stays one, so that the word sets its flags (R102). The
rounding itself sets no flag (log entry 59). -/
def immVal (t : EType) (imm : W32) : FVal :=
  let v := decodeF .f32 imm.toNat
  if t = .f32 || v = .nan true then v else decodeF t (finish t Fin.rne v).bits

/-- Results of every element, with their flags to the flag word. -/
def State.wideResult (s : State) (p : NmProg) (wd : Nat) (t : EType) (l : List (Nat × Flags)) : Result :=
  s.progNext { setElems p wd t (l.map Prod.fst) with flags := p.flags ||| Flags.join (l.map Prod.snd) }

/-- A rounded element: RNE, exact subnormals, no assist. -/
def wideRound (t : EType) (r : FVal × Flags) : Nat × Flags :=
  let f := finish t Fin.rne r.1
  (f.bits, r.2 ||| f.flags)

/-- Operand b of every element: wB or the immediate. -/
def wideB (p : NmProg) (w : NA) : List FVal :=
  if w.sub.getLsbD 0 then List.replicate (512 / (w.ty.bits / 8)) (immVal w.ty w.imm) else (wideElems p w.wb.toNat w.ty).map (decodeF w.ty)

/-- A floating word with two sources. -/
def wideFloat2 (w : NA) (op : FVal → FVal → FVal × Flags) (s : State) : Result :=
  nmWord (fun p s => s.wideResult p w.wd.toNat w.ty
    ((((wideElems p w.wa.toNat w.ty).map (decodeF w.ty)).zip (wideB p w)).map fun (q : FVal × FVal) => wideRound w.ty (op q.1 q.2))) s

/-- NFADD (R382). -/
def execNfadd (w : NA) (s : State) : Result := wideFloat2 w fAdd s
/-- NFMUL (R382). -/
def execNfmul (w : NA) (s : State) : Result := wideFloat2 w fMul s
/-- NFMAX (R382). -/
def execNfmax (w : NA) (s : State) : Result := wideFloat2 w (fMinMax true) s
/-- NFMIN (R382). -/
def execNfmin (w : NA) (s : State) : Result := wideFloat2 w (fMinMax false) s

/-- NFMA (R382): one rounding. -/
def execNfma (w : NA) (s : State) : Result :=
  nmWord (fun p s => s.wideResult p w.wd.toNat w.ty
    (((((wideElems p w.wa.toNat w.ty).map (decodeF w.ty)).zip (wideB p w)).zip (wideElems p w.wc.toNat w.ty)).map
      fun (q : (FVal × FVal) × Nat) => wideRound w.ty (fFma q.1.1 q.1.2 (decodeF w.ty q.2)))) s

/-- NSCALE (R382): n from the word, or element 0 of wB clipped to −512 … 511. -/
def execNscale (w : NA) (s : State) : Result :=
  nmWord (fun p s =>
    let n : Int :=
      if w.sub.getLsbD 0 then max (-512) (min 511 (intOf .s32 (wideFirst p w.wb.toNat .s32))) else w.imm.toInt
    s.wideResult p w.wd.toNat w.ty ((wideElems p w.wa.toNat w.ty).map fun b =>
      let v := decodeF w.ty b
      wideRound w.ty (v.scale n, nanFlags [v]))) s

/-- A converted element: its bits and flags (Table 4-6). -/
def nmConvert (d src : EType) (mode : Rnd) (sat : Bool) (b : Nat) : Nat × Flags :=
  if src.isFloat then
    let v := decodeF src b
    if d.isFloat then
      let f := finish d ⟨mode, some sat, 0, 0, false⟩ v
      (f.bits, f.flags ||| nanFlags [v])
    else
      let r := toInteger d mode v
      ((placeI d r.1).toNat % 2 ^ d.bits, r.2)
  else
    let n := intOf src b
    if d.isFloat then
      let f := finish d ⟨mode, some sat, 0, 0, false⟩ (FVal.ofInt n)
      (f.bits, f.flags)
    else ((placeI d n).toNat % 2 ^ d.bits, 0)

/-- Elements packed by their width; two E2M1 elements to a byte (R94). -/
def packElems (t : EType) : List Nat → List Byte
  | [] => []
  | [a] => if t = .e2m1 then [BitVec.ofNat 8 (a % 16)] else toBytes (t.bits / 8) a
  | a :: b :: r =>
    if t = .e2m1 then BitVec.ofNat 8 (a % 16 + 16 * (b % 16)) :: packElems t r
    else toBytes (t.bits / 8) a ++ toBytes (t.bits / 8) b ++ packElems t r

/-- The rounding modes that NCVT encodes. -/
def nmMode (c : Nat) : Rnd := if c = 0 then .rne else if c = 1 then .rtz else if c = 2 then .rdn else .rup

/-- NCVT (R382). -/
def execNcvt (w : NA) (s : State) : Result :=
  nmWord (fun p s =>
    let src := EType.ofCode (w.imm.extractLsb' 0 4)
    let n := 4096 / max src.bits w.ty.bits
    let r := ((wideElems p w.wa.toNat src).take n).map
      (nmConvert w.ty src (nmMode (bitsOf w.sub 0 2)) (w.sub.getLsbD 2))
    s.progNext { setWide p w.wd.toNat (packElems w.ty (r.map Prod.fst)) with flags := p.flags ||| Flags.join (r.map Prod.snd) }) s

/-- NAPPLY (R382): the image in wB and wB + 1 is checked, and a TRAP rule ends the program. -/
def execNapply (w : NA) (s : State) : Result :=
  nmWord (fun p s =>
    let img : Image := BitVec.ofNat 8192 (ofBytes (wideBytes p w.wb.toNat ++ wideBytes p (w.wb.toNat + 1)))
    if (imageReject img).isSome then s.progEnd .floadReject
    else
      let xs := (wideElems p w.wa.toNat .f32).map (decodeF .f32)
      let r := xs.map fun x => (x, evalImage img (w.sub.getLsbD 0) x)
      if r.any fun (q : FVal × Eval) => q.2 == .trap then
        (s.setProg { p with flags := p.flags ||| Flags.fndom }).progEnd .fnDomain
      else
        s.wideResult p w.wd.toNat .f32 (r.map fun (q : FVal × Eval) =>
          match q.2 with
          | .val v d => wideRound .f32 (v, nanFlags [q.1] ||| domFlag d)
          | .trap => (0, 0))) s

/-! ### Integers and moves (R383) -/

/-- NMOV (R383). -/
def execNmov (w : NA) (s : State) : Result :=
  nmWord (fun p s =>
    if w.sub.getLsbD 0 then
      s.progNext (setElems p w.wd.toNat w.ty (List.replicate (512 / (w.ty.bits / 8)) (w.imm.toNat % 2 ^ w.ty.bits)))
    else s.progNext (setWide p w.wd.toNat (wideBytes p w.wa.toNat))) s

/-- NIADD (R383). -/
def execNiadd (w : NA) (s : State) : Result :=
  nmWord (fun p s =>
    let b := if w.sub.getLsbD 0 then List.replicate (512 / (w.ty.bits / 8)) (w.imm.toNat % 2 ^ w.ty.bits)
             else wideElems p w.wb.toNat w.ty
    s.progNext (setElems p w.wd.toNat w.ty
      (((wideElems p w.wa.toNat w.ty).zip b).map fun (q : Nat × Nat) => (q.1 + q.2) % 2 ^ w.ty.bits))) s

/-- NCMP (R383): all ones or zero in each element. -/
def execNcmp (w : NA) (s : State) : Result :=
  nmWord (fun p s =>
    s.wideResult p w.wd.toNat w.ty
      (((wideElems p w.wa.toNat w.ty).zip (wideElems p w.wb.toNat w.ty)).map fun (q : Nat × Nat) =>
        let r : Bool × Flags :=
          if w.ty.isFloat then
            let a := decodeF w.ty q.1
            let b := decodeF w.ty q.2
            (ccHolds w.sub.toNat (fOrder a b), nanFlags [a, b])
          else
            let a := intOf w.ty q.1
            let b := intOf w.ty q.2
            (ccHolds w.sub.toNat (some (if a < b then -1 else if a = b then 0 else 1)), 0)
        (if r.1 then 2 ^ w.ty.bits - 1 else 0, r.2))) s

/-- NSEL (R383). -/
def execNsel (w : NA) (s : State) : Result :=
  nmWord (fun p s =>
    s.progNext (setElems p w.wd.toNat w.ty
      ((((wideElems p w.wa.toNat w.ty).zip (wideElems p w.wb.toNat w.ty)).zip (wideElems p w.wc.toNat w.ty)).map
        fun (q : (Nat × Nat) × Nat) => if q.2 ≠ 0 then q.1.1 else q.1.2))) s

/-! ### Control (R385) -/

/-- NLOOP_SET (R385). -/
def execNloopSet (w : NC) (s : State) : Result :=
  nmWord (fun p s =>
    let v : W32 :=
      if w.cnt ≠ 0 then w.cnt.setWidth 32
      else if w.ty = .z32 then BitVec.ofNat 32 (wideFirst p w.wa.toNat .z32)
      else 0
    s.progNext { p with lc := sset 0 (bitsOf w.sub 0 2) v p.lc }) s

/-- NLOOP_STEP (R385). -/
def execNloopStep (w : NC) (s : State) : Result :=
  nmWord (fun p s =>
    let n := bitsOf w.sub 0 2
    let c := sget 0 n p.lc
    if c = 0 then s.progNext p
    else
      let p1 := { p with lc := sset 0 n (c - 1) p.lc }
      if c = 1 then s.progNext p1 else s.progJump p1 w.off) s

/-- The condition of NBR, with its flags. -/
def nbrTaken (w : NC) (a b : Nat) : Bool × Flags :=
  let c := w.cond.toNat
  if c = 7 then (true, 0)
  else if c = 4 then (decide (a < b), 0)
  else if c = 5 then (decide (b ≤ a), 0)
  else if w.ty.isFloat then
    let x := decodeF w.ty a
    let y := decodeF w.ty b
    (ccHolds (if c = 3 then 5 else c) (fOrder x y), nanFlags [x, y])
  else
    let n := w.ty.bits
    let sx (v : Nat) : Int := if 2 ^ (n - 1) ≤ v then (v : Int) - (2 ^ n : Nat) else v
    (if c = 0 then a == b else if c = 1 then a != b else if c = 2 then decide (sx a < sx b) else decide (sx b ≤ sx a), 0)

/-- NBR (R385). -/
def execNbr (w : NC) (s : State) : Result :=
  nmWord (fun p s =>
    let r := nbrTaken w (wideFirst p w.wa.toNat w.ty) (wideFirst p w.wb.toNat w.ty)
    let p1 := { p with flags := p.flags ||| r.2 }
    if r.1 then s.progJump p1 w.off else s.progNext p1) s

/-- Cycles that an NWAIT may take (R385): they are those of the SDUE's die, since R7 lists no reference cycle for them. -/
def nwaitLimit : Nat := 2 ^ 20

/-- Cycles that the die of a stack has counted. -/
def State.stackCycles (s : State) (stack : Nat) : Nat := s.dieCycles (stack / 4)

/-- NWAIT (R385): reads until the value reaches its bound; past the limit only the expiry ends it. -/
def execNwait (w : NM) (s : State) : Result :=
  nmWord (fun p s =>
    let n := w.ty.bits / 8
    let now := s.stackCycles s.cur.stack
    let since := match p.waiting with | some (t, _, _) => t | none => now
    if since + nwaitLimit < now then .next s
    else
      nmAccess p false (nmAddr p w) n n 0 (fun l s =>
        match readPieces s l with
        | (s1, _, some c) => s1.progEnd c
        | (s1, b, none) =>
          if wideFirst p w.wd.toNat w.ty ≤ ofBytes b then s1.progNext (putWide p w.wd.toNat b)
          else .next (s1.setProg { p with waiting := some (since, w.wd.toNat, w.ty) })) s) s

/-- NWAIT_EXPIRY (R385): the limit has passed, and element 0 gets 0xFFFF_FFFF. -/
def execNwaitExpiry (stack sdue : Nat) (s : State) : Result :=
  let s1 := { s with cur := { s.cur with stack := stack, sdue := sdue, stream := .sdue } }
  match s1.prog? with
  | none => .next s
  | some p =>
    match p.waiting with
    | some (t, r, ty) =>
      if t + nwaitLimit ≤ s.stackCycles stack then s1.progNext (putWide p r (toBytes (ty.bits / 8) 0xFFFFFFFF)) else .next s
    | none => .next s

/-- NSIGNAL (R385, R185). -/
def execNsignal (w : NM) (s : State) : Result :=
  nmWord (fun p s => s.orHeld ((s.decrement p.ctx (bitsOf w.off 0 20)).progNext p)) s

/-- NEND (R378, R385): the flag word goes to slot 15 of the argument block, locks are released, and the command or the
record is done. -/
def execNend (_w : NC) (s : State) : Result :=
  nmWord (fun p => nmAccess p false (p.arg.toNat + 120) 8 8 1 fun l s =>
    let s1 := (writePieces s l (toBytes 8 p.flags.toNat)).dropProgram p.cmd
    .next (s.unlessHeld (match s1.ecmds.find? fun c => c.id == p.cmd with
    | some c => s1.endCommand c stDone
    | none => s1))) s

/-! ### Starting a program (R316, R378) -/

/-- The command's program is on an SDUE or in its queue. -/
def State.delivered (s : State) (id : Nat) : Bool :=
  s.hbmStacks.any fun k => (k.2.sdue.any fun p => p.2.cmd == id) || k.2.queue.any fun p => p.2.cmd == id

/-- A program as delivered: nothing of its state is set but its addresses. -/
def newProgram (ctx cmd : Nat) (npc arg : Word) : NmProg :=
  ⟨ctx, cmd, arg, npc, [], [], [], 0, [], 0, none, false, none⟩

/-- An operand block or pack that selects its SDUE by AUTO (R316). -/
def packAuto (sel : Word) : Bool := sel.getLsbD 7

/-- Read the argument block of the program on the executing SDUE (R378). -/
def nmLoad (s : State) : Result :=
  nmWord (fun p s => nmAccess p false p.arg.toNat 8 128 0 (fun l s =>
    match readPieces s l with
    | (s1, _, some c) => s1.progEnd c
    | (s1, b, none) =>
      .next (s1.setProg { p with
        a := (chunk 8 16 b).zipIdx.foldl (fun (a : Store Word) (q : Nat × Nat) => sset 0 q.2 (wd q.1) a) []
        loaded := true })) (s.asContext p.ctx)) s

/-- An AUTO launch finds its stack from the line at slot 0 (R316): the stack, or how the command goes on. -/
def autoStack (c : ECmd) (s0 : State) : State × Option Nat :=
  let w := cmdWho c true
  let s := s0.asServed c.core c.ctx
  match s.landRange w 0 (c.pack.getD 1 0).toNat 8 with
  | (s1, .ok l) =>
    match readPieces s1 l with
    | (s2, b, none) =>
      match s2.translate w 0 (ofBytes b) with
      | (s3, .ok flat loc) => if loc = 0 then (s3, some (stackOf flat)) else (s3.endCommand c stFailed, none)
      | (s3, .fault k _) => (s3.cmdFault c true k 0 (ofBytes b), none)
      | (s3, .protect pa) => (s3.freezeEngine c 0 (wd (ofBytes b)) (wd pa), none)
      | (s3, .busy) => (s3, none)
    | (s2, _, some _) => (s2.endCommand c stFailed, none)
  | (s1, .fault k _ a) => (s1.cmdFault c true k 0 a, none)
  | (s1, .protect a pa) => (s1.freezeEngine c 0 (wd a) (wd pa), none)
  | (s1, .busy) => (s1, none)

/-- The program's launching command waits for NMATOMs that its group issued before it (R167). -/
def State.launchHeld (s : State) (p : NmProg) : Bool :=
  match s.ecmds.find? fun c => c.id == p.cmd with
  | some c => s.atomsBefore c.team c.gidx c.id
  | none => false

/-- The first of some AUTO launches whose line lies in a stack; one that waits holds no other back (R378). -/
def autoLaunch (stack : Nat) : List ECmd → State → State × Option ECmd
  | [], s => (s, none)
  | c :: r, s =>
    if c.pageReq.isSome then autoLaunch stack r s
    else
      match autoStack c s with
      | (s1, some j) => if j = stack then (s1, some c) else autoLaunch stack r s1
      | (s1, none) => autoLaunch stack r s1

/-- NM_PROGRAM_START (R378): an idle SDUE takes the oldest program delivered to it, or the oldest AUTO launch whose line lies
in its stack, and reads its argument block; a program that waits for its block tries again. -/
def execNmProgramStart (stack sdue : Nat) (s : State) : Result :=
  if 32 ≤ stack || 4 ≤ sdue then .next s
  else
    let s0 := { s with cur := { s.cur with stack := stack, sdue := sdue, stream := .sdue } }
    match s0.prog? with
    | some p => if p.loaded || p.pageReq.isSome then .next s else nmLoad s0
    | none =>
      let k := s.stackAt stack
      match k.queue.find? fun q => q.1 == sdue with
      | some q =>
        if s.launchHeld q.2 then .next s
        else nmLoad ((s0.setStack stack { k with queue := k.queue.erase q }).setProg q.2)
      | none =>
        match autoLaunch stack (s.ecmds.filter fun c => c.kind == 5 && packAuto (c.pack.getD 2 0) && !c.frozen && !s.delivered c.id
            && !s.atomsBefore c.team c.gidx c.id) s0 with
        | (s1, some c) => nmLoad (s1.setProg (newProgram c.ctx c.id (c.pack.getD 0 0) (c.pack.getD 1 0)))
        | (s1, none) => .next (s.unlessHeld s1)

end Sys2Proof.Machine
end

