-- ==== Sys2Proof/Machine/Matrix.lean ====
section
/-! DEFINITION. The matrix unit (R30, R109, R301 to R308) and the batch-forming queue (R205 to R207, R309, R310). A command
performs as a whole at MATRIX_COMMAND_COMPLETE, K-steps in ascending order (log entry 9). -/

namespace Sys2Proof.Machine

/-! ### Element formats -/

/-- The format MFMT (Table 4-4): element type, width in bits, scaled, E2M1X. -/
structure MFormat where
  ty : EType
  bits : Nat
  scaled : Bool
  x : Bool
  deriving DecidableEq, Repr

def mformat (fmt : Word) : MFormat :=
  match bitsOf fmt 0 3 with
  | 0 => ⟨.bf16, 16, false, false⟩
  | 1 => ⟨.f16, 16, false, false⟩
  | 2 => ⟨.e4m3, 8, true, false⟩
  | 3 => ⟨.e5m2, 8, true, false⟩
  | 4 => ⟨.e2m1, 4, true, false⟩
  | _ => ⟨.e2m1, 4, true, true⟩

/-- FTZ of an FMT value. -/
def fmtFtz (fmt : Word) : Bool := fmt.getLsbD 8

/-- The i-th element code of packed bytes (R94). -/
def codeAt (bits : Nat) (get : Nat → Byte) (i : Nat) : Nat :=
  if bits = 4 then (get (i / 2)).toNat / 16 ^ (i % 2) % 16
  else ofBytes ((List.range (bits / 8)).map fun q => get (i * (bits / 8) + q))

/-- The value of an element code, with its side entry in the scaled formats (R95, R103, R109). -/
def MFormat.value (f : MFormat) (ftz : Bool) (code side : Nat) : FVal :=
  if f.scaled then mxValue f.ty f.x code side else readF f.ty ftz code

/-- A byte of a list. -/
def byteOf (l : List Byte) (i : Nat) : Byte := l.getD i 0
/-- The i-th side entry, scale in the low byte. -/
def sideOf (l : List Byte) (i : Nat) : Nat := (byteOf l (2 * i)).toNat + 256 * (byteOf l (2 * i + 1)).toNat

/-! ### The K-block (R109) -/

/-- Products whose value is an infinity of a sign. -/
def anyInf (l : List FVal) (neg : Bool) : Bool := l.any fun v => v == .inf neg

/-- One product in the 52-bit window, in units of 2^q, bits below dropped toward zero. -/
def inWindow (q : Int) (v : FVal) : Int :=
  match v with
  | .num s m e =>
    let n : Int := ((if q ≤ e then m * 2 ^ (e - q).toNat else m / 2 ^ (q - e).toNat : Nat) : Int)
    if s then -n else n
  | _ => 0

/-- floor(log2) of the largest non-zero product. -/
def topExp (l : List FVal) : Option Int :=
  l.foldl (fun b v =>
    match v with
    | .num _ m e =>
      if m = 0 then b
      else match b with
        | some x => some (max x (log2Of m e))
        | none => some (log2Of m e)
    | _ => b) none

/-- The block sum before its rounding, with the flags of the infinities. -/
def blockSum (l : List FVal) : FVal × Flags :=
  if l.any FVal.isNan then (.qnan, 0)
  else if anyInf l true && anyInf l false then (.qnan, Flags.inv)
  else if anyInf l true then (.inf true, 0)
  else if anyInf l false then (.inf false, 0)
  else
    match topExp l with
    | none => (.zero false, 0)
    | some t =>
      let n := l.foldl (fun (a : Int) v => a + inWindow (t - 51) v) 0
      (.num (decide (n < 0)) n.natAbs (t - 51), 0)

/-- Round to FP32 with RNE; FTZ flushes a subnormal and sets UNF, and no assist is taken (R105). -/
def mxRound (ftz : Bool) (v : FVal) : Nat × Flags :=
  let r := finish .f32 { Fin.rne with ftz := ftz } v
  (r.bits, r.flags)

/-- The K-block of one element: pairs of values, old accumulator; the new accumulator and the flags. -/
def kblock (ftz : Bool) (pairs : List (FVal × FVal)) (old : FVal) : W32 × Flags :=
  let ps := pairs.map fun (p : FVal × FVal) => fMul p.1 p.2
  let b := blockSum (ps.map Prod.fst)
  let s := mxRound ftz b.1
  let t := fAdd old (decodeF .f32 s.1)
  let r := mxRound ftz t.1
  (BitVec.ofNat 32 r.1, Flags.join (ps.map Prod.snd) ||| b.2 ||| s.2 ||| t.2 ||| r.2)

/-! ### The B store -/

/-- Entries of a store that belong to one slice. -/
def otherSlices {α : Type} (size slice : Nat) (l : Store α) : Store α := l.filter fun p => p.1 / size != slice

/-- Hold a slice with its side entries (R303). -/
def Matrix.putSlice (m : Matrix) (slice bits : Nat) (codes : List Byte) (side : List Nat) : Matrix :=
  { m with
    b := codes.zipIdx.foldl (fun (l : Store Byte) (q : Byte × Nat) => sset 0 (slice * 65536 + q.2) q.1 l) (otherSlices 65536 slice m.b)
    bside := side.zipIdx.foldl (fun (l : Store (BitVec 16)) (q : Nat × Nat) => sset 0 (slice * 512 + q.2) (BitVec.ofNat 16 q.1) l)
      (otherSlices 512 slice m.bside)
    held := sset 0 slice bits m.held
    bad := m.bad.filter fun k => k != slice + 2 ^ 20 && k != slice + 2 ^ 21 }

/-- A slice loaded from bad data stays marked for whoever computes with it later (R249). -/
def Matrix.markSlice (m : Matrix) (slice : Nat) : Matrix := { m with bad := m.bad ++ [slice + 2 ^ 21] }

/-- The codes and side entries that a step computes with: the slice held; zero codes with scale 0x7F where the B store has
held none since the team took the unit (R303); free where the slice was loaded in elements of another width, or another
stream's slices alone are held. -/
def Matrix.slice (m : Matrix) (tick slice bits : Nat) : (Nat → Byte) × (Nat → Nat) :=
  if sget 0 slice m.held = bits then
    (fun i => sget 0 (slice * 65536 + i) m.b, fun n => (sget 0 (slice * 512 + n) m.bside).toNat)
  else if m.held.isEmpty then (fun _ => 0, fun _ => 0x7F)
  else (fun i => Config.freeByte tick i, fun n => (Config.freeByte tick (65536 + 2 * n)).toNat + 256 * (Config.freeByte tick (65537 + 2 * n)).toNat)

/-- A slice on its own, as a registration keeps it: none where the B store has held no slice (R303, R306). -/
def Matrix.kept (m : Matrix) (tick slice bits : Nat) : Option (Nat × Store Byte × Store (BitVec 16)) :=
  if m.held.isEmpty then none
  else if sget 0 slice m.held = bits then
    some (bits, (m.b.filter fun p => p.1 / 65536 == slice).map fun p => (p.1 % 65536, p.2),
      (m.bside.filter fun p => p.1 / 512 == slice).map fun p => (p.1 % 512, p.2))
  else
    let x := m.slice tick slice bits
    some (bits, (List.range (2048 * bits)).foldl (fun l i => sset 0 i (x.1 i) l) [],
      (List.range 512).foldl (fun l n => sset 0 n (BitVec.ofNat 16 (x.2 n)) l) [])

/-- The codes and side entries of a kept slice. -/
def keptSlice : Option (Nat × Store Byte × Store (BitVec 16)) → (Nat → Byte) × (Nat → Nat)
  | none => (fun _ => 0, fun _ => 0x7F)
  | some x => (fun i => sget 0 i x.2.1, fun n => (sget 0 n x.2.2).toNat)

/-- The slice holds an error that its reader finds (R245), or bad data from memory (R249). -/
def Matrix.sliceBad (m : Matrix) (slice : Nat) : Option Cause :=
  if m.bad.contains (slice + 2 ^ 20) then some .uncorrectable
  else if m.bad.contains (slice + 2 ^ 21) then some .poison
  else none

/-- So does some element of the A row buffers that a tile of an element width reads. -/
def Matrix.arowBad (m : Matrix) (bits : Nat) : Bool := m.bad.any fun k => decide (k < 32 * bits)

/-- Mark an accumulator poisoned. -/
def Matrix.mark (m : Matrix) (acc : Nat) : Matrix := { m with poison := m.poison ||| BitVec.ofNat 4 (2 ^ acc) }

/-- Column n of a slice as values. -/
def columnOf (f : MFormat) (ftz : Bool) (sl : (Nat → Byte) × (Nat → Nat)) (n : Nat) : List FVal :=
  (List.range 32).map fun k => f.value ftz (codeAt f.bits sl.1 (512 * k + n)) (sl.2 n)

/-- Banks that a registered slice of the core occupies meet the loaded ones: the registration ends (R306). -/
def State.loadBanks (s : State) (core : Nat) (banks : BitVec 2) : State :=
  let d := s.dieAt (dieOf core)
  s.setDie (dieOf core) { d with regs := d.regs.filter fun r => !(r.core == core && r.banks &&& banks != 0) }

/-- The bank of the `j`-th slice that a command loads: both for 16-bit elements; else they alternate from a free one. -/
def bankOf (tick bits j : Nat) : BitVec 2 :=
  if bits = 16 then 3 else if (Config.freeChoice tick 5 + j) % 2 = 0 then 1 else 2

/-! ### Operand packs (Tables 11-6 and 11-7) -/

def packF (p : List Word) : Word := p.getD 3 0

/-- Fields of an MLOOP pack. -/
structure LoopPack where
  abase : Nat
  bbase : Nat
  astride : Nat
  bstride : Nat
  ksteps : Nat
  acc : Nat
  stream : Nat
  zero : Bool
  holdb : Bool
  regb : Bool
  abuf : Bool
  asp : Bool
  bsp : Bool
  wid : Nat
  deriving DecidableEq, Repr

def loopPack (p : List Word) : LoopPack :=
  let t := p.getD 2 0
  let f := packF p
  { abase := (p.getD 0 0).toNat, bbase := (p.getD 1 0).toNat, astride := bitsOf t 0 32, bstride := bitsOf t 32 32
    ksteps := bitsOf f 0 16, acc := bitsOf f 16 2, stream := bitsOf f 18 3, zero := f.getLsbD 21, holdb := f.getLsbD 22
    regb := f.getLsbD 23, abuf := f.getLsbD 24, asp := f.getLsbD 25, bsp := f.getLsbD 26, wid := bitsOf f 48 16 }

/-- RESERVED_FIELD of an MLOOP pack (R304). -/
def loopReserved (p : List Word) : Bool :=
  let x := loopPack p
  bitsOf (packF p) 27 21 != 0 || x.ksteps == 0 || ((x.holdb || x.regb || x.abuf) && 1 < x.ksteps) || (x.wid != 0 && !x.regb)

/-- MISALIGNED of an MLOOP pack; BBASE is ignored with HOLDB (R303, R304). -/
def loopMisaligned (x : LoopPack) : Bool :=
  x.abase % 16 != 0 || (x.bbase % 16 != 0 && !x.holdb) || x.astride % 16 != 0 || x.bstride % 16 != 0

/-- An operand: vault space, first byte, bytes, write. -/
structure Operand where
  vault : Bool
  base : Nat
  len : Nat
  write : Bool
  deriving DecidableEq, Repr

/-- The covering ranges of what an MLOOP reads (R153, R303). -/
def loopOperands (f : MFormat) (x : LoopPack) : List Operand :=
  (if x.abuf then [] else [⟨x.asp, x.abase, 31 * x.astride + 4 * f.bits * x.ksteps, false⟩])
    ++ (if f.scaled then [⟨x.asp, x.abase + 32 * x.astride, 64 * x.ksteps, false⟩] else [])
    ++ (if x.holdb then [] else
          ⟨x.bsp, x.bbase, (32 * x.ksteps - 1) * x.bstride + 64 * f.bits, false⟩
            :: (if f.scaled then [⟨x.bsp, x.bbase + 32 * x.ksteps * x.bstride, 1024 * x.ksteps, false⟩] else []))

/-- Fields of an MSTORE pack. -/
structure StorePack where
  dbase : Nat
  dstride : Nat
  side : Nat
  acc : Nat
  stream : Nat
  oty : Nat
  x : Bool
  dsp : Bool
  deriving DecidableEq, Repr

def storePack (p : List Word) : StorePack :=
  let f := packF p
  { dbase := (p.getD 0 0).toNat, dstride := bitsOf (p.getD 1 0) 0 32, side := (p.getD 2 0).toNat, acc := bitsOf f 0 2
    stream := bitsOf f 2 3, oty := bitsOf f 5 4, x := f.getLsbD 9, dsp := f.getLsbD 10 }

/-- OTYPE of a pack, where it is one of the six that MSTORE writes; its width in bits is that of the type, 4 for E2M1. -/
def storeType (x : StorePack) : EType := EType.ofCode (BitVec.ofNat 4 x.oty)
def storeBits (x : StorePack) : Nat := if x.oty = 0 then 32 else if x.oty < 3 then 16 else if x.oty < 5 then 8 else 4
def storeScaled (x : StorePack) : Bool := 3 ≤ x.oty

/-- RESERVED_FIELD and MISALIGNED of an MSTORE pack (R305). -/
def storeReserved (p : List Word) : Bool :=
  let x := storePack p
  5 < x.oty || (x.x && x.oty != 5) || (x.side != 0 && !storeScaled x) || bitsOf (p.getD 1 0) 32 32 != 0 || bitsOf (packF p) 11 53 != 0
def storeMisaligned (x : StorePack) : Bool := x.dbase % 16 != 0 || x.dstride % 16 != 0 || x.side % 2 != 0

/-- The covering ranges of what an MSTORE writes. -/
def storeOperands (x : StorePack) : List Operand :=
  ⟨x.dsp, x.dbase, 31 * x.dstride + 64 * storeBits x, true⟩ :: (if storeScaled x then [⟨x.dsp, x.side, 1024, true⟩] else [])

/-! ### Issue (R301) -/

/-- A vault operand extends beyond the window (R304, R305). -/
def overruns (size : Nat) (l : List Operand) : Bool := l.any fun o => o.vault && size < o.base + o.len

/-- The locks of a matrix command's operands, on the core's die. -/
def mxLocks (s : State) (l : List Operand) : List LockReq :=
  l.map fun (o : Operand) => ⟨o.vault, if o.vault then s.vaultWindow.1 + o.base else o.base, o.len, o.write, dieOf s.cur.core⟩

/-- Put a command into the core's queue and go on. -/
def mxSubmit (kind : Nat) (pack : List Word) (stream acc : Nat) (locks : List LockReq) (s : State) : State :=
  let g := s.g
  let c := s.coreAt s.cur.core
  let m : MCmd := ⟨s.nextCmd, kind, pack, stream, acc, g.ctx, g.mode == .user, g.team, g.gidx, g.nextBatch, g.fmtS, g.rngkeyS, g.sdraw, none, none⟩
  ({ (s.addLocks g.ctx s.nextCmd locks).setCore s.cur.core { c with mcmds := c.mcmds ++ [m] } with nextCmd := s.nextCmd + 1 }).nextPc

/-- What MLOOP, MSTORE and MZERO share: the team holds the unit (R30), the join (R161), sixteen commands (R301). -/
def mxIssue (k : State → Result) (s : State) : Result :=
  if !s.holdsMatrix then s.protection 0 0 0
  else s.joinCommand fun s => if 16 ≤ s.mxOut s.cur.core then s.stall .matrix else k s

/-- The pack of a quad. -/
def State.packAt (s : State) (a : SReg) : List Word := (List.range 4).map (s.g.quad a)

/-- MLOOP (R302, R304). -/
def execMloop (a : SReg) (s : State) : Result :=
  quadChecked a (mxIssue (fun s =>
    let p := s.packAt a
    let x := loopPack p
    let ops := loopOperands (mformat s.g.fmtS) x
    if loopReserved p then s.trapS .reservedField
    else if loopMisaligned x then s.trapS .misaligned
    else if overruns s.vaultWindow.2 ops then s.trapS .scratchBounds
    else if s.accReserved s.cur.core x.acc then s.protection 0 0 0
    else if !s.lockRoom (mxLocks s ops) then s.stall (.locks (mxLocks s ops))
    else .next (mxSubmit 0 p x.stream x.acc (mxLocks s ops) s))) s

/-- MSTORE (R305): with RND stochastic the group's sdraw advances by 128. -/
def execMstore (a : SReg) (s : State) : Result :=
  quadChecked a (mxIssue (fun s =>
    let p := s.packAt a
    let x := storePack p
    let ops := storeOperands x
    if storeReserved p then s.trapS .reservedField
    else if storeMisaligned x then s.trapS .misaligned
    else if overruns s.vaultWindow.2 ops then s.trapS .scratchBounds
    else if s.accReserved s.cur.core x.acc then s.protection 0 0 0
    else if !s.lockRoom (mxLocks s ops) then s.stall (.locks (mxLocks s ops))
    else
      .next ((mxSubmit 1 p x.stream x.acc (mxLocks s ops) s).modG fun g =>
        if fmtRnd g.fmtS = 4 then g.drew 128 else g))) s

/-- MZERO (R307). -/
def execMzero (acc : BitVec 2) (stream : BitVec 3) (s : State) : Result :=
  mxIssue (fun s =>
    if s.accReserved s.cur.core acc.toNat then s.protection 0 0 0
    else .next (mxSubmit 2 [] stream.toNat acc.toNat [] s)) s

/-- MFENCE (R308). -/
def execMfence (d : SReg) (s : State) : Result :=
  if !s.holdsMatrix then s.protection 0 0 0
  else .next ((s.modG fun g => { g with nextBatch := g.nextBatch + 1 }).writeNext d (wd s.g.nextBatch))

/-- Faulted commands of the group in batches up to `n`, in issue order. -/
def State.mxFaults (s : State) (n : Nat) : List Ended :=
  (s.coreAt s.cur.core).mcmds.filterMap fun (m : MCmd) =>
    if m.team = s.g.team ∧ m.gidx = s.g.gidx ∧ m.batch ≤ n then m.fault else none

/-- Forget them: a fault is raised once, and one MWAIT raises one (R308). -/
def State.dropFaults (s : State) (n : Nat) : State :=
  let c := s.coreAt s.cur.core
  s.setCore s.cur.core { c with mcmds := c.mcmds.filter fun (m : MCmd) =>
    !(m.team == s.g.team && m.gidx == s.g.gidx && m.batch ≤ n && m.fault.isSome) }

/-- Raise what ended a command or a posted row: bad data halts the group, anything else traps (R226, R249, R310). -/
def raiseEnded (e : Ended) (s : State) : Result :=
  if e.cause = .poison ∨ e.cause = .uncorrectable then s.haltScalar (s.badAt e.cause 0)
  else if e.cause = .protection then s.protection 0 e.va 0
  else s.trapScalar e.cause (some e.va) e.prog

/-- MWAIT (R308). -/
def execMwait (a : SReg) (s : State) : Result :=
  let n := (s.g.sreg a).toNat
  if !s.holdsMatrix then s.protection 0 0 0
  else if s.g.nextBatch ≤ n then s.trapS .illegalWait
  else if s.batchBusy s.cur.core s.g n then s.wait (.batch n)
  else
    match s.mxFaults n with
    | [] => .next s.nextPc
    | e :: _ => raiseEnded e (s.dropFaults n)

/-! ### Reading and writing for a command -/

/-- Why a command does not go on: it waits, or an access faulted or violated protection; with the state so far. -/
inductive MxStop where
  | wait (s : State)
  | fault (s : State) (kind level acc va : Nat)
  | protect (s : State) (acc va pa : Nat)

/-- What a command accesses memory with: requester, team, vault window, commit window. -/
structure MxWho where
  who : Who
  team : Nat
  vault : Nat × Nat
  win : List CLine

/-- The pieces of one operand range. A row that an SDUE holds, or for a write a missing shadow, makes the command wait (R139, R274); the
host may refuse (R242). -/
def mxLand (x : MxWho) (vlt : Bool) (kind va n : Nat) (s : State) : Except MxStop (State × List Piece) :=
  match s.landSpace x.who (if vlt then some x.vault else none) kind (va % 2 ^ 64) n with
  | (s1, .busy) => .error (.wait s1)
  | (s1, .fault k l a) => .error (.fault s1 k l kind a)
  | (s1, .protect a pa) => .error (.protect s1 kind a pa)
  | (s1, .ok l) =>
    if if kind = 0 then s1.piecesHeld l 32 0 else s1.writesHeld l 32 0 then .error (.wait s)
    else
      match s1.pieceRefused l with
      | some p => .error (.protect s1 kind p.va p.flat)
      | none => .ok (s1, l)

/-- What has been read: the state after its logs, bad data met, ranges for the audit. -/
structure MxRead where
  s : State
  bad : Option Cause
  reads : List (Nat × Nat × Nat)

/-- Where the data of a range comes from: memory, or words of the team's commit window (R249, R255). -/
def MxWho.sources (x : MxWho) (s : State) (vlt : Bool) (l : List Piece) : List Nat :=
  l.flatMap fun (p : Piece) => if vlt then addrs p.flat p.n else s.sources x.team p.va p.flat p.n

/-- Read one range. -/
def mxGet (x : MxWho) (vlt : Bool) (va n : Nat) (q : MxRead) : Except MxStop (MxRead × List Byte) :=
  match mxLand x vlt 0 va n q.s with
  | .error e => .error e
  | .ok (s1, l) =>
    let r := s1.checkAt (x.sources s1 vlt l)
    .ok (⟨r.1, worse q.bad r.2, if vlt then q.reads else q.reads ++ l.map fun (p : Piece) => (p.va, p.flat, p.n)⟩,
      r.1.pieceBytes (if vlt then [] else x.win) l)

/-- Read ranges of one size. -/
def mxGets (x : MxWho) (vlt : Bool) (n : Nat) : List Nat → MxRead → Except MxStop (MxRead × List (List Byte))
  | [], q => .ok (q, [])
  | va :: r, q =>
    match mxGet x vlt va n q with
    | .error e => .error e
    | .ok (q1, b) =>
      match mxGets x vlt n r q1 with
      | .error e => .error e
      | .ok (q2, l) => .ok (q2, b :: l)

/-! ### MLOOP (R303) -/

/-- The bytes of A row m in the row buffers. -/
def Matrix.bufferRow (mx : Matrix) (bits m : Nat) : List Byte :=
  (List.range (4 * bits)).map fun i =>
    let a := 4 * bits * m + i
    (sget 0 (a / 4) mx.arow).extractLsb' (8 * (a % 4)) 8

/-- The A rows of step j with their side entries. -/
def loopA (x : MxWho) (f : MFormat) (p : LoopPack) (mx : Matrix) (j : Nat) (q : MxRead) :
    Except MxStop (MxRead × List (List Byte) × List Byte) :=
  let rows : Except MxStop (MxRead × List (List Byte)) :=
    if p.abuf then
      .ok ({ q with bad := worse q.bad (if mx.arowBad f.bits then some .uncorrectable else none) }, (List.range 32).map (mx.bufferRow f.bits))
    else mxGets x p.asp (4 * f.bits) ((List.range 32).map fun m => p.abase + m * p.astride + 4 * f.bits * j) q
  match rows with
  | .error e => .error e
  | .ok (q1, l) =>
    if f.scaled then
      match mxGet x p.asp (p.abase + 32 * p.astride + 64 * j) 64 q1 with
      | .error e => .error e
      | .ok (q2, b) => .ok (q2, l, b)
    else .ok (q1, l, [])

/-- The B slice of step j with its side entries. -/
def loopB (x : MxWho) (f : MFormat) (p : LoopPack) (j : Nat) (q : MxRead) : Except MxStop (MxRead × List Byte × List Nat) :=
  match mxGets x p.bsp (64 * f.bits) ((List.range 32).map fun k => p.bbase + (32 * j + k) * p.bstride) q with
  | .error e => .error e
  | .ok (q1, l) =>
    if f.scaled then
      match mxGet x p.bsp (p.bbase + 32 * p.ksteps * p.bstride + 1024 * j) 1024 q1 with
      | .error e => .error e
      | .ok (q2, b) => .ok (q2, l.flatten, (List.range 512).map (sideOf b))
    else .ok (q1, l.flatten, [])

/-- One row of accumulator elements after a K-block: the values of the A row against every column. -/
def rowStep (f : MFormat) (ftz zero : Bool) (sl : (Nat → Byte) × (Nat → Nat)) (acc m : Nat) (row : List FVal) (mx : Matrix) : Matrix × Flags :=
  (List.range 512).foldl (fun (q : Matrix × Flags) n =>
    let old := if zero then FVal.zero false else readF .f32 ftz (mx.accGet acc (512 * m + n)).toNat
    let r := kblock ftz (row.zip (columnOf f ftz sl n)) old
    (q.1.accSet acc (512 * m + n) r.1, q.2 ||| r.2)) (mx, 0)

/-- The step's K-blocks over the tile. -/
def tileStep (f : MFormat) (ftz zero : Bool) (sl : (Nat → Byte) × (Nat → Nat)) (acc : Nat) (rows : List (List Byte)) (side : List Byte)
    (mx : Matrix) : Matrix × Flags :=
  rows.zipIdx.foldl (fun (q : Matrix × Flags) (p : List Byte × Nat) =>
    let r := rowStep f ftz zero sl acc p.2
      ((List.range 32).map fun k => f.value ftz (codeAt f.bits (byteOf p.1) k) (sideOf side p.2)) q.1
    (r.1, q.2 ||| r.2)) (mx, 0)

/-- Load, where the step loads a slice, and compute. The flags go to the issuing group. -/
def loopCompute (m : MCmd) (core j : Nat) (f : MFormat) (p : LoopPack) (rows : List (List Byte)) (side : List Byte)
    (slice : Option (List Byte × List Nat)) (badB : Bool) (q : MxRead) : State :=
  let s := q.s
  let c := s.coreAt core
  let mx := match slice with | some b => c.mx.putSlice p.stream f.bits b.1 b.2 | none => c.mx
  let held := if badB then mx.markSlice p.stream else mx
  let r := tileStep f (fmtFtz m.fmt) (p.zero && j == 0) (mx.slice s.tick p.stream f.bits) p.acc rows side held
  let mx1 := if q.bad.isSome then r.1.mark p.acc else r.1
  let s1 := s.setCore core { c with mx := mx1 }
  let s2 := if slice.isSome then s1.loadBanks core (bankOf s.tick f.bits j) else s1
  (s2.raiseIn m.team m.gidx r.2 0).noteReads { Group.init with team := m.team } q.reads

/-- One K-step. -/
def loopStep (x : MxWho) (m : MCmd) (core j : Nat) (s : State) : Except MxStop (State × Option Cause) :=
  let f := mformat m.fmt
  let p := loopPack m.pack
  match loopA x f p (s.coreAt core).mx j ⟨s, none, []⟩ with
  | .error e => .error e
  | .ok (q1, rows, side) =>
    if p.holdb then
      let q2 := { q1 with bad := worse q1.bad ((s.coreAt core).mx.sliceBad p.stream) }
      .ok (loopCompute m core j f p rows side none false q2, q2.bad)
    else
      match loopB x f p j { q1 with bad := none } with
      | .error e => .error e
      | .ok (q2, b) =>
        let q3 := { q2 with bad := worse q1.bad q2.bad }
        .ok (loopCompute m core j f p rows side (some b) q2.bad.isSome q3, q3.bad)

/-- The remaining K-steps, in ascending order. A step that stops leaves the steps before it done. -/
def loopSteps (x : MxWho) (m : MCmd) (core : Nat) : Nat → Nat → State → Option Cause → Except MxStop (State × Option Cause)
  | 0, _, s, bad => .ok (s, bad)
  | n + 1, j, s, bad =>
    match loopStep x m core j s with
    | .ok (s1, b) => loopSteps x m core n (j + 1) s1 (worse bad b)
    | .error e => .error e

/-- REGB: the slice and the accumulator are registered under WID, and the core's earlier registration ends (R306). -/
def State.register (s : State) (core : Nat) (m : MCmd) : State :=
  let p := loopPack m.pack
  let f := mformat m.fmt
  let d := s.dieAt (dieOf core)
  let old := d.regs.filter fun r => r.core != core
  if p.wid = 0 then s.setDie (dieOf core) { d with regs := old }
  else
    let mx := (s.coreAt core).mx
    s.setDie (dieOf core) { d with regs := (old.filter fun r => r.wid != p.wid)
      ++ [⟨p.wid, core, p.acc, p.stream, m.fmt, bankOf s.tick f.bits 0, mx.kept s.tick p.stream f.bits, mx.sliceBad p.stream⟩] }

/-- MLOOP performs. -/
def loopRun (x : MxWho) (core : Nat) (m : MCmd) (s : State) : Except MxStop (State × Option Ended) :=
  let p := loopPack m.pack
  match loopSteps x m core p.ksteps 0 s none with
  | .error e => .error e
  | .ok (s1, bad) =>
    .ok (if p.regb then s1.register core m else s1,
      match bad with
      | some c => some ⟨c, 0, 0⟩
      | none => none)

/-! ### MSTORE (R305) -/

/-- The values of an accumulator row. -/
def accRow (mx : Matrix) (ftz : Bool) (acc m : Nat) : List FVal :=
  (List.range 512).map fun n => readF .f32 ftz (mx.accGet acc (512 * m + n)).toNat

/-- The rounding of element (m, n): number 16 m + n / 32 of lane n mod 32, from the sdraw found at issue. -/
def storeRnd (m : MCmd) (key : Word) (seed : W32) (order row n : Nat) : Rnd :=
  convRnd m.fmt (if fmtRnd m.fmt = 4 then stoDraw key seed order m.sdraw (n % 32) (16 * row + n / 32) else 0)

/-- A converted row: its element codes, its side entries, its flags, and whether the assist computes some of it (R104). -/
structure StoreRow where
  codes : List Byte
  side : List Byte
  flags : Flags
  assist : Bool
  deriving DecidableEq, Repr

/-- Convert a row. -/
def storeRow (m : MCmd) (x : StorePack) (rnd : Nat → Rnd) (vals : List FVal) : StoreRow :=
  if storeScaled x then
    let bs := (List.range 16).map fun b => quantBlock (storeType x) x.x ((vals.drop (32 * b)).take 32) fun i => rnd (32 * b + i)
    ⟨packElems (storeType x) (bs.flatMap fun (b : QBlock) => b.codes),
     bs.flatMap fun (b : QBlock) => [BitVec.ofNat 8 b.scale, BitVec.ofNat 8 b.special], Flags.join (bs.map fun (b : QBlock) => b.flags), false⟩
  else
    let rs := vals.zipIdx.map fun (v : FVal × Nat) =>
      let r := finish (storeType x) ⟨rnd v.2, some (fmtNsat m.fmt), 0, 0, fmtFtz m.fmt⟩ v.1
      (r, nanFlags [v.1])
    ⟨packElems (storeType x) (rs.map fun (r : FRes × Flags) => r.1.bits), [],
     Flags.join (rs.map fun (r : FRes × Flags) => r.1.flags ||| r.2), rs.any fun (r : FRes × Flags) => r.1.assist⟩

/-- Poisoned data buffered in a commit window marks the words that hold it (R248, R255). -/
def State.poisonWindow (s : State) (team va n : Nat) : State :=
  match s.team? team with
  | none => s
  | some t => (addrs va n).foldl (fun (u : State) a => u.poisonRange (windowAt t.commit (dieOf t.core) t.cbase a) 1) s

/-- Write a range of a command: buffered in a commit task where it is global (R255); poisoned where the accumulator is. -/
def mxPut (x : MxWho) (m : MCmd) (vlt poisoned : Bool) (va : Nat) (bytes : List Byte) (s : State) :
    Except MxStop (State × List (Nat × Nat)) :=
  match mxLand x vlt 1 va bytes.length s with
  | .error e => .error e
  | .ok (s1, l) =>
    let g : Group := { Group.init with team := m.team }
    if !vlt && s1.inCommit g then
      let s2 := s1.bufferBytes g (va % 2 ^ 64) bytes
      .ok (if poisoned then s2.poisonWindow m.team (va % 2 ^ 64) bytes.length else s2, [])
    else
      .ok (if poisoned then putPoisoned s1 l bytes (bytes.map fun _ => true) else writePieces s1 l bytes,
        if poisoned then [] else l.map fun (p : Piece) => (p.flat, p.n))

/-- The rows of an MSTORE from row m on; a row that stops leaves the rows before it written. -/
def storeRows (x : MxWho) (m : MCmd) (p : StorePack) (rowOf : Nat → StoreRow) (poisoned : Bool) :
    Nat → Nat → State → List (Nat × Nat) → Except MxStop (State × List (Nat × Nat))
  | 0, _, s, w => .ok (s, w)
  | n + 1, i, s, w =>
    let r := rowOf i
    match mxPut x m p.dsp poisoned (p.side + 32 * i) r.side s with
    | .error e => .error e
    | .ok (s1, w1) =>
      match mxPut x m p.dsp poisoned (p.dbase + i * p.dstride) r.codes s1 with
      | .error e => .error e
      | .ok (s2, w2) => storeRows x m p rowOf poisoned n (i + 1) s2 (w ++ w1 ++ w2)

/-- The stores of an MSTORE as ranges, for the room of the commit window (R257). -/
def storeRanges (p : StorePack) : List (Nat × Nat) :=
  (List.range 32).flatMap fun i =>
    (if storeScaled p then [(p.side + 32 * i, 32)] else []) ++ [(p.dbase + i * p.dstride, 64 * storeBits p)]

/-- MSTORE performs; its draws are keyed as the generator was at its issue (log entry 89). One that needs more lines than its commit
window has room for ends with COMMIT_OVERFLOW unwritten. -/
def storeRun (x : MxWho) (core : Nat) (m : MCmd) (s : State) : Except MxStop (State × Option Ended) :=
  let p := storePack m.pack
  let t : Group := { Group.init with team := m.team }
  match if !p.dsp && s.inCommit t then overflowLine (s.windowOf t) (s.windowRoom t) (storeRanges p) else none with
  | some line => .ok (s, some ⟨.commitOverflow, wd line, 0⟩)
  | none =>
    let mx := (s.coreAt core).mx
    let g : Group := { t with gidx := m.gidx }
    let seed : W32 := match s.gridOf g with | some y => BitVec.ofNat 32 (recSeed y.record) | none => 0
    let rowOf (i : Nat) : StoreRow :=
      storeRow m p (storeRnd m m.rngkey seed g.order i) (accRow mx (fmtFtz m.fmt) p.acc i)
    let rows := (List.range 32).map rowOf
    let poisoned := mx.poison.getLsbD p.acc
    match storeRows x m p rowOf poisoned 32 0 s [] with
    | .error e => .error e
    | .ok (s1, w) =>
      .ok ((s1.markRanges w).raiseIn m.team m.gidx (Flags.join (rows.map fun (r : StoreRow) => r.flags))
          (if rows.any fun (r : StoreRow) => r.assist then 1 else 0),
        if poisoned then some ⟨.poison, 0, 0⟩ else none)

/-! ### The end of a command -/

/-- A command ends: its locks are released; one with a fault stays for its MWAIT (R226, R308). -/
def State.mxDone (s : State) (core : Nat) (m : MCmd) (e : Option Ended) : State :=
  let c := s.coreAt core
  let l := match e with
    | none => c.mcmds.filter fun (x : MCmd) => x.id != m.id
    | some f => c.mcmds.map fun (x : MCmd) => if x.id = m.id then { x with fault := some f, pageReq := none } else x
  (s.setCore core { c with mcmds := l }).releaseLocks m.id

/-- Ask the host for a page of a command, where the context's PRIEN allows it (R226, R240). -/
def State.mxAsk (s : State) (core : Nat) (m : MCmd) (acc va : Nat) : State :=
  let r : WalkReq := ⟨.command m.id, wd va, BitVec.ofNat 2 acc, m.user, m.ctx⟩
  let t := s.sendPage core r
  let c := t.coreAt core
  t.setCore core { c with mcmds := c.mcmds.map fun (x : MCmd) => if x.id = m.id then { x with pageReq := some r } else x }

/-- PAGE_FAULT of a matrix command or a posted row; its path is GLB. -/
def pageEnded (kind level acc va : Nat) : Ended := ⟨.pageFault, wd va, faultProg kind level acc 1 0⟩

/-- What a run of a command comes to: `s` is the state before it. A first-touch page is mapped and the command tries again;
a missing page is requested; any other fault ends the command (R226). -/
def mxEnd (s : State) (core : Nat) (m : MCmd) (r : Except MxStop (State × Option Ended)) : State :=
  match r with
  | .ok (t, e) => t.mxDone core m e
  | .error (.wait t) => s.keepMiss t core
  | .error (.protect t acc va pa) => t.freezeMatrix core m m.ctx acc (wd va) (wd pa)
  | .error (.fault t k l acc va) =>
    if k = 1 then
      match s.firstTouch m.ctx core (dieOf core) va with
      | (s1, .noFrame) => if s.prien core m.ctx then s1.mxAsk core m acc va else t.mxDone core m (some (pageEnded 8 l acc va))
      | (s1, _) => s1
    else if k = 0 && s.prien core m.ctx then s.mxAsk core m acc va
    else t.mxDone core m (some (pageEnded k l acc va))

/-- Commands of one stream run in issue order (R301). One that loads or registers B waits for the batches formed before it. -/
def mxBlocked (m : MCmd) (before : List MCmd) : Bool :=
  before.any fun x => x.fault.isNone && (x.stream == m.stream || (m.kind == 0 && x.kind == 3))

/-- MATRIX_COMMAND_COMPLETE (R301). -/
def execMatrixCommandComplete (core cmd : Nat) (s : State) : Result :=
  let l := (s.coreAt core).mcmds
  match l.find? fun m => m.id == cmd && m.kind != 3 with
  | none => .next s
  | some m =>
    if m.fault.isSome || m.pageReq.isSome || mxBlocked m (l.takeWhile fun x => x.id != cmd)
        || s.atomsBefore m.team m.gidx m.id then .next s
    else
      let s := s.asServed core m.ctx
      let t : Group := { Group.init with team := m.team }
      let v := match s.team? m.team with | some y => (dieOf core, y.base) | none => (dieOf core, 0)
      let x : MxWho := ⟨⟨.command m.id, core, m.ctx, m.user⟩, m.team, v, s.windowOf t⟩
      match m.kind with
      | 0 => .next (mxEnd s core m (loopRun x core m s))
      | 1 => .next (mxEnd s core m (storeRun x core m s))
      | _ =>
        let c := s.coreAt core
        .next ((s.setCore core { c with mx :=
          { c.mx with acc := c.mx.acc.filter fun p => p.1 / 16384 != m.acc, poison := putBits c.mx.poison m.acc 1 0 } }).mxDone core m none)

/-! ### The batch-forming queue -/

/-- What a row accesses memory with. -/
def rowWho (id : Nat) (r : PostRow) : MxWho := ⟨⟨.command id, r.core, r.ctx, r.user⟩, r.team, (0, 0), []⟩

/-- PROTECTION on a posted row freezes its poster in the same cycle (R243, R244). -/
def State.rowFreeze (s : State) (r : PostRow) (acc va pa : Nat) : State :=
  match s.findGroup r.team r.gidx with
  | some k => if (sget Group.init k s.groups).live then s.freezeGroup (k / 48) (k % 48) acc (wd va) (wd pa) else s
  | none => s

/-- Read a row as its batch forms (R309): one that a miss, a held row or a fault delays is read when the batch runs. -/
def readRow (id : Nat) (r : PostRow) (s : State) : State × PostRow :=
  match mxGet (rowWho id r) false r.addr.toNat 66 ⟨s.asServed r.core r.ctx, none, []⟩ with
  | .ok (q, bytes) => (q.s.withKey s.cur.key, { r with row := some (bytes, q.bad) })
  | .error (.protect t acc va pa) => ((t.rowFreeze r acc va pa).withKey s.cur.key, r)
  | .error (.wait t) => (s.keepMiss t r.core, r)
  | .error (.fault _ _ _ _ _) => (s, r)

/-- Read the rows of a batch in order. -/
def readBatch (id : Nat) : List PostRow → State → State × List PostRow
  | [], s => (s, [])
  | r :: rest, s =>
    let q := readRow id r s
    let p := readBatch id rest q.1
    (p.1, q.2 :: p.2)

/-- Form a batch of the `n` oldest rows of an identifier (R206): its rows are read, and it joins the commands of the core that
registered it. -/
def State.formBatch (s : State) (die : Nat) (wid : Word) (n : Nat) : State :=
  let d := s.dieAt die
  let rows := (d.posts.filter fun r => r.wid == wid).take n
  let reg := d.regs.find? fun r => r.wid == wid.toNat
  let q := if reg.isSome then readBatch s.nextCmd rows s else (s, rows)
  let d1 := q.1.dieAt die
  let s1 := { q.1.setDie die { d1 with
      posts := d1.posts.filter fun r => !rows.contains r
      batches := d1.batches ++ [⟨s.nextCmd, q.2, reg, none⟩] } with nextCmd := s.nextCmd + 1 }
  match reg with
  | none => s1
  | some r =>
    let c := s1.coreAt r.core
    let team := match c.holder with | some t => t | none => 0
    s1.setCore r.core { c with mcmds := c.mcmds ++ [⟨s.nextCmd, 3, [], r.stream, r.acc, 0, true, team, 16, 0, r.fmt, 0, 0, none, none⟩] }

/-- BFQPOST (R205, R206, R309). The group's earlier events come before the reading of the row (R167). -/
def execBfqpost (d a b : SReg) (s : State) : Result :=
  let g := s.g
  let die := dieOf s.cur.core
  let x := s.dieAt die
  if g.sreg a = 0 then s.trapS .reservedField
  else if (g.sreg b).toNat % 128 ≠ 0 then s.trapScalar .misaligned (some (g.sreg b)) 0
  else if s.inCommit g then s.trapS .commitForbidden
  else if 1024 ≤ x.posts.length then s.stall .posts
  else if !g.performed then s.stall .performed
  else
    let r : PostRow := ⟨g.sreg a, g.sreg b, s.cur.core, g.ctx, g.mode == .user, g.team, g.gidx, g.nextTicket, s.now, none, false⟩
    let s1 := (s.setDie die { x with posts := x.posts ++ [r] }).modG fun g =>
      { g with nextTicket := g.nextTicket + 1, tickets := g.tickets ++ [(g.nextTicket, none)] }
    let full := 32 ≤ ((x.posts ++ [r]).filter fun (y : PostRow) => y.wid == g.sreg a).length
    .next ((if full then s1.formBatch die (g.sreg a) 32 else s1).writeNext d (wd g.nextTicket))

/-- BFQWAIT (R310): a ticket is good for one wait. -/
def execBfqwait (a : SReg) (s : State) : Result :=
  let n := (s.g.sreg a).toNat
  match s.g.tickets.find? fun t => t.1 == n with
  | none => s.trapS .illegalWait
  | some (_, none) => s.wait (.ticket n)
  | some (_, some e) =>
    let s1 := s.modG fun g => { g with tickets := g.tickets.filter fun t => t.1 != n }
    match e with
    | none => .next s1.nextPc
    | some f => raiseEnded f s1

/-- BATCH_FORM_TIMEOUT (R206). -/
def execBatchFormTimeout (die : Nat) (wid : Word) (s : State) : Result :=
  let rows := (s.dieAt die).posts.filter fun r => r.wid == wid
  match rows with
  | [] => .next s
  | r :: _ => .next (if r.time + 2048 ≤ s.dieCycles die then s.formBatch die wid rows.length else s)

/-- A row has ended: its ticket says how, with the flags that it raised in its poster. -/
def State.rowOver (s : State) (die : Nat) (b : Batch) (j : Nat) (r : PostRow) (e : Option Ended) (f : Flags) : State :=
  let d := s.dieAt die
  let upd (x : Batch) : Batch :=
    if x.id = b.id then { x with pageReq := none, rows := x.rows.zipIdx.map fun (p : PostRow × Nat) => if p.2 = j then { p.1 with settled := true } else p.1 }
    else x
  ((s.setDie die { d with batches := d.batches.map upd }).raiseIn r.team r.gidx f 0).modTeamGroup r.team r.gidx fun g =>
    { g with tickets := g.tickets.map fun t => if t.1 = r.ticket then (t.1, some e) else t }

/-- The results of row j against the registered slice, into the registered accumulator (R309). -/
def rowCompute (reg : Registration) (j : Nat) (bytes : List Byte) (s : State) : State × List Byte × Flags :=
  let f := mformat reg.fmt
  let c := s.coreAt reg.core
  let row := (List.range 32).map fun k => f.value (fmtFtz reg.fmt) (codeAt f.bits (byteOf bytes) k) (sideOf bytes 32)
  let q := rowStep f (fmtFtz reg.fmt) true (keptSlice reg.slice) reg.acc j row c.mx
  (s.setCore reg.core { c with mx := q.1 }, (List.range 512).flatMap fun n => toBytes 4 (q.1.accGet reg.acc (512 * j + n)).toNat, q.2)

/-- Write a row's results. -/
def rowWrite (x : MxWho) (r : PostRow) (bytes : List Byte) (f : Flags) (s : State) : Except MxStop (State × Option Ended × Flags) :=
  match mxLand x false 1 (r.addr.toNat + 128) 2048 s with
  | .error e => .error e
  | .ok (s1, l) => .ok (writePieces s1 l bytes, none, f)

/-- The bytes of a row: those read at formation, or those that it reads now. -/
def rowBytes (x : MxWho) (r : PostRow) (s : State) : Except MxStop (State × List Byte × Option Cause) :=
  match r.row with
  | some (bytes, bad) => .ok (s, bytes, bad)
  | none =>
    match mxGet x false r.addr.toNat 66 ⟨s, none, []⟩ with
    | .error e => .error e
    | .ok (q, bytes) => .ok (q.s, bytes, q.bad)

/-- Bad data in a row or in the registered slice ends the row unwritten and poisons the accumulator (Table 10-3). -/
def State.rowPoison (s : State) (reg : Registration) : State :=
  let c := s.coreAt reg.core
  s.setCore reg.core { c with mx := c.mx.mark reg.acc }

/-- Run row j of a batch: without a registration its results are NaN (R207). -/
def rowRun (b : Batch) (j : Nat) (r : PostRow) (s : State) : Except MxStop (State × Option Ended × Flags) :=
  let x := rowWho b.id r
  match b.reg with
  | none => rowWrite x r ((List.replicate 512 0x7FC00000).flatMap (toBytes 4)) Flags.inv s
  | some reg =>
    match rowBytes x r s with
    | .error e => .error e
    | .ok (s1, bytes, bad) =>
      match worse bad reg.bad with
      | some c => .ok (s1.rowPoison reg, some ⟨c, 0, 0⟩, 0)
      | none =>
        match rowCompute reg j bytes s1 with
        | (s2, out, f) => rowWrite x r out f s2

/-- Ask the host for a page of a post record. -/
def State.rowAsk (s : State) (die : Nat) (b : Batch) (r : PostRow) (acc va : Nat) : State :=
  let q : WalkReq := ⟨.command b.id, wd va, BitVec.ofNat 2 acc, r.user, r.ctx⟩
  let t := s.sendPage r.core q
  let d := t.dieAt die
  t.setDie die { d with batches := d.batches.map fun (x : Batch) => if x.id = b.id then { x with pageReq := some q } else x }

/-- The rows that are not over, in order, up to one that waits; and whether all are over. -/
def batchRows (die : Nat) (b : Batch) : List (PostRow × Nat) → State → State × Bool
  | [], s => (s, true)
  | (r, j) :: rest, s =>
    if r.settled then batchRows die b rest s
    else
      match rowRun b j r (s.asServed r.core r.ctx) with
      | .ok (s1, e, f) => batchRows die b rest (s1.rowOver die b j r e f)
      | .error (.wait t) => (s.keepMiss t r.core, false)
      | .error (.protect t acc va pa) =>
        batchRows die b rest ((t.rowFreeze r acc va pa).rowOver die b j r (some ⟨.protection, wd va, 0⟩) 0)
      | .error (.fault t k l acc va) =>
        if k = 1 then
          match s.firstTouch r.ctx r.core die va with
          | (s1, .noFrame) =>
            if s.prien r.core r.ctx then (s1.rowAsk die b r acc va, false)
            else batchRows die b rest (t.rowOver die b j r (some (pageEnded 8 l acc va)) 0)
          | (s1, _) => (s1, false)
        else if k = 0 && s.prien r.core r.ctx then (s.rowAsk die b r acc va, false)
        else batchRows die b rest (t.rowOver die b j r (some (pageEnded k l acc va)) 0)

/-- The commands before a batch in its core's queue hold it (R206, R301). -/
def State.batchHeld (s : State) (b : Batch) : Bool :=
  match b.reg with
  | none => false
  | some r =>
    ((s.coreAt r.core).mcmds.takeWhile fun (x : MCmd) => x.id != b.id).any fun x => x.fault.isNone && x.stream == r.stream

/-- BATCH_COMPLETE (R207, R309, R310). Batches of one identifier run in formation order. -/
def execBatchComplete (die batch : Nat) (s : State) : Result :=
  let l := (s.dieAt die).batches
  match l.find? fun b => b.id == batch with
  | none => .next s
  | some b =>
    let wid (x : Batch) : Option Word := (x.rows.head?).map fun r => r.wid
    let earlier := (l.takeWhile fun x => x.id != batch).any fun x => wid x == wid b
    if b.pageReq.isSome || earlier || s.batchHeld b then .next s
    else
      match batchRows die b b.rows.zipIdx s with
      | (s1, false) => .next s1
      | (s1, true) =>
        let d := s1.dieAt die
        let s2 := s1.setDie die { d with batches := d.batches.filter fun x => x.id != batch }
        match b.reg with
        | none => .next s2
        | some r =>
          let c := s2.coreAt r.core
          .next (s2.setCore r.core { c with mcmds := c.mcmds.filter fun x => x.id != batch })

end Sys2Proof.Machine
end

