-- ==== Sys2Proof/Machine/Engine.lean ====
section
/-! DEFINITION. Engine commands (R311 to R316, R204) and the count journal (R317). A command performs as a whole at its
completion event; where a fault ends it, which of the bytes before the fault it has written is free (log entry 9). -/

namespace Sys2Proof.Machine

/-! ### Issue -/

/-- The handle of a token (Table 8-3), and the token after it (R179). -/
def handleOf (tok : Nat) : Word := wd (2 ^ 62 + tok)
def tokenAfter (tok : Nat) : Nat := if tok = 2 ^ 21 - 1 then 1 else tok + 1

/-- The command that an issue makes; JRNL.COMMIT takes no token. -/
def newCommand (kind tok : Nat) (pack : List Word) (s : State) : ECmd :=
  ⟨s.nextCmd, kind, pack, s.cur.core, s.g.team, s.g.gidx, s.g.ctx, s.g.mode == .user, tok, false, none, none⟩

/-- The command joins the outstanding ones, with its locks, counted on ENG. -/
def State.launch (s : State) (c : ECmd) (locks : List LockReq) : State :=
  ({ s.addLocks c.ctx c.id locks with ecmds := s.ecmds ++ [c], nextCmd := s.nextCmd + 1 }).modG fun g =>
    g.track { newAccess .eng g.scalarSpot ⟨false, false⟩ g.spc [] with cmd := some c.id }

/-- A command of R311: its handle goes to sd, and `after` happens to it at once. -/
def engIssue (kind : Nat) (pack : List Word) (locks : List LockReq) (after : ECmd → State → State) (d : SReg) (s : State) : State :=
  let tok := s.g.nextTok
  let c := newCommand kind tok pack s
  let s1 := (s.launch c locks).modG fun g => { g with nextTok := tokenAfter tok, tokDone := g.tokDone.filter fun p => p.1 != tok }.keepRecent
  after c (s1.writeNext d (handleOf tok))

/-- Nothing happens to the command at issue. -/
def later : ECmd → State → State := fun _ s => s

/-- What the five share at issue: the join (R161), the counter (R148). -/
def engGate (k : State → Result) (s : State) : Result := s.joinCommand fun s => if s.g.full .eng then s.stall (.counter .eng) else k s

/-- The checks of a pack in order, then the locks, then the command (R311, R256, R154). -/
def engChecked (reserved misaligned overrun forbidden : Bool) (locks : List LockReq) (k : State → State) (s : State) : Result :=
  if reserved then s.trapS .reservedField
  else if misaligned then s.trapS .misaligned
  else if overrun then s.trapS .scratchBounds
  else if forbidden then s.trapS .commitForbidden
  else if !s.lockRoom locks then s.stall (.locks locks)
  else .next (k s)

/-- The vault window of a resident team of a grid: die, base, size. -/
def State.teamWindow (s : State) (grid team : Nat) : Option (Nat × Nat × Nat) :=
  match s.team? (teamKey grid team) with
  | some t => if t.image.isNone then some (dieOf t.core, t.base, t.wsize) else none
  | none => none

/-- The grid of a command's group, and its team's index. -/
def ECmd.grid (c : ECmd) : Nat := c.team / 2 ^ 32
def ECmd.teamIndex (c : ECmd) : Nat := c.team % 2 ^ 32

/-- An operand of a command in global memory or in a team's window: none where the team is not resident or its window too
small (R312). -/
def State.operandSpace (s : State) (grid : Nat) (vault : Bool) (team va n : Nat) : Option (Option (Nat × Nat)) :=
  if vault then
    match s.teamWindow grid team with
    | some (die, base, size) => if va + n ≤ size then some (some (die, base)) else none
    | none => none
  else some none

/-- The lock of an operand (R153); an operand in a window that is not there takes none. -/
def State.operandLock (s : State) (grid : Nat) (vault : Bool) (team va n : Nat) (write : Bool) : List LockReq :=
  if n = 0 then []
  else
    match s.operandSpace grid vault team va n with
    | some (some (die, base)) => [⟨true, base + va, n, write, die⟩]
    | some none => [⟨false, va, n, write, dieOf s.cur.core⟩]
    | none => []

/-! ### Packs -/

/-- COPY (R312). -/
structure CopyPack where
  src : Nat
  dst : Nat
  len : Nat
  ssp : Bool
  dsp : Bool
  steam : Nat
  dteam : Nat
  deriving DecidableEq, Repr

def copyPack (p : List Word) : CopyPack :=
  let f := p.getD 3 0
  ⟨(p.getD 0 0).toNat, (p.getD 1 0).toNat, (p.getD 2 0).toNat, f.getLsbD 0, f.getLsbD 1, bitsOf f 2 16, bitsOf f 18 16⟩

/-- Source and destination overlap, as the issue can tell: in global memory, or in the issuing team's own window (R312). -/
def CopyPack.overlaps (x : CopyPack) (own : Nat) : Bool :=
  x.ssp == x.dsp && (!x.ssp || (x.steam == own && x.dteam == own)) && overlap x.src x.len x.dst x.len && x.len != 0

/-- GATHER (R313). -/
structure GatherPack where
  idx : Nat
  table : Nat
  row : Nat
  dsp : Bool
  isp : Bool
  count : Nat
  dst : Nat
  deriving DecidableEq, Repr

def gatherPack (p : List Word) : GatherPack :=
  let f := p.getD 2 0
  ⟨(p.getD 0 0).toNat, (p.getD 1 0).toNat, bitsOf f 0 20, f.getLsbD 20, f.getLsbD 21, bitsOf f 32 32, (p.getD 3 0).toNat⟩

/-- MCAST (R314). -/
structure McastPack where
  src : Nat
  off : Nat
  len : Nat
  first : Nat
  count : Nat
  deriving DecidableEq, Repr

def mcastPack (p : List Word) : McastPack :=
  ⟨(p.getD 0 0).toNat, (p.getD 1 0).toNat, (p.getD 2 0).toNat, bitsOf (p.getD 3 0) 0 16, bitsOf (p.getD 3 0) 16 16⟩

/-- COLL (R315). -/
structure CollPack where
  src : Nat
  dst : Nat
  count : Nat
  domain : Nat
  step : Nat
  op : Nat
  ty : EType
  deriving DecidableEq, Repr

def collPack (p : List Word) : CollPack :=
  let f := p.getD 3 0
  ⟨(p.getD 0 0).toNat, (p.getD 1 0).toNat, bitsOf (p.getD 2 0) 0 32, bitsOf f 0 16, bitsOf f 16 32, bitsOf f 48 3, EType.ofCode (f.extractLsb' 51 4)⟩

/-- Bytes of a collective's source and destination; a gather delivers every member's elements. -/
def CollPack.bytes (x : CollPack) : Nat := x.count * (x.ty.bits / 8)
def CollPack.outBytes (x : CollPack) (members : Nat) : Nat := if x.op = 3 then members * x.bytes else x.bytes

/-- The members of a domain. -/
def State.domainSize (s : State) (d : Nat) : Nat :=
  match lookupKey d s.domains with
  | some x => x.members.length
  | none => 0

/-! ### The five commands -/

/-- COPY (R312): a length of 0 completes at once. -/
def execCopy (d a : SReg) (s : State) : Result :=
  quadChecked a (engGate (fun s =>
    let p := s.packAt a
    let x := copyPack p
    let own := s.g.teamIndex
    let grid := s.g.team / 2 ^ 32
    let size := s.vaultWindow.2
    let beyond (v : Bool) (team va : Nat) : Bool := v && team == own && size < va + x.len
    let locks := s.operandLock grid x.ssp x.steam x.src x.len false ++ s.operandLock grid x.dsp x.dteam x.dst x.len true
    engChecked (bitsOf (p.getD 3 0) 34 30 != 0 || x.overlaps own)
      (x.src % 4 != 0 || x.dst % 4 != 0 || x.len % 4 != 0)
      (beyond x.ssp x.steam x.src || beyond x.dsp x.dteam x.dst)
      (s.inCommit s.g && !x.dsp) locks
      (engIssue 1 p locks (if x.len = 0 then fun c t => t.endCommand c stDone else later) d) s)) s

/-- GATHER (R313): a ROWBYTES of 1 to 3 is no multiple of 4, and one of 0 is outside its range. -/
def execGather (d a : SReg) (s : State) : Result :=
  quadChecked a (engGate (fun s =>
    let p := s.packAt a
    let x := gatherPack p
    let own := s.g.teamIndex
    let grid := s.g.team / 2 ^ 32
    let size := s.vaultWindow.2
    let locks := s.operandLock grid x.isp own x.idx (4 * x.count) false ++ s.operandLock grid x.dsp own x.dst (x.count * x.row) true
    engChecked (bitsOf (p.getD 2 0) 22 10 != 0 || x.row == 0)
      (x.idx % 4 != 0 || x.table % 4 != 0 || x.dst % 4 != 0 || x.row % 4 != 0)
      ((x.isp && size < x.idx + 4 * x.count) || (x.dsp && size < x.dst + x.count * x.row))
      (s.inCommit s.g && !x.dsp) locks (engIssue 2 p locks later d) s)) s

/-- A save of a team of a grid has begun (R204). -/
def State.savingTeam (s : State) (grid team : Nat) : Bool :=
  match s.team? (teamKey grid team) with
  | some t => t.saving
  | none => false

/-- Receivers of a multicast, and their windows where every one is resident, not being saved, and large enough (R204, R314). -/
def State.receivers (s : State) (grid : Nat) (x : McastPack) : Option (List (Nat × Nat × Nat)) :=
  (List.range x.count).foldr (fun i l =>
    match l, s.operandSpace grid true (x.first + i) x.off x.len with
    | some r, some (some (die, base)) => if s.savingTeam grid (x.first + i) then none else some ((x.first + i, die, base) :: r)
    | _, _ => none) (some [])

/-- Take a reference on every receiver (R204). -/
def State.takeRefs (s : State) (grid : Nat) (l : List (Nat × Nat × Nat)) : State :=
  l.foldl (fun (t : State) r =>
    match t.team? (teamKey grid r.1) with
    | some x => t.setTeam (teamKey grid r.1) { x with mcast := x.mcast + 1 }
    | none => t) s

/-- MCAST (R314): a multicast with a receiver that is not there is refused; it completes at once and has no reference. -/
def execMcast (d a : SReg) (s : State) : Result :=
  quadChecked a (engGate (fun s =>
    let p := s.packAt a
    let x := mcastPack p
    let grid := s.g.team / 2 ^ 32
    let mine := x.first ≤ s.g.teamIndex && s.g.teamIndex < x.first + x.count
    let rs := s.receivers grid x
    let locks :=
      match rs with
      | some l =>
        if x.len = 0 then []
        else ⟨false, x.src, x.len, false, dieOf s.cur.core⟩ :: l.map fun (r : Nat × Nat × Nat) => ⟨true, r.2.2 + x.off, x.len, true, r.2.1⟩
      | none => []
    engChecked (bitsOf (p.getD 3 0) 32 32 != 0) (x.len % 4 != 0) (mine && s.vaultWindow.2 < x.off + x.len) false locks
      (match rs with
       | some l => fun t => engIssue 3 p locks later d (t.takeRefs grid l)
       | none => engIssue 3 [] [] (fun c t => t.endCommand c stRefused) d) s)) s

/-- COLL (R315). -/
def execColl (d a : SReg) (s : State) : Result :=
  quadChecked a (engGate (fun s =>
    let p := s.packAt a
    let x := collPack p
    let f := p.getD 3 0
    let tyOk := [0x0, 0x2, 0x8, 0xC].contains (bitsOf f 51 4)
    let locks : List LockReq :=
      [⟨false, x.src, x.bytes, false, dieOf s.cur.core⟩, ⟨false, x.dst, x.outBytes (s.domainSize x.domain), true, dieOf s.cur.core⟩]
    engChecked (bitsOf (p.getD 2 0) 32 32 != 0 || x.count == 0 || 3 < x.op || !tyOk || bitsOf f 55 9 != 0) false false
      (s.inCommit s.g) locks (engIssue 4 p locks later d) s)) s

/-- An explicit launch is delivered to its SDUE's queue; one to an absent stack fails (R316). -/
def deliverProgram (sel : Word) (c : ECmd) (s : State) : State :=
  if packAuto sel then s
  else if !s.cap.hbmStacks.getLsbD (bitsOf sel 0 5) then s.endCommand c stFailed
  else
    let k := s.stackAt (bitsOf sel 0 5)
    s.setStack (bitsOf sel 0 5)
      { k with queue := k.queue ++ [(bitsOf sel 5 2, newProgram c.ctx c.id (c.pack.getD 0 0) (c.pack.getD 1 0))] }

/-- NMLAUNCH (R316). -/
def execNmlaunch (d a : SReg) (s : State) : Result :=
  quadChecked a (engGate (fun s =>
    let p := s.packAt a
    let sel := p.getD 2 0
    engChecked (bitsOf sel 8 56 != 0 || p.getD 3 0 != 0 || (packAuto sel && bitsOf sel 0 7 != 0))
      ((p.getD 0 0).toNat % 8 != 0 || (p.getD 1 0).toNat % 8 != 0) false (s.inCommit s.g) []
      (engIssue 5 p [] (deliverProgram sel) d) s)) s

/-! ### Moving bytes (R248) -/

/-- Why a move does not happen: it waits; a fault or PROTECTION at an offset of the range; the access kind. -/
inductive MoveStop where
  | wait (s : State)
  | fault (s : State) (kind acc va off : Nat)
  | protect (s : State) (acc va pa off : Nat)

/-- Where an operand of a move lies: its space, its first address. -/
structure Place where
  space : Option (Nat × Nat)
  va : Nat

/-- Land a range for an access kind. -/
def movePieces (w : Who) (p : Place) (kind n : Nat) (s : State) : Except MoveStop (State × List Piece) :=
  match s.landSpace w p.space kind (p.va % 2 ^ 64) n with
  | (s1, .busy) => .error (.wait s1)
  | (s1, .fault k _ a) => .error (.fault s1 k kind a (a - p.va % 2 ^ 64))
  | (s1, .protect a pa) => .error (.protect s1 kind a pa (a - p.va % 2 ^ 64))
  | (s1, .ok l) =>
    if if kind = 0 then s1.piecesHeld l 32 0 else s1.writesHeld l 32 0 then .error (.wait s)
    else
      match s1.pieceRefused l with
      | some x => .error (.protect s1 kind x.va x.flat (x.va - p.va % 2 ^ 64))
      | none => .ok (s1, l)

/-- Both ends of a move of `n` bytes. -/
def landMove (w : Who) (src dst : Place) (n : Nat) (s : State) : Except MoveStop (State × List Piece × List Piece) :=
  match movePieces w src 0 n s with
  | .error e => .error e
  | .ok (s1, a) =>
    match movePieces w dst 1 n s1 with
    | .error e => .error e
    | .ok (s2, b) => .ok (s2, a, b)

/-- Note global pieces that an engine read (R261). -/
def State.engineReads (s : State) (team : Nat) (space : Option (Nat × Nat)) (l : List Piece) : State :=
  if space.isNone then s.auditReads team [] (l.map fun (p : Piece) => (p.va, p.flat, p.n)) else s

/-- Move `n` bytes; whether some were bad. -/
def moveAll (w : Who) (team : Nat) (src dst : Place) (n : Nat) (s : State) : Except MoveStop (State × Bool) :=
  match landMove w src dst n s with
  | .error e => .error e
  | .ok (s1, a, b) =>
    let bad := badBytes s1 a
    let r := readPieces s1 a
    .ok (putPoisoned (r.1.engineReads team src.space a) b r.2.1 bad, bad.any id)

/-- Flat addresses of pieces, byte by byte. -/
def pieceFlats (l : List Piece) : List Nat := l.flatMap fun (p : Piece) => (List.range p.n).map (p.flat + ·)

/-- Write those of some bytes, from number `i` on, that a free choice takes. -/
def putSome (s : State) (i : Nat) (b : List Piece) (q : List Byte × List Bool) : State :=
  (((pieceFlats b).zip (q.1.zip q.2)).zipIdx).foldl (fun (t : State) (x : (Nat × Byte × Bool) × Nat) =>
    if Config.freeChoice s.tick (64 + i + x.2) % 2 = 1 then t.store x.1.1 [x.1.2.1] x.1.2.2 else t) s

/-- Move the bytes of a prefix that a free choice takes. -/
def movePart (s : State) (a b : List Piece) : State :=
  putSome (readPieces s a).1 0 b ((readPieces s a).2.1, badBytes s a)

/-- What a command that a fault ends has written of a range: a free part of the bytes before the offset of the fault. -/
def moveSome (w : Who) (src dst : Place) (off : Nat) (s : State) : State :=
  match landMove w src dst off s with
  | .ok (s1, a, b) => movePart s1 a b
  | .error (.fault _ _ _ _ o) => match landMove w src dst o s with | .ok (s1, a, b) => movePart s1 a b | .error _ => s
  | .error (.protect _ _ _ _ o) => match landMove w src dst o s with | .ok (s1, a, b) => movePart s1 a b | .error _ => s
  | .error (.wait _) => s

/-! ### How a command goes on (R226, R243) -/

/-- The fault leaves the command running: a first-touch page, or a page that the host is asked for. -/
def State.willRetry (s : State) (c : ECmd) (kind va : Nat) : Bool :=
  if kind = 1 then (match s.firstTouch c.ctx c.core (dieOf c.core) va with | (_, .noFrame) => s.prien c.core c.ctx | _ => true)
  else kind == 0 && s.prien c.core c.ctx

/-- A command stops: `s` is the state before it ran, `part` what it has written by then. -/
def engStop (c : ECmd) (s : State) (part : Nat → State) (e : MoveStop) : State :=
  match e with
  | .wait t => s.keepMiss t c.core
  | .fault _ k acc va off => if s.willRetry c k va then s.cmdFault c c.user k acc va else (part off).endCause c stFailed (some Cause.pageFault.code)
  | .protect _ acc va pa off => (part off).freezeEngine c acc (wd va) (wd pa)

/-- COPY performs (R312). -/
def copyRun (c : ECmd) (s : State) : State :=
  let x := copyPack c.pack
  match s.operandSpace c.grid x.ssp x.steam x.src x.len, s.operandSpace c.grid x.dsp x.dteam x.dst x.len with
  | some sv, some dv =>
    let same := match sv, dv with
      | some a, some b => a.1 == b.1 && overlap (a.2 + x.src) x.len (b.2 + x.dst) x.len
      | _, _ => false
    if same then s.endCommand c stFailed
    else
      let w := cmdWho c c.user
      match moveAll w c.team ⟨sv, x.src⟩ ⟨dv, x.dst⟩ x.len s with
      | .ok (s1, bad) => s1.endCommand c (if bad then stFailed else stDone)
      | .error e => engStop c s (fun off => moveSome w ⟨sv, x.src⟩ ⟨dv, x.dst⟩ off s) e
  | _, _ => s.endCommand c stFailed

/-- Bytes with their marks, as a command has read them. -/
abbrev Carried := List Byte × List Bool

/-- Read row i of a GATHER: an index word that is bad gives unspecified bytes, poisoned (Table 10-3). -/
def gatherRead (c : ECmd) (x : GatherPack) (iv : Option (Nat × Nat)) (i : Nat) (s : State) : Except MoveStop (State × Carried) :=
  let w := cmdWho c c.user
  match movePieces w ⟨iv, x.idx + 4 * i⟩ 0 4 s with
  | .error e => .error e
  | .ok (s1, a) =>
    let r := readPieces s1 a
    let s2 := r.1.engineReads c.team iv a
    if r.2.2.isSome then
      .ok (s2, (List.range x.row).map fun j => Config.freeByte s.tick (i * x.row + j), List.replicate x.row true)
    else
      match movePieces w ⟨none, x.table + ofBytes r.2.1 * x.row⟩ 0 x.row s2 with
      | .error e => .error e
      | .ok (s3, b) => .ok ((readPieces s3 b).1.engineReads c.team none b, (readPieces s3 b).2.1, badBytes s3 b)

/-- The rows of a GATHER, read in ascending order before any is written (R167); what stops the reading. -/
def gatherReads (c : ECmd) (x : GatherPack) (iv : Option (Nat × Nat)) : Nat → Nat → State → State × List Carried × Option MoveStop
  | 0, _, s => (s, [], none)
  | n + 1, i, s =>
    match gatherRead c x iv i s with
    | .error e => (s, [], some e)
    | .ok (s1, q) =>
      let r := gatherReads c x iv n (i + 1) s1
      (r.1, q :: r.2.1, r.2.2)

/-- Write rows from row i on; what stops the writing. -/
def gatherWrites (c : ECmd) (x : GatherPack) (dv : Option (Nat × Nat)) : List Carried → Nat → State → State × Option MoveStop
  | [], _, s => (s, none)
  | q :: rest, i, s =>
    match movePieces (cmdWho c c.user) ⟨dv, x.dst + i * x.row⟩ 1 x.row s with
    | .error e => (s, some e)
    | .ok (s1, b) => gatherWrites c x dv rest (i + 1) (putPoisoned s1 b q.1 q.2)

/-- A free part of some rows, where their destinations can be reached: what a GATHER has written when a fault ends it. -/
def gatherSome (c : ECmd) (x : GatherPack) (dv : Option (Nat × Nat)) (rows : List Carried) (s : State) : State :=
  rows.zipIdx.foldl (fun (t : State) (q : Carried × Nat) =>
    match movePieces (cmdWho c c.user) ⟨dv, x.dst + q.2 * x.row⟩ 1 x.row t with
    | .ok (t1, b) => putSome t1 (q.2 * x.row) b q.1
    | .error _ => t) s

/-- GATHER performs (R313). -/
def gatherRun (c : ECmd) (s : State) : State :=
  let x := gatherPack c.pack
  match s.operandSpace c.grid x.isp c.teamIndex x.idx (4 * x.count), s.operandSpace c.grid x.dsp c.teamIndex x.dst (x.count * x.row) with
  | some iv, some dv =>
    match gatherReads c x iv x.count 0 s with
    | (s1, rows, some e) => engStop c s (fun _ => gatherSome c x dv rows s1) e
    | (s1, rows, none) =>
      match gatherWrites c x dv rows 0 s1 with
      | (s2, none) => s2.endCommand c (if rows.any fun q => q.2.any id then stFailed else stDone)
      | (_, some e) => engStop c s (fun _ => gatherSome c x dv rows s1) e
  | _, _ => s.endCommand c stFailed

/-- MCAST performs: its source is read once, and every receiver's window is written. -/
def mcastRun (c : ECmd) (s : State) : State :=
  let x := mcastPack c.pack
  let w := cmdWho c c.user
  let dests := (List.range x.count).filterMap fun i =>
    (s.teamWindow c.grid (x.first + i)).map fun t => (⟨some (t.1, t.2.1), x.off⟩ : Place)
  match movePieces w ⟨none, x.src⟩ 0 x.len s with
  | .ok (s1, a) =>
    let bad := badBytes s1 a
    let r := readPieces s1 a
    let s2 := dests.foldl (fun (t : State) p =>
      match movePieces w p 1 x.len t with
      | .ok (t1, b) => putPoisoned t1 b r.2.1 bad
      | .error _ => t) (r.1.engineReads c.team none a)
    s2.endCommand c (if bad.any id then stFailed else stDone)
  | .error e => engStop c s (fun off => dests.foldl (fun (t : State) p => moveSome w ⟨none, x.src⟩ p off t) s) e

/-! ### The count journal (R317) -/

/-- What applying an entry comes to: it is applied or skipped, it waits, or PROTECTION at an address. -/
inductive JournalStep where
  | over (s : State)
  | wait (s : State)
  | protect (va pa : Nat)

/-- Skip an entry, logged. -/
def JEntry.skip (e : JEntry) (s : State) : JournalStep := .over (s.event (.journal e.ctx e.node e.addr))

/-- The add at the counter's place: bad data or a page outside module DRAM skips it. -/
def JEntry.add (e : JEntry) (flat loc : Nat) (s : State) : JournalStep :=
  if loc ≠ 0 then e.skip s
  else if s.rowHeld flat 4 32 0 || s.noShadow flat 4 then .wait s
  else
    match s.checkRead flat 4 with
    | (s1, some _) => e.skip s1
    | (s1, none) => .over (s1.store flat (toBytes 4 ((s1.seenN flat 4 + e.inc.toNat) % 2 ^ 32)) false)

/-- Apply one entry: a fault skips it, but a first-touch page is mapped. -/
def journalAdd (c : ECmd) (e : JEntry) (s : State) : JournalStep :=
  match s.translate (cmdWho c c.user) 2 e.addr.toNat with
  | (s1, .busy) => .wait s1
  | (s1, .fault k _) =>
    match if k = 1 then s1.firstTouch c.ctx c.core (dieOf c.core) e.addr.toNat else (s1, .noFrame) with
    | (_, .noFrame) => e.skip s1
    | (s2, _) =>
      match s2.translate (cmdWho c c.user) 2 e.addr.toNat with
      | (s3, .ok flat loc) => e.add flat loc s3
      | (_, .protect pa) => .protect e.addr.toNat pa
      | (s3, .busy) => .wait s3
      | (s3, .fault _ _) => e.skip s3
  | (_, .protect pa) => .protect e.addr.toNat pa
  | (s1, .ok flat loc) => e.add flat loc s1

/-- The entries of a node of a context in every journal, with their die. -/
def State.journalOf (s : State) (ctx : Nat) (node : W32) : List (Nat × JEntry) :=
  s.dies.flatMap fun (p : Nat × Die) => (p.2.journal.filter fun e => e.ctx == ctx && e.node == node).map fun e => (p.1, e)

/-- Remove one entry of a journal. -/
def State.journalDrop (s : State) (die : Nat) (e : JEntry) : State :=
  let d := s.dieAt die
  s.setDie die { d with journal := d.journal.erase e }

/-- Apply and remove entries in append order; one that waits keeps the rest, and a violation freezes the command. -/
def journalRun (c : ECmd) : List (Nat × JEntry) → State → State
  | [], s => s.endCommand c stDone
  | (die, e) :: r, s =>
    match journalAdd c e s with
    | .over s1 => journalRun c r (s1.journalDrop die e)
    | .wait s1 => s1
    | .protect va pa => s.freezeEngine c 2 (wd va) (wd pa)

/-- The low half of a register. -/
def nodeOf (w : Word) : W32 := w.setWidth 32

/-- JRNL_ADD (R317). -/
def execJrnlAdd (a b : SReg) (s : State) : Result :=
  let die := dieOf s.cur.core
  let d := s.dieAt die
  let n := nodeOf (s.g.sreg b)
  if n = 0 then s.trapS .reservedField
  else if (s.g.sreg a).toNat % 4 ≠ 0 then s.trapScalar .misaligned (some (s.g.sreg a)) 0
  else if s.inCommit s.g then s.trapS .commitForbidden
  else if 65536 ≤ d.journal.length then s.stall .journal
  else
    .next (s.setDie die { d with journal := d.journal ++ [⟨s.g.ctx, n, s.g.sreg a, (s.g.sreg b).extractLsb' 32 32⟩] }).nextPc

/-- The node operand of JRNL.COMMIT and JRNL.DROP is bad. -/
def nodeBad (w : Word) : Bool := nodeOf w == 0 || bitsOf w 32 32 != 0

/-- JRNL_COMMIT (R317): an engine command without a handle. -/
def execJrnlCommit (a : SReg) (s : State) : Result :=
  engGate (fun s =>
    let w := s.g.sreg a
    if nodeBad w then s.trapS .reservedField
    else if s.inCommit s.g then s.trapS .commitForbidden
    else .next (s.launch (newCommand 6 0 [w] s) []).nextPc) s

/-- JRNL_DROP (R317): in every journal of the module. -/
def execJrnlDrop (a : SReg) (s : State) : Result :=
  let w := s.g.sreg a
  if nodeBad w then s.trapS .reservedField
  else if s.inCommit s.g then s.trapS .commitForbidden
  else
    .next { s with dies := s.dies.map fun (p : Nat × Die) =>
      (p.1, { p.2 with journal := p.2.journal.filter fun e => !(e.ctx == s.g.ctx && e.node == nodeOf w) }) }.nextPc

/-! ### Completion -/

/-- A collective whose domain is not set up, or whose STEP is not the domain's next, ends FAILED (R315, R418). -/
def State.collStale (s : State) (c : ECmd) : Bool :=
  match lookupKey (collPack c.pack).domain s.domains with
  | some d => (collPack c.pack).step != d.steps + 1
  | none => true

/-- ENGINE_COMMAND_COMPLETE (R154, R311): the command performs, and is complete. A near-memory program ends at its NEND, and
a collective at COLLECTIVE_STEP_COMPLETE unless its step is wrong. -/
def execEngineCommandComplete (cmd : Nat) (s : State) : Result :=
  match s.ecmds.find? fun c => c.id == cmd with
  | none => .next s
  | some c =>
    if c.frozen || c.pageReq.isSome || s.atomsBefore c.team c.gidx c.id then .next s
    else
      let s := s.asServed c.core c.ctx
      match c.kind with
      | 1 => .next (s.unlessHeld (copyRun c s).serveAts)
      | 2 => .next (gatherRun c s).serveAts
      | 3 => .next (mcastRun c s).serveAts
      | 4 => .next (s.unlessHeld (if s.collStale c then s.endCommand c stFailed else s))
      | 6 => .next (journalRun c (s.journalOf c.ctx (nodeOf (c.pack.getD 0 0))) s).serveAts
      | _ => .next s

end Sys2Proof.Machine
end

