-- ==== Sys2Proof/Machine/Placement.lean ====
section
/-! DEFINITION. The work distributor's view of a core (R190): contexts, register rows, slots, vault windows, stack slots, and
the placement of one team. -/

namespace Sys2Proof.Machine

/-! ### Kernel descriptors (Table 16-2) -/

def descMatrix (d : BitVec 512) : Bool := d.getLsbD 12
def descSentry (d : BitVec 512) : Word := d.extractLsb' 64 64
def descVault (d : BitVec 512) : Nat := bitsOf d 224 32

/-- The width that the kernel runs at; any runs at 32 (R44, R400). -/
def descWidth (d : BitVec 512) : Nat := if bitsOf d 8 2 = 0 then 16 else if bitsOf d 8 2 = 2 then 64 else 32

/-- Hardware slots of one group. -/
def descHalves (d : BitVec 512) : Nat := if descWidth d = 64 then 2 else 1

/-- The commit window of a team: none outside commit tasks (R254). -/
def descWindow (d : BitVec 512) : Nat := if descCommit d then descCwin d else 0

/-- Rows that a core reserves for a team: base blocks and role budgets (R35). -/
def descRows (d : BitVec 512) : Nat :=
  ((List.range (descGroups d)).map fun i => descHalves d * (128 + descBudget d i)).sum

/-! ### Units present (R277) -/

def State.corePresent (s : State) (core : Nat) : Bool := s.cap.dies.getLsbD (dieOf core) && s.cap.cores.getLsbD core
def State.vaultPresent (s : State) (die v : Nat) : Bool := s.cap.vaults.getLsbD (64 * die + v)

/-- The die whose walker serves a record (R188, R277): the present dies in turn. -/
def State.walkerDie (s : State) (index : Nat) : Nat :=
  let dies := (List.range 8).filter fun d => s.cap.dies.getLsbD d
  dies.getD (index % dies.length) 0

/-! ### What a core has free -/

/-- A group that its team has left behind, HALTED or FROZEN, keeps its slot under a key of its own (R191, R250). -/
def detachedKey (team : Nat) : Nat := team + 2 ^ 64

/-- Teams resident on a core, with their keys. -/
def State.coreTeams (s : State) (core : Nat) : List (Nat × Team) := s.teams.filter fun p => p.2.core == core && p.2.image.isNone

/-- The kernel descriptor of a team. -/
def State.teamDesc (s : State) (t : Team) : BitVec 512 :=
  match s.grid? t.grid with
  | some x => x.desc
  | none => 0

/-- Rows of a core that are reserved (R35), or held by groups whose team is not resident any more. -/
def State.rowsHeld (s : State) (core : Nat) : Nat :=
  let left := (s.coreGroups core).filter fun p => p.2.st != .free && !(s.coreTeams core).any fun t => t.1 == p.2.team
  ((s.coreTeams core).map fun p => descRows (s.teamDesc p.2)).sum
    + (left.map fun p => 128 * p.2.baseRows.length + p.2.ext * p.2.extRows.length).sum

/-- Free register rows. -/
def State.freeRows (s : State) (core : Nat) : Nat := 3968 - s.rowsHeld core

/-- Free group slots, ascending. -/
def State.freeSlots (s : State) (core : Nat) : List Nat :=
  let used := ((s.coreGroups core).filter fun p => p.2.st != .free).flatMap fun (p : Nat × Group) =>
    if p.2.width = 64 then [p.1, p.1 + 1] else [p.1]
  (List.range 47).filter fun k => !used.contains k

/-- Slots for `n` groups: the lowest free ones; a width-64 group takes slots 2j and 2j + 1 (R44). -/
def chooseSlots (free : List Nat) (width n : Nat) : Option (List Nat) :=
  let l := if width = 64 then free.filter fun k => k % 2 == 0 && free.contains (k + 1) else free
  if n ≤ l.length then some (l.take n) else none

/-- Contexts with groups on a core. -/
def State.residents (s : State) (core : Nat) : List Nat :=
  (((s.coreGroups core).filter fun p => p.2.st != .free).map fun p => p.2.ctx).eraseDups

/-- BANKS2 of a context descriptor (Table 9-1). -/
def twoBanks (d : BitVec 1024) : Bool := d.getLsbD 21

/-- A core takes a context: at most two, and one with two banks alone (R42, R29). -/
def State.ctxOk (s : State) (core ctx : Nat) : Bool :=
  let others := (s.residents core).filter (· != ctx)
  if twoBanks (s.descFor core ctx) then others.isEmpty
  else others.length ≤ 1 && others.all fun o => !twoBanks (s.descFor core o)

/-! ### Vault windows (R140) -/

/-- Ranges of a die's vault array in use: windows of resident teams, and sealed commit windows (R258). -/
def State.vaultUsed (s : State) (die : Nat) : List (Nat × Nat) :=
  ((s.teams.filter fun p => dieOf p.2.core == die && p.2.image.isNone).flatMap fun (p : Nat × Team) =>
    [(p.2.base, p.2.wsize), (p.2.cbase, descWindow (s.teamDesc p.2))])
  ++ s.grids.flatMap fun (p : Nat × Grid) =>
    (p.2.sealed.filter fun w => w.die == die).map fun (w : Sealed) => (w.base, descWindow p.2.desc)

/-- A run of `n` free bytes begins at an address, through present vaults only. -/
def State.runFits (s : State) (die : Nat) (used : List (Nat × Nat)) (a n : Nat) : Bool :=
  let v0 := a / Config.vaultBytes
  let v1 := (a + n - 1) / Config.vaultBytes
  v1 < 64 && ((List.range (v1 + 1)).drop v0).all (fun v => s.vaultPresent die v) && used.all fun u => !overlap a n u.1 u.2

/-- The lowest address in a vault at which such a run begins. -/
def State.runIn (s : State) (die : Nat) (used : List (Nat × Nat)) (n v : Nat) : Option Nat :=
  let lo := v * Config.vaultBytes
  let starts := (lo :: used.map fun u => u.1 + u.2).filter fun a => lo ≤ a && a < lo + Config.vaultBytes && s.runFits die used a n
  starts.foldl (fun m a => match m with | some b => some (min a b) | none => some a) none

/-- Grid hops between two vaults of a die. -/
def vaultHops (a b : Nat) : Nat :=
  let gap (x y : Nat) : Nat := if x ≤ y then y - x else x - y
  gap (a / 8) (b / 8) + gap (a % 8) (b % 8)

/-- The vaults of a die, nearest to a core's own first, then by number. -/
def vaultsFrom (core : Nat) : List Nat :=
  let own := core % 256 / 4
  ((List.range 64).foldl (fun l v => sins (vaultHops own v * 64 + v) v l) ([] : Store Nat)).map Prod.snd

/-- Where a window of `n` bytes of a team on a core goes; an empty window takes no space. -/
def State.placeWindow (s : State) (core : Nat) (used : List (Nat × Nat)) (n : Nat) : Option Nat :=
  if n = 0 then some 0 else (vaultsFrom core).findSome? fun v => s.runIn (dieOf core) used n v

/-- The bases of a team's vault and commit windows, where both fit (R254). -/
def State.placeWindows (s : State) (core vault cwin : Nat) : Option (Nat × Nat) :=
  let used := s.vaultUsed (dieOf core)
  match s.placeWindow core used vault with
  | none => none
  | some a => (s.placeWindow core ((a, vault) :: used) cwin).map fun b => (a, b)

/-- Zero a range of a die's vault array and clear its marks. -/
def State.clearVault (s : State) (die base n : Nat) : State :=
  let a := vaultFlat die base
  let inside (x : Nat) : Bool := a ≤ x && x < a + n
  { s with mem := s.mem.filter fun c => !inside c.1, marks := s.marks.filter fun p => !inside p.1 }

/-! ### Stack slots (R143) -/

def stackVa (d : BitVec 1024) : Nat := bitsOf d 256 64
def stackLog (d : BitVec 1024) : Nat := bitsOf d 320 5
def stackCount (d : BitVec 1024) : Nat := bitsOf d 325 20

/-- The context of a team's grid. -/
def State.teamCtx (s : State) (t : Team) : Nat :=
  match s.grid? t.grid with
  | some x => x.ctx
  | none => 64

/-- Stack slots that resident and saved groups of a context hold. -/
def State.stacksHeld (s : State) (ctx : Nat) : List Nat :=
  ((s.groups.filter fun p => p.2.st != .free && p.2.ctx == ctx).filterMap fun p => p.2.stackSlot)
    ++ (s.teams.filter fun p => s.teamCtx p.2 == ctx).flatMap fun (p : Nat × Team) =>
      match p.2.image with
      | some i => i.groups.filterMap fun (g : Group) => g.stackSlot
      | none => []

/-- The lowest free stack slots for `n` groups: none where the context has too few; no slot at all where STKSZ is 0. -/
def State.stackSlots (s : State) (d : BitVec 1024) (ctx n : Nat) : Option (List (Option Nat)) :=
  if stackLog d = 0 then some (List.replicate n none)
  else
    let held := s.stacksHeld ctx
    let free := ((List.range (held.length + n)).filter fun j => j < stackCount d && !held.contains j).take n
    if free.length = n then some (free.map some) else none

/-! ### Candidate cores -/

/-- What a team needs of a core. -/
structure Need where
  ctx : Nat
  rows : Nat
  width : Nat
  groups : Nat
  vault : Nat
  cwin : Nat
  matrix : Bool
  deriving DecidableEq, Repr

def needOf (ctx : Nat) (d : BitVec 512) : Need := ⟨ctx, descRows d, descWidth d, descGroups d, descVault d, descWindow d, descMatrix d⟩

/-- A core can take a team, its register blocks apart (R190). -/
def State.coreFits (s : State) (n : Need) (core : Nat) : Bool :=
  s.corePresent core && s.ctxOk core n.ctx && n.rows ≤ s.freeRows core
    && (chooseSlots (s.freeSlots core) n.width n.groups).isSome
    && (s.placeWindows core n.vault n.cwin).isSome
    && (!n.matrix || (s.coreAt core).holder.isNone)

/-- The rank of a core: clusters to avoid last (R259), free rows descending, free slots descending, number ascending. -/
def State.coreRank (s : State) (avoid : List Nat) (core : Nat) : Nat :=
  (((if avoid.contains (clusterOf core) then 1 else 0) * 4096 + (4095 - s.freeRows core)) * 64 + (63 - (s.freeSlots core).length))
    * 4096 + core

/-- Candidate cores in order. -/
def State.candidates (s : State) (n : Need) (avoid : List Nat) (allowed : Nat → Bool) : List Nat :=
  (((List.range Config.cores).filter fun c => allowed c && s.coreFits n c).foldl
    (fun l c => sins (s.coreRank avoid c) c l) ([] : Store Nat)).map Prod.snd

/-! ### Placing a team -/

/-- The end of a placement: done, no room, or a core that must be compacted first cannot be at present; with the cores that the
attempt has compacted (R190). -/
inductive Placed where
  | ok (s : State)
  | no (s : State)
  | later (s : State)
  deriving DecidableEq, Repr

/-- A context becomes resident on a core: its descriptor and scope table are loaded (R151, R212). -/
def State.enterCore (s : State) (core ctx : Nat) : State :=
  if (s.residents core).contains ctx then s
  else
    let c := s.coreAt core
    let x := s.ctxAt ctx
    s.setCore core { c with
      desc := sset 0 ctx x.desc c.desc
      scope := (c.scope.filter fun p => p.1 / 256 != ctx) ++ (x.scope.map fun p => (ctx * 256 + p.1, p.2)) }

/-- The last group of a context has left a core: the next residency loads its descriptor and scope table anew. -/
def State.leaveCore (s : State) (core ctx : Nat) : State :=
  if (s.residents core).contains ctx then s
  else
    let c := s.coreAt core
    s.setCore core { c with desc := serase ctx c.desc, scope := c.scope.filter fun p => p.1 / 256 != ctx }

/-- AUDITCLASS of a task (Table 10-5). -/
def auditClassOf (d : BitVec 512) (replay : Bool) : Word :=
  wd ((if descAud d then descAudClass d + 16 else 0) + if replay then 32 else 0)

/-- A placed group (R17, R143). -/
def placedGroup (x : Grid) (team gidx key time cyc : Nat) (cd : BitVec 1024) (rows : List Nat) (stk : Option Nat) : Group :=
  let r := x.record
  let d := x.desc
  let top : Word := match stk with | some j => wd (stackVa cd + (j + 1) * 2 ^ stackLog cd) | none => 0
  let low : Word := match stk with | some j => wd (stackVa cd + j * 2 ^ stackLog cd) | none => BitVec.allOnes 64
  { Group.init with
    st := .pending
    team := key
    gidx := gidx
    width := descWidth d
    spc := descSentry d
    s := sset 0 1 (recArgs r) (sset 0 2 (wd team) (sset 0 3 (wd gidx) (sset 0 63 top [])))
    em := widthMask (descWidth d)
    rngkey := recKey r
    rngkeyS := recKey r
    slim := low
    slimS := low
    cls := wd (recClass r)
    auditclass := auditClassOf d x.replayOf.isSome
    ctxid := wd x.ctx
    baseRows := rows
    age := time
    lastIssue := cyc
    stackSlot := stk }

/-- Put a team on a core whose resources have been chosen (R17, R141, R191, R254). -/
def State.seatTeam (s : State) (key team core : Nat) (x : Grid) (slots : List Nat) (base cbase : Nat) (rows : List Nat)
    (stk : List (Option Nat)) : State :=
  let d := x.desc
  let h := descHalves d
  let tk := teamKey key team
  let s1 := s.enterCore core x.ctx
  let cd := s1.descFor core x.ctx
  let s2 := (List.range (descGroups d)).foldl (fun (t : State) i =>
    t.setGroupAt core (slots.getD i 0) (placedGroup x team i tk s.time (s.cycles core) cd ((rows.drop (i * h)).take h) (stk.getD i none))) s1
  let s3 := (s2.clearVault (dieOf core) base (descVault d)).clearVault (dieOf core) cbase (descWindow d)
  let s4 := if descMatrix d then s3.setCore core { s3.coreAt core with holder := some tk, mx := Matrix.init } else s3
  let t : Team :=
    { grid := key, index := team, core := core, nprod := descNprod d, ngroups := descGroups d, slots := slots, base := base,
      wsize := descVault d, bar := ⟨0, []⟩, regroup := ⟨0, []⟩, q := [], qbad := [], commit := [], cbase := cbase, mcast := 0,
      matrix := descMatrix d, image := none, saving := false, gone := [] }
  (s4.setTeam tk t).setGrid key
    { x with placed := x.placed + 1, cores := if x.replayOf.isSome then x.cores else x.cores ++ [(team, core)] }

/-- Blocks of some sizes, each at the lowest free row aligned to its size (R192). -/
def allocBlocks (used : List (Nat × Nat)) : List Nat → Option (List Nat)
  | [] => some []
  | n :: r =>
    match lowestFree used n with
    | none => none
    | some row => (allocBlocks ((row, n) :: used) r).map fun l => row :: l

/-- How register blocks for a team are found: free as the file stands, after a compaction, not at all, or later, where the core
cannot be compacted at present (R190, R193). -/
inductive Blocks where
  | ok (s : State) (rows : List Nat)
  | no (s : State)
  | later
  deriving DecidableEq, Repr

def State.blocksFor (s : State) (core : Nat) (sizes : List Nat) : Blocks :=
  match allocBlocks (s.rowsUsed core) sizes with
  | some l => .ok s l
  | none =>
    if (s.coreTeams core).any (fun p => p.2.saving) || !s.canCompact core then .later
    else
      let s1 := s.compact core
      match allocBlocks (s1.rowsUsed core) sizes with
      | some l => .ok s1 l
      | none => .no s1

/-- Try candidate cores in order; a core that was compacted stays so (R190). -/
def State.tryCores (s : State) (key team : Nat) (x : Grid) : List Nat → Placed
  | [] => .no s
  | c :: r =>
    let d := x.desc
    match chooseSlots (s.freeSlots c) (descWidth d) (descGroups d), s.placeWindows c (descVault d) (descWindow d),
        s.stackSlots (s.descFor c x.ctx) x.ctx (descGroups d) with
    | some slots, some (base, cbase), some stk =>
      match s.blocksFor c (List.replicate (descGroups d * descHalves d) 128) with
      | .later => .later s
      | .no s1 => s1.tryCores key team x r
      | .ok s1 rows => .ok (s1.seatTeam key team c x slots base cbase rows stk)
    | _, _, _ => s.tryCores key team x r

/-- The state before an attempt that failed, with the groups as the attempt's compactions left them (R190). -/
def State.keepMoves (s t : State) : State := { s with groups := s.groups.map fun (p : Nat × Group) => (p.1, sget p.2 p.1 t.groups) }

/-- A failed attempt releases its choices. -/
def State.released (s : State) : Placed → Placed
  | .ok t => .ok t
  | .no t => .no (s.keepMoves t)
  | .later t => .later (s.keepMoves t)

/-- Place one team of a grid (R190). -/
def State.placeTeam (s : State) (key team : Nat) (x : Grid) (allowed : Nat → Bool) : Placed :=
  s.tryCores key team x (s.candidates (needOf x.ctx x.desc) x.avoid allowed)

/-- Place `n` teams from index `i`, all or none (R182). -/
def State.placeTeams (s : State) (key : Nat) : Nat → Nat → Placed
  | 0, _ => .ok s
  | n + 1, i =>
    match s.grid? key with
    | none => .no s
    | some x =>
      match s.placeTeam key i x fun _ => true with
      | .ok s1 => s1.placeTeams key n (i + 1)
      | r => r

/-- A grid before its first team. -/
def newGrid (ctx index : Nat) (record desc : BitVec 512) (avoid : List Nat) (replayOf : Option (Nat × Nat)) (cores : List (Nat × Nat)) : Grid :=
  { ctx := ctx, index := index, record := record, desc := desc, placed := 0, retired := 0, flags := 0, first := none, assists := 0,
    broken := [], sealed := [], sigIn := 0, sigOut := 0, cores := cores, avoid := avoid, replayOf := replayOf, faulted := false }

/-- The module with every core empty, for R176's test of a concurrent grid. -/
def State.emptied (s : State) : State :=
  { s with groups := [], teams := [], grids := [], cores := s.cores.map fun (p : Nat × Core) => (p.1, { p.2 with holder := none, desc := [], scope := [] }) }

/-- All teams of a grid could be resident on the empty module (R176). -/
def State.couldHold (s : State) (ctx index : Nat) (record desc : BitVec 512) : Bool :=
  let k := gridKey ctx index
  match (s.emptied.setGrid k (newGrid ctx index record desc [] none [])).placeTeams k (recTeams record) 0 with
  | .ok _ => true
  | _ => false

/-! ### Priority queues (R188, R189) -/

def Die.queue (d : Die) (level : Nat) : List QEntry :=
  if level = 0 then d.q0 else if level = 1 then d.q1 else if level = 2 then d.q2 else d.q3

def Die.setQueue (d : Die) (level : Nat) (l : List QEntry) : Die :=
  if level = 0 then { d with q0 := l } else if level = 1 then { d with q1 := l } else if level = 2 then { d with q2 := l } else { d with q3 := l }

def State.queueAt (s : State) (die level : Nat) : List QEntry := (s.dieAt die).queue level
def State.setQueueAt (s : State) (die level : Nat) (l : List QEntry) : State := s.setDie die ((s.dieAt die).setQueue level l)

/-- Dies in round-robin order at a level, after the one last served. -/
def State.dieOrder (s : State) (level : Nat) : List Nat :=
  (List.range 8).map fun i => (s.rr.getD level 7 + 1 + i) % 8

/-- A head that has failed to be placed for AGE cycles is blocking (R189). -/
def State.isBlocking (s : State) (die level : Nat) : Bool :=
  match s.queueAt die level with
  | e :: _ => match e.failing with | some t => t + (s.dieAt die).age ≤ s.dieCycles die | none => false
  | [] => false

/-- A blocking head exists at a level, or at one up to it. -/
def State.blockedAt (s : State) (level : Nat) : Bool := (List.range 8).any fun d => s.isBlocking d level
def State.blockedTo (s : State) (level : Nat) : Bool := (List.range (level + 1)).any fun l => s.blockedAt l

end Sys2Proof.Machine
end

