-- ==== Sys2Proof/Machine/Save.lean ====
section
/-! DEFINITION. Saving and restoring whole teams (R197 to R203), and stopping the teams of a task (R259). -/

namespace Sys2Proof.Machine

/-! ### Keys -/

/-- The key of the grid that replays a record's task for Vigil (R262). -/
def replayKey (ctx index : Nat) : Nat := 2 ^ 27 + gridKey ctx index

/-- The grids that an event about a record's team may mean: the task's, then its replay's. -/
def gridsOf (ctx index : Nat) : List Nat := [gridKey ctx index, replayKey ctx index]

/-- Resident groups of a team, with their slot keys. -/
def State.teamGroups (s : State) (key : Nat) : List (Nat × Group) := s.groups.filter fun p => p.2.team == key && p.2.st != .free

/-- The teams of a grid, with their keys. -/
def State.gridTeams (s : State) (grid : Nat) : List (Nat × Team) := s.teams.filter fun p => p.2.grid == grid

/-! ### Stopping (R198 steps 1 to 3, R202) -/

/-- A group parks at an instruction boundary. A word that waits for a queue or a row buffer is abandoned, and a waiting
instruction executes again; TLBINV keeps the pages that it waits for. -/
def Group.park (g : Group) : Group :=
  if g.live then
    { g with
      st := .parked
      abandoned := g.unfinished.map LaneWord.dropped
      waitingWords := []
      sWait := match g.sWait with | some (.inv p) => some (.inv p) | _ => none
      lWait := none
      deadline := none }
  else g

/-- Step 1: issue stops in every group of a team. -/
def State.stopTeam (s : State) (key : Nat) : State :=
  match s.team? key with
  | none => s
  | some t =>
    let s1 := s.setTeam key { t with saving := true }
    { s1 with groups := s1.groups.map fun (p : Nat × Group) => if p.2.team = key then (p.1, p.2.park) else p }

def State.stopTeams (s : State) (l : List Nat) : State := l.foldl State.stopTeam s

/-- Steps 2 and 3 are over: everything that the groups issued has completed, their posted rows and the batches of registered
weights included (R198, R208). -/
def State.teamDrained (s : State) (key : Nat) (t : Team) : Bool :=
  ((s.teamGroups key).all fun p =>
    p.2.inflight.isEmpty && p.2.nmPending == 0 && p.2.assistRec.isNone && p.2.tickets.all fun x => x.2.isSome)
  && !(s.coreAt t.core).mcmds.any fun m => (m.team == key && m.fault.isNone) || (t.matrix && m.kind == 3)

/-- A registration ends with its team's residency. -/
def State.dropRegs (s : State) (core : Nat) : State :=
  let d := s.dieAt (dieOf core)
  s.setDie (dieOf core) { d with regs := d.regs.filter fun r => r.core != core }

/-- The matrix unit that a team holds is free. -/
def State.freeMatrix (s : State) (key : Nat) (t : Team) : State :=
  if (s.coreAt t.core).holder = some key then (s.setCore t.core { s.coreAt t.core with holder := none }).dropRegs t.core else s

/-! ### The save image (Table 8-14) -/

/-- A group that a save takes out of its slot: HALTED and FROZEN ones stay. -/
def Group.savable (g : Group) : Bool := g.live || g.st == .exited

/-- Bytes of a team's image. -/
def imageBytes (t : Team) (d : BitVec 512) (groups : List Group) : Nat :=
  256 + 4096 + (if t.matrix then (256 + 32 + 2) * 1024 else 0) + t.wsize + descWindow d
    + (groups.map fun g => 12 * 1024 + 128 * g.alloc * g.places).sum

/-- Frames that a saved image fills. -/
def imageFrames (n : Nat) : Nat := (n + 65535) / 65536

/-- Groups of a team that a save takes. -/
def State.savables (s : State) (key : Nat) : List Group := ((s.teamGroups key).filter fun p => p.2.savable).map Prod.snd

/-- Frames that the image of a team needs. -/
def State.framesFor (s : State) (key : Nat) (t : Team) : Nat := imageFrames (imageBytes t (s.teamDesc t) (s.savables key))

/-- Frames of the save-area pool that no image of the context fills. -/
def State.freeSaves (s : State) (ctx : Nat) : List Nat :=
  let used := s.teams.flatMap fun p =>
    match p.2.image with
    | some i => if s.teamCtx p.2 = ctx then i.frames else []
    | none => []
  ((s.ctxAt ctx).savePool.map Prod.fst).filter fun f => !used.contains f

/-- A group as its image holds it; one that waits for a host page request resumes at the faulting instruction (R200). -/
def Group.savedForm (g : Group) (time : Nat) : Group :=
  let g1 := if g.pageReq.isSome then { g.returned time with pageReq := none } else g
  { g1 with st := if g.st = GState.exited then GState.exited else GState.saved, baseRows := [], extRows := [] }

/-- Window bytes and marks by offset; those of the commit window follow the vault window's. -/
def State.windowImage (s : State) (t : Team) (cwin : Nat) : List Host.Cell × List (Nat × Mark) :=
  let a := vaultFlat (dieOf t.core) t.base
  let b := vaultFlat (dieOf t.core) t.cbase
  ((s.mem.filter fun c => a ≤ c.1 && c.1 < a + t.wsize).map fun c => (c.1 - a, c.2),
   ((s.marks.filter fun p => a ≤ p.1 && p.1 < a + t.wsize).map fun p => (p.1 - a, p.2))
    ++ (s.marks.filter fun p => b ≤ p.1 && p.1 < b + cwin).map fun p => (p.1 - b + t.wsize, p.2))

/-- The requester of a page request whose group or command is no longer there: its response only frees its place (R200, R415). -/
def nobody : Requester := .command (2 ^ 64)

/-- Host page requests are forgotten with their requesters: one that waits for a place is never sent. -/
def State.forgetPages (s : State) (l : List WalkReq) : State :=
  { s with
    priQueue := s.priQueue.filter fun q => !l.contains q.2
    priOut := s.priOut.map fun q => if l.contains q.2 then (q.1, { q.2 with who := nobody }) else q }

/-- The page requests of some groups. -/
def pagesAsked (l : List Group) : List WalkReq := l.filterMap fun g => g.pageReq

/-- Priority level of a team's record; a replay runs at 3 (R262). -/
def State.teamLevel (s : State) (t : Team) : Nat :=
  match s.grid? t.grid with
  | some x => if x.replayOf.isSome then 3 else recPrio x.record
  | none => 3

/-- Class of a team's grid. -/
def State.teamClass (s : State) (t : Team) : Nat :=
  match s.grid? t.grid with
  | some x => recClass x.record
  | none => 2

/-- The resumption of a saved team joins its record's queue, at the record's priority (R199). -/
def State.queueResume (s : State) (key : Nat) (t : Team) : State :=
  match s.grid? t.grid with
  | none => s
  | some x =>
    let die := s.walkerDie x.index
    s.setQueueAt die (s.teamLevel t)
      (s.queueAt die (s.teamLevel t) ++ [⟨x.ctx, x.index, some key, x.record, x.desc, s.dieCycles die, none⟩])

/-- A queued resumption leaves its queue. -/
def State.dropResume (s : State) (key : Nat) : State :=
  { s with dies := s.dies.map fun (p : Nat × Die) =>
      let keep (e : QEntry) : Bool := e.team != some key
      (p.1, { p.2 with q0 := p.2.q0.filter keep, q1 := p.2.q1.filter keep, q2 := p.2.q2.filter keep, q3 := p.2.q3.filter keep }) }

/-- Steps 5 and 6: the image goes to some frames of the pool, and the team's resources are freed. HALTED and FROZEN groups stay in
their slots. -/
def State.saveTeam (s : State) (key : Nat) (t : Team) : State :=
  let gs := s.savables key
  let w := s.windowImage t (descWindow (s.teamDesc t))
  let img : SaveImage :=
    ⟨gs.map fun g => g.savedForm (s.cycles t.core), if t.matrix then some (s.coreAt t.core).mx else none, w.1, w.2,
      (s.freeSaves (s.teamCtx t)).take (s.framesFor key t)⟩
  let s1 := (s.forgetPages (pagesAsked gs)).freeMatrix key t
  let s2 := { s1 with groups := s1.groups.filter fun p => !(p.2.team == key && p.2.savable) }
  ((s2.setTeam key { t with image := some img, saving := false, slots := [] }).leaveCore t.core (s.teamCtx t)).queueResume key t

/-- The image's bytes in its frames, written as the context's own memory is: their layout, and so their values, are not stated
(R198, log entry 29). -/
def State.writeImage (s : State) (key : Nat) : State :=
  match s.team? key with
  | none => s
  | some t =>
    let frames := match t.image with | some i => i.frames | none => []
    let u := (frames.foldl (fun (u : State) f =>
      u.store (65536 * f) ((List.range 65536).map fun i => Config.freeByte s.tick (65536 * f + i)) false) (s.asContext (s.teamCtx t))).withKey
      s.cur.key
    if frames.any fun f => s.heldFor (65536 * f) 65536 then u.waitRow else u

/-- A commit abort has stopped the team, so it is not saved. -/
def State.aborting (s : State) (t : Team) : Bool :=
  match s.grid? t.grid with
  | some x => x.faulted && descCommit x.desc
  | none => false

/-- TEAM_SAVE for one team (R198): steps 3 to 6, once the team has been stopped, has drained, and no multicast refers to it. Its
frames were counted when it was stopped. -/
def State.trySave (s : State) (key : Nat) (t : Team) : State :=
  if t.saving && t.image.isNone && !s.aborting t && s.teamDrained key t && t.mcast == 0
      && s.framesFor key t ≤ (s.freeSaves (s.teamCtx t)).length then (s.saveTeam key t).writeImage key
  else s

/-- TEAM_SAVE (R198). -/
def execTeamSave (ctx index team : Nat) (s : State) : Result :=
  .next (s.unlessHeld ((gridsOf ctx index).foldl (fun (u : State) g =>
    match u.team? (teamKey g team) with
    | some t => u.trySave (teamKey g team) t
    | none => u) s))

/-! ### Gangs (R182, R203) -/

/-- A team has started: one of its groups has issued (R182). -/
def State.started (s : State) (key : Nat) (t : Team) : Bool := (List.range t.ngroups).any fun i =>
  match s.memberOf key i with
  | some g => g.issued
  | none => true

/-- A team is of a gang: of a concurrent grid, or started and of a parallel one (R182). -/
def State.inGang (s : State) (key : Nat) (t : Team) : Bool := s.teamClass t == 0 || (s.teamClass t == 1 && s.started key t)

/-- The teams that are saved and restored together with one: the grid's teams of a concurrent grid, the started ones of a parallel
grid, else the team alone. -/
def State.gangOf (s : State) (key : Nat) (t : Team) : List Nat :=
  match s.grid? t.grid with
  | none => [key]
  | some x =>
    if recClass x.record = 0 then (s.gridTeams t.grid).map Prod.fst
    else if recClass x.record = 1 && s.started key t then
      ((s.gridTeams t.grid).filter fun p => s.started p.1 p.2).map Prod.fst
    else [key]

/-- Teams that a pre-emption may take: resident, not yet stopped. -/
def State.takable (s : State) (p : Nat × Team) : Bool := p.2.image.isNone && !p.2.saving && !s.aborting p.2

/-- The takable teams of a gang. -/
def State.gangTeams (s : State) (l : List Nat) : List (Nat × Team) :=
  l.filterMap fun k => match s.team? k with | some t => if s.takable (k, t) then some (k, t) else none | none => none

/-- Frames that a gang and the teams of its contexts that are already being saved need together. -/
def State.gangFrames (s : State) (ctx : Nat) (gang : List (Nat × Team)) : Nat :=
  ((gang ++ s.teams.filter fun p => p.2.saving && p.2.image.isNone && !s.aborting p.2).filter fun p => s.teamCtx p.2 == ctx).foldl
    (fun n p => n + s.framesFor p.1 p.2) 0

/-- The pool holds the images of a whole gang (R198, R203). -/
def State.gangRoom (s : State) (l : List Nat) : Bool :=
  (s.gangTeams l).all fun p => s.gangFrames (s.teamCtx p.2) (s.gangTeams l) ≤ (s.freeSaves (s.teamCtx p.2)).length

/-- A refused pre-emption is logged, and the team runs on. -/
def State.refuseSave (s : State) (t : Team) : State :=
  match s.grid? t.grid with
  | some x => s.event (.preemptRefused x.ctx x.index t.index)
  | none => s

/-- The saves of a gang begin together (R203): where the pool cannot hold all its images, none begins. -/
def State.stopGang (s : State) (l : List Nat) : State :=
  if s.gangRoom l then s.stopTeams ((s.gangTeams l).map Prod.fst) else (s.gangTeams l).foldl (fun (u : State) p => u.refuseSave p.2) s

/-! ### Restoring (R199) -/

/-- Rows of a saved group's blocks out of those allotted: base blocks of every group first, then extended blocks. -/
def blockSizes (gs : List Group) : List Nat :=
  (gs.flatMap fun (g : Group) => List.replicate g.places 128)
    ++ gs.flatMap fun (g : Group) => if g.ext = 0 then [] else List.replicate g.places g.ext

/-- The groups of an image with their rows and slots. -/
def reseat (time cyc : Nat) : List Group → List Nat → List Nat → List Nat → List (Nat × Group)
  | [], _, _, _ => []
  | g :: r, slots, base, ext =>
    let n := g.places
    let m := if g.ext = 0 then 0 else n
    (slots.getD 0 0,
      { g with st := if g.st = GState.exited then GState.exited else GState.pending, age := time, lastIssue := cyc, baseRows := base.take n, extRows := ext.take m })
      :: reseat time cyc r (slots.drop 1) (base.drop n) (ext.drop m)

/-- Put the bytes and marks of an image back into windows placed anew. -/
def State.refill (s : State) (t : Team) (cwin base cbase : Nat) (img : SaveImage) : State :=
  let die := dieOf t.core
  let s1 := (s.clearVault die base t.wsize).clearVault die cbase cwin
  { s1 with
    mem := img.bytes.foldl (fun m c => sset 0 (vaultFlat die base + c.1) c.2 m) s1.mem
    marks := img.marks.foldl (fun m p =>
      let a := if p.1 < t.wsize then vaultFlat die base + p.1 else vaultFlat die cbase + (p.1 - t.wsize)
      sins a p.2 (serase a m)) s1.marks }

/-- Restore one saved team on its core. -/
def State.restoreTeam (s : State) (key : Nat) (t : Team) (img : SaveImage) : Placed :=
  let ctx := s.teamCtx t
  let d := s.teamDesc t
  let core := t.core
  let w := match img.groups with | g :: _ => g.width | [] => 32
  match chooseSlots (s.freeSlots core) w img.groups.length, s.placeWindows core t.wsize (descWindow d) with
  | some slots, some (base, cbase) =>
    if s.ctxOk core ctx && s.corePresent core && (!t.matrix || (s.coreAt core).holder.isNone)
        && (s.setTeam key { t with image := none }).rowsHeld core ≤ 3968 then
      match s.blocksFor core (blockSizes img.groups) with
      | .later => .later s
      | .no s1 => .no s1
      | .ok s1 rows =>
        let n := (img.groups.map Group.places).sum
        let s2 := (s1.enterCore core ctx).refill t (descWindow d) base cbase img
        let s3 := (reseat s.time (s.cycles core) img.groups slots (rows.take n) (rows.drop n)).foldl
          (fun (u : State) p => u.setGroupAt core p.1 p.2) s2
        let s4 :=
          match img.matrix with
          | some m => s3.setCore core { s3.coreAt core with holder := some key, mx := m }
          | none => s3
        .ok ((s4.dropResume key).setTeam key { t with image := none, saving := false, slots := slots, base := base, cbase := cbase })
    else .no s
  | _, _ => .no s

/-- Restore the saved teams of a gang, all or none (R182). -/
def State.restoreAll (s : State) : List Nat → Placed
  | [] => .ok s
  | k :: r =>
    match s.team? k with
    | some t =>
      match t.image with
      | some img =>
        match s.restoreTeam k t img with
        | .ok s1 => s1.restoreAll r
        | x => x
      | none => s.restoreAll r
    | none => s.restoreAll r

/-- A team of some is still being saved. -/
def State.anySaving (s : State) (l : List Nat) : Bool := l.any fun k => match s.team? k with | some t => t.saving && t.image.isNone | none => false

/-- Restore the gang of a saved team whose resumption is queued; its teams are restored only together, so while one of them is still
being saved none is (R182, R203). -/
def State.restoreGang (s : State) (key : Nat) : Placed :=
  match s.team? key with
  | none => .no s
  | some t => if t.image.isNone || s.anySaving (s.gangOf key t) then .no s else s.released (s.restoreAll (s.gangOf key t))

end Sys2Proof.Machine
end

