-- ==== Sys2Proof/Machine/Almanac.lean ====
section
/-! DEFINITION. Almanac records: decrements, host writes and checks (R183 to R187), the retirement of teams and grids (R111, R191),
commit tasks (R253 to R259) and Vigil (R260 to R264). -/

namespace Sys2Proof.Machine

/-! ### The status block (R111, R112) -/

/-- The order of faults: TIME, then team, then group. -/
def faultRank (f : Nat × Nat × Nat × BitVec 8) : Nat := (f.1 * 2 ^ 32 + f.2.1) * 16 + f.2.2.1

/-- The earlier of two faults. -/
def earlierFault (a b : Option (Nat × Nat × Nat × BitVec 8)) : Option (Nat × Nat × Nat × BitVec 8) :=
  match a, b with
  | none, y => y
  | x, none => x
  | some x, some y => if faultRank y < faultRank x then some y else some x

/-- A group ended HALTED or FROZEN. -/
def Group.broken (g : Group) : Bool := g.st == .halted || g.st == .frozen

/-- What an ended group adds to its grid's status. -/
def Grid.fold (x : Grid) (g : Group) : Grid :=
  { x with
    flags := x.flags ||| g.flags
    assists := x.assists + g.assists
    first := earlierFault x.first (g.fault.map fun f => (f.1, g.teamIndex, g.gidx, f.2))
    broken := if g.broken then x.broken ++ [g.order] else x.broken }

/-- The status block of a grid (Table 4-11). -/
def Grid.statusBlock (x : Grid) : List Byte :=
  let ff := match x.first with
    | some f => f.2.2.2.toNat * 2 ^ 32 + f.2.2.1 * 2 ^ 48 + f.2.1 * 2 ^ 64
    | none => 0
  toBytes 64 (x.flags.toNat + ff + x.assists % 2 ^ 64 * 2 ^ 128 + x.broken.length * 2 ^ 192 + 2 ^ 256)

/-- The first fault's cause; a window error found at publish has none (R258). -/
def Grid.faultCause (x : Grid) : Nat :=
  match x.first with
  | some f => f.2.2.2.toNat
  | none => Cause.uncorrectable.code

/-- Write the status block. -/
def State.writeStatus (s : State) (x : Grid) : State := s.deviceWrite x.ctx (recStatblk x.record) x.statusBlock

/-- A grid is gone. -/
def State.dropGrid (s : State) (key : Nat) : State := { s with grids := serase key s.grids }

/-- The end of a grid that is no commit task: the status block, then DONE (R111, R253). One whose block cannot be written fails. -/
def State.finishGrid (s : State) (key : Nat) (x : Grid) : State :=
  let s1 := s.dropGrid key
  if (s.deviceFlat x.ctx (recStatblk x.record)).isSome then (s1.writeStatus x).recordDone x.ctx x.index
  else s1.recordFailed x.ctx x.index Cause.pageFault.code

/-! ### Team retirement (R191) -/

/-- The output digest of a published line (R261). -/
def CLine.digest (l : CLine) (ctx : Nat) : Nat :=
  lineDigest ctx (toBytes 8 (l.addr * 128) ++ toBytes 16 l.mask.toNat
    ++ (List.range 128).map fun i => if l.mask.getLsbD i then l.data.extractLsb' (8 * i) 8 else 0)

/-- The sum of the digests of some lines. -/
def digestSum (ctx : Nat) (start : Nat) (l : List CLine) : Nat := l.foldl (fun n c => (n + c.digest ctx) % 2 ^ 128) start

/-- Remove a team from its core: EXITED groups leave their slots; HALTED and FROZEN ones keep theirs until the host releases them. -/
def State.emptyTeam (s : State) (key : Nat) (t : Team) (everyone : Bool) : State :=
  let ctx := s.teamCtx t
  let goes (g : Group) : Bool := g.team == key && !g.broken && (everyone || g.st == .exited)
  let stays (p : Nat × Group) : Nat × Group := if p.2.team = key then (p.1, { p.2 with team := detachedKey key }) else p
  let asked := pagesAsked ((s.teamGroups key).map Prod.snd) ++ (s.coreAt t.core).mcmds.filterMap fun m => if m.team = key then m.pageReq else none
  let s0 := ((s.forgetPages asked).freeMatrix key t).dropResume key
  let s1 : State := { s0 with
    groups := (s0.groups.filter fun p => !goes p.2).map stays
    teams := serase key s0.teams }
  let c := s1.coreAt t.core
  let mine : List MCmd := c.mcmds.filter fun m => m.team == key
  let s2 := mine.foldl (fun (u : State) m => u.releaseLocks m.id)
    (s1.setCore t.core { c with mcmds := c.mcmds.filter fun m => m.team != key })
  s2.leaveCore t.core ctx

/-- Remove every team of a grid, saved ones too, with their windows. -/
def State.discardTeams (s : State) (gk : Nat) : State := (s.gridTeams gk).foldl (fun (t : State) p => t.emptyTeam p.1 p.2 true) s

/-- Everything that some group of a team issued has performed: each event of a task comes before its completion (R169). A command that
a PROTECTION froze performs no more. -/
def State.performedIn (s : State) (team : Nat) (mine : Nat → Bool) : Bool :=
  ((s.groups.filter fun p => p.2.team == team && mine p.2.gidx).all fun p => p.2.inflight.all fun a => a.todo.isEmpty)
    && !(s.hbmStacks.any fun k => k.2.atoms.any fun a => a.team == team && mine a.gidx)
    && !s.ecmds.any fun c => c.team == team && mine c.gidx && !c.frozen

/-- A team can retire: it is resident, every group has ended, what they issued has performed, its matrix work is over, and it is not to be
aborted. -/
def State.canRetire (s : State) (key : Nat) (t : Team) (x : Grid) : Bool :=
  t.image.isNone && (List.range t.ngroups).all (s.endedIn key) && s.performedIn key (fun _ => true) && !(descCommit x.desc && x.faulted)
    && !(s.coreAt t.core).mcmds.any fun m => (m.team == key && m.fault.isNone) || (t.matrix && m.kind == 3)

/-- A team retires. A commit window is sealed (R258); a replay's is discarded once its digests are taken (R262). -/
def State.retireTeam (s : State) (gk tk : Nat) (t : Team) (x : Grid) : State :=
  let x1 := (s.teamGroups tk).foldl (fun (y : Grid) p => y.fold p.2) x
  let x2 := { x1 with retired := x1.retired + 1 }
  let x3 :=
    if x.replayOf.isSome then { x2 with sigOut := digestSum x.ctx x2.sigOut t.commit }
    else if descCommit x.desc then { x2 with sealed := x2.sealed ++ [⟨t.index, dieOf t.core, t.cbase, t.commit⟩] }
    else x2
  let s1 := (s.emptyTeam tk t false).setGrid gk x3
  if x3.retired = recTeams x.record ∧ !descCommit x.desc then s1.finishGrid gk x3 else s1

/-- The team of an event that can retire: of the task's grid, else of its replay's. -/
def State.retiring (s : State) (team : Nat) (gk : Nat) : Option (Team × Grid) :=
  match s.team? (teamKey gk team), s.grid? gk with
  | some t, some x => if s.canRetire (teamKey gk team) t x then some (t, x) else none
  | _, _ => none

/-- TEAM_RETIREMENT (R191, R111). -/
def execTeamRetirement (ctx index team : Nat) (s : State) : Result :=
  match s.retiring team (gridKey ctx index) with
  | some (t, x) => .next (s.unlessHeld (s.retireTeam (gridKey ctx index) (teamKey (gridKey ctx index) team) t x))
  | none =>
    match s.retiring team (replayKey ctx index) with
    | some (t, x) => .next (s.retireTeam (replayKey ctx index) (teamKey (replayKey ctx index) team) t x)
    | none => .next s

/-! ### Vigil's selection (R260) -/

/-- Virtual address of a record's audit byte (R263). -/
def State.setAudit (s : State) (ctx index verdict : Nat) : State :=
  match (s.ctxAt ctx).audit with
  | some a => s.deviceWrite ctx (a.toNat + index) [BitVec.ofNat 8 verdict]
  | none => s

/-- Reading it. -/
def State.touchAudit (s : State) (ctx index : Nat) : State :=
  match (s.ctxAt ctx).audit with
  | some a => s.touch ctx (a.toNat + index) 1
  | none => s

def State.auditByte (s : State) (ctx index : Nat) : Option Nat :=
  match (s.ctxAt ctx).audit with
  | some a => s.deviceRead ctx (a.toNat + index) 1
  | none => none

/-- An audited task has reached DONE: it is counted; a selected one is to be replayed (R260, R262). -/
def State.vigilSelect (s : State) (x : Grid) : State :=
  if descAud x.desc then
    let c := descAudClass x.desc
    let v := sget (⟨none, 0, 0⟩ : VigilClass) c s.vigil
    let n := match v.exp with | some e => 2 ^ e | none => 1
    let v1 : VigilClass := if v.exp.isSome ∧ v.count % n = 0 then { v with offset := Config.freeChoice s.tick 5 % n } else v
    let s1 := { s with vigil := sset (⟨none, 0, 0⟩ : VigilClass) c { v1 with count := v1.count + 1 } s.vigil }
    if v.exp.isSome && v1.count % n == v1.offset then
      ((s1.discardTeams (replayKey x.ctx x.index)).setGrid (replayKey x.ctx x.index) (newGrid x.ctx x.index x.record x.desc [] (some (x.sigIn, x.sigOut)) x.cores)).setAudit
        x.ctx x.index 1
    else s1
  else s

/-! ### Publishing (R258) -/

/-- Step 1 finds an uncorrectable word in a sealed window. -/
def State.sealedBad (s : State) (w : Sealed) : Bool :=
  (s.marksIn (vaultFlat w.die w.base) (144 * w.lines.length)).any fun p => p.2.kind == .uncorrectable

/-- Runs of consecutive numbers among some that rise: first number and length. -/
def runsUp : List Nat → List (Nat × Nat)
  | [] => []
  | a :: r =>
    match runsUp r with
    | (b, n) :: t => if b = a + 1 then (a, n + 1) :: t else (a, 1) :: (b, n) :: t
    | [] => [(a, 1)]

/-- Write the masked bytes of a line of a window; those of words that are marked poisoned write poison (R248). -/
def State.publishLine (s : State) (ctx : Nat) (w : Sealed) (l : CLine) : State :=
  match s.deviceFlat ctx (l.addr * 128) with
  | none => s
  | some a =>
    let at_ := (List.range 128).filter fun i => l.mask.getLsbD i
    let pieces : List Piece := (runsUp at_).map fun r => ⟨l.addr * 128 + r.1, a + r.1, 0, r.2⟩
    (putPoisoned s pieces (at_.map fun i => l.data.extractLsb' (8 * i) 8)
      (at_.map fun i => s.byteBad (windowAt w.lines w.die w.base (l.addr * 128 + i)))).touch ctx (l.addr * 128) 128

/-- Windows of the task in an order that is free where two of them hold one line. -/
def State.publishAll (s : State) (x : Grid) : State :=
  let ws := x.sealed.foldr (insertBy fun (w : Sealed) => Config.freeOrder s.tick w.team) []
  ws.foldl (fun (t : State) w => w.lines.foldl (fun (u : State) l => u.publishLine x.ctx w l) t) (s.asContext x.ctx)

/-- The output signature of a task. -/
def Grid.outSum (x : Grid) : Nat := x.sealed.foldl (fun n w => digestSum x.ctx n w.lines) x.sigOut

/-- COMMIT_PUBLISH (R258, R253): never during the hold of a cut (R273). -/
def execCommitPublish (ctx index : Nat) (s : State) : Result :=
  let gk := gridKey ctx index
  match s.grid? gk with
  | none => .next s
  | some x =>
    if descCommit x.desc && !x.faulted && x.retired == recTeams x.record && s.eqx.st != .hold then
      if x.sealed.any s.sealedBad then .next (s.setGrid gk { x with faulted := true })
      else
        let x1 := { x with sigOut := x.outSum }
        .next (s.unlessHeld (((((s.publishAll x).dropGrid gk).writeStatus x).recordDone ctx index).vigilSelect x1))
    else .next s

/-! ### Aborting (R259) -/

/-- Teams of a grid that are resident. -/
def State.residentTeams (s : State) (gk : Nat) : List (Nat × Team) := (s.gridTeams gk).filter fun p => p.2.image.isNone

/-- Every team of a grid has been stopped and has drained. -/
def State.abortDrained (s : State) (gk : Nat) : Bool := (s.residentTeams gk).all fun p => s.teamDrained p.1 p.2

/-- Stop the teams that still run; none where all have been stopped. -/
def State.abortStop (s : State) (gk : Nat) : Option State :=
  let l := ((s.residentTeams gk).filter fun p => !p.2.saving).map Prod.fst
  if l.isEmpty then none else some (s.stopTeams l)

/-- The grid with what its teams' groups, those in save images too, add to its status. -/
def State.foldTeams (s : State) (gk : Nat) (x : Grid) : Grid :=
  (s.gridTeams gk).foldl (fun (y : Grid) p =>
    ((s.teamGroups p.1).map Prod.snd ++ match p.2.image with | some i => i.groups | none => []).foldl Grid.fold y) x

/-- Clusters in which a group of the attempt ended by a fault. -/
def State.faultClusters (s : State) (gk : Nat) : List Nat :=
  ((s.gridTeams gk).filter fun p => !p.2.gone.isEmpty || (s.teamGroups p.1).any fun q => q.2.fault.isSome).map fun p => clusterOf p.2.core

/-- A task leaves the queues. -/
def State.unqueue (s : State) (ctx index : Nat) : State :=
  { s with dies := s.dies.map fun (p : Nat × Die) =>
      let keep (e : QEntry) : Bool := e.team.isSome || !(e.ctx == ctx && e.index == index)
      (p.1, { p.2 with q0 := p.2.q0.filter keep, q1 := p.2.q1.filter keep, q2 := p.2.q2.filter keep, q3 := p.2.q3.filter keep }) }

/-- The record's move at an abort (Table 8-8): relaunch, or failure with the status block of this attempt. -/
def State.abortRecord (s : State) (gk : Nat) (x : Grid) (avoid : List Nat) : State :=
  match s.record x.ctx x.index with
  | none => s.dropGrid gk
  | some r =>
    if recTries r < recRetry r then
      ((s.setGrid gk (newGrid x.ctx x.index x.record x.desc avoid none [])).writeHead x.ctx x.index
        (putBits (inState r rsReady) 47 3 (recTries r + 1))).toCheck x.ctx x.index
    else ((s.dropGrid gk).writeStatus x).recordFailed x.ctx x.index x.faultCause

/-- COMMIT_ABORT (R259): it stops the task's teams, and once they have drained it ends the attempt. -/
def execCommitAbort (ctx index : Nat) (s : State) : Result :=
  let gk := gridKey ctx index
  match s.grid? gk with
  | none => .next s
  | some x =>
    if descCommit x.desc && x.faulted then
      match s.abortStop gk with
      | some s1 => .next s1
      | none =>
        if s.abortDrained gk then
          .next (s.unlessHeld (((s.discardTeams gk).unqueue ctx index).abortRecord gk (s.foldTeams gk x) (s.faultClusters gk)))
        else .next s
    else .next s

/-! ### Replay and verdict (R262, R263) -/

/-- The cluster on which a team originally ran. -/
def Grid.origin (x : Grid) (team : Nat) : Option Nat := (x.cores.find? fun p => p.1 == team).map fun p => clusterOf p.2

/-- A queue's entry is the resumption of a gang's team. -/
def State.gangEntry (s : State) (e : QEntry) : Bool :=
  match e.team with
  | some k => match s.team? k with | some t => s.inGang k t | none => false
  | none => false

/-- Queued resumptions of saved gangs of a level, with their dies, in the order in which the distributor serves the dies. -/
def State.resumptions (s : State) (level : Nat) : List (Nat × QEntry) :=
  (s.dieOrder level).flatMap fun d => ((s.queueAt d level).filter s.gangEntry).map fun e => (d, e)

/-- VIGIL_REPLAY (R262): the next team of a replay is placed at priority 3, on another cluster, once the one before it has retired.
Blocking heads and queued resumptions come first. -/
def execVigilReplay (ctx index : Nat) (s : State) : Result :=
  let gk := replayKey ctx index
  match s.grid? gk with
  | none => .next s
  | some x =>
    if x.placed == x.retired && x.placed < recTeams x.record && !x.faulted && !s.blockedTo 3
        && (List.range 4).all (fun l => (s.resumptions l).isEmpty) then
      match s.released (s.placeTeam gk x.placed x fun c => x.origin x.placed != some (clusterOf c)) with
      | .ok s1 => .next s1
      | .no s1 => .next s1
      | .later s1 => .next s1
    else .next s

/-- The verdict of a replay that ran to its end (Table 10-4). -/
def verdictOf (original : Nat × Nat) (x : Grid) : Nat :=
  if x.sigIn ≠ original.1 then 4 else if x.sigOut ≠ original.2 then 3 else 2

/-- Write a verdict; every verdict but MATCH is an event. -/
def State.verdict (s : State) (x : Grid) (original : Nat × Nat) (v : Nat) : State :=
  let s1 := s.setAudit x.ctx x.index v
  if v = 2 then s1 else s1.event (.vigil x.ctx x.index v original.2 x.sigOut x.cores)

/-- VIGIL_VERDICT (R263). A replay that ended by a fault or an overflow is stopped, and its verdict is ABORTED. -/
def execVigilVerdict (ctx index : Nat) (s : State) : Result :=
  let gk := replayKey ctx index
  match s.grid? gk with
  | none => .next s
  | some x =>
    match x.replayOf with
    | none => .next s
    | some o =>
      if x.faulted then
        match s.abortStop gk with
        | some s1 => .next s1
        | none => if s.abortDrained gk then .next (s.unlessHeld (((s.discardTeams gk).dropGrid gk).verdict x o 5)) else .next s
      else if x.retired = recTeams x.record then .next (s.unlessHeld ((s.dropGrid gk).verdict x o (verdictOf o x)))
      else .next s

/-! ### Host writes and decrements (R185, R412) -/

/-- DEPCNT_DECREMENT (R185). -/
def execDepcntDecrement (ctx index : Nat) (s : State) : Result := .next (s.unlessHeld (s.decrement ctx index))

/-- An address lies in the BAR2 aperture (Table 20-1). -/
def State.inBar2 (s : State) (a n : Nat) : Bool :=
  match s.bar2 with
  | some b => b ≤ a && a + n ≤ b + 2 ^ 36
  | none => false

/-- A record written EMPTY while its audit byte is PENDING: the replay is discarded, the byte stays (R263). -/
def State.dropReplay (s : State) (ctx index : Nat) : State :=
  let gk := replayKey ctx index
  match s.grid? gk with
  | some x =>
    match x.replayOf with
    | some o => ((s.discardTeams gk).dropGrid gk).event (.vigil ctx index 4 o.2 x.sigOut x.cores)
    | none => s
  | none => s

/-- ALMANAC_RECORD_WRITE (R412): a posted write of record bytes through BAR2, which has no key pair (R229). -/
def execAlmanacRecordWrite (ctx index offset : Nat) (bytes : List Byte) (s : State) : Result :=
  match s.deviceFlat ctx (s.recordVa ctx index) with
  | none => .next s
  | some a =>
    if index < (s.ctxAt ctx).almRecords && offset + bytes.length ≤ 64 && s.inBar2 (a + offset) bytes.length then
      let s1 := s.writeAs ctx (s.recordVa ctx index + offset) bytes
      let emptied := match s1.record ctx index with | some r => recState r == rsEmpty | none => false
      .next (s.unlessHeld (if emptied && s.auditByte ctx index == some 1 then (s1.touchAudit ctx index).dropReplay ctx index else s1))
    else .next s

/-! ### Checking a record (R184, R176, R395) -/

/-- A kernel descriptor breaks Table 16-2. -/
def descBad (d : BitVec 512) : Bool :=
  let n := descGroups d
  bitsOf d 0 8 != 1 || bitsOf d 10 2 == 3 || d.getLsbD 15 || (descAud d && !descCommit d)
    || (!descAud d && descAudClass d != 0) || n == 0 || 16 < n || bitsOf d 30 2 != 0
    || 4 < bitsOf d 32 3 || 4 < bitsOf d 35 3 || bitsOf d 38 26 != 0
    || bitsOf d 64 64 % 4 != 0 || bitsOf d 128 64 % 16 != 0 || 2 ^ 20 < bitsOf d 192 32
    || descVault d % 4096 != 0 || 41943040 < descVault d
    || descCwin d % 4096 != 0 || 8388608 < descCwin d || (!descCommit d && descCwin d != 0) || bitsOf d 288 224 != 0

/-- RZ, KIND and CLASS fields of a record are bad. Table 8-6 asks for one team at least and Table 8-8's checks do not list TEAMS: DESIGN
CHOICE, a grid launch of no team fails with RESERVED_FIELD (log entry 109). -/
def recBad (r : BitVec 512) : Bool :=
  4 < recKind r || recClass r == 3 || (recKind r != 0 && recClass r != 0) || r.getLsbD 39 || bitsOf r 51 5 != 0
    || bitsOf r 464 16 != 0 || (recKind r == 0 && recTeams r == 0)

/-- The four words of an operand block. -/
def blockWords (d : BitVec 512) : List Word := (List.range 4).map fun i => d.extractLsb' (64 * i) 64

/-- The engine command kind of a record's KIND: NMLAUNCH, COPY, COLL. -/
def engKindOf (kind : Nat) : Nat := if kind = 1 then 5 else if kind = 2 then 1 else 4

/-- The cause for which an operand block is refused (R312, R315, R316, R378). A record has no team, so no vault operand. -/
def blockFails (kind : Nat) (p : List Word) : Option Cause :=
  if kind = 1 then
    let sel := p.getD 2 0
    if bitsOf sel 8 56 != 0 || p.getD 3 0 != 0 || (packAuto sel && bitsOf sel 0 7 != 0) then some .reservedField
    else if (p.getD 0 0).toNat % 8 != 0 || (p.getD 1 0).toNat % 8 != 0 then some .misaligned
    else none
  else if kind = 2 then
    let x := copyPack p
    if bitsOf (p.getD 3 0) 34 30 != 0 || x.ssp || x.dsp || x.overlaps 0 then some .reservedField
    else if x.src % 4 != 0 || x.dst % 4 != 0 || x.len % 4 != 0 then some .misaligned
    else none
  else
    let x := collPack p
    let f := p.getD 3 0
    if bitsOf (p.getD 2 0) 32 32 != 0 || x.count == 0 || 3 < x.op || !([0x0, 0x2, 0x8, 0xC].contains (bitsOf f 51 4))
        || bitsOf f 55 9 != 0 then some .reservedField
    else none

/-- The failing check of a grid launch, with its descriptor. -/
def State.launchFails (s : State) (ctx index : Nat) (r d : BitVec 512) : Option Cause :=
  if descBad d then some .reservedField
  else if bitsOf d 10 2 ≠ recClass r then some .classMismatch
  else if recClass r = 0 && !s.couldHold ctx index r d then some .classMismatch
  else if recStatblk r % 64 ≠ 0 then some .misaligned
  else none

/-- A record that passes its checks is QUEUED at its priority's tail (R188). -/
def State.enqueue (s : State) (ctx index : Nat) (r d : BitVec 512) : State :=
  let die := s.walkerDie index
  (s.recordState ctx index rsQueued).setQueueAt die (recPrio r)
    (s.queueAt die (recPrio r) ++ [⟨ctx, index, none, r, d, s.dieCycles die, none⟩])

/-- Check a READY record. -/
def State.checkRecord (s : State) (ctx index : Nat) (r : BitVec 512) : State :=
  if recBad r then s.recordFailed ctx index Cause.reservedField.code
  else if recKind r = 4 then (s.recordState ctx index rsQueued).recordDone ctx index
  else
    match s.deviceRead ctx (recDesc r) (if recKind r = 0 then 64 else 32) with
    | none => (s.touch ctx (recDesc r) 64).recordFailed ctx index Cause.pageFault.code
    | some n =>
      let s := s.touch ctx (recDesc r) (if recKind r = 0 then 64 else 32)
      let d := BitVec.ofNat 512 n
      match if recKind r = 0 then s.launchFails ctx index r d else blockFails (recKind r) (blockWords d) with
      | some c => s.recordFailed ctx index c.code
      | none => s.enqueue ctx index r d

/-- RECORD_CHECK (R184): the walker checks a record that a decrement or a relaunch made READY. One whose STATE reads READY because it
was written so is not checked (R185). -/
def execRecordCheck (ctx index : Nat) (s : State) : Result :=
  let c := s.ctxAt ctx
  if c.checks.contains index then
    let s1 := s.setCtx ctx { c with checks := c.checks.filter (· != index) }
    .next (s.unlessHeld (match s1.record ctx index with
      | some r => if recState r = rsReady then s1.checkRecord ctx index r else s1.touchRecord ctx index
      | none => s1.touchRecord ctx index))
  else .next s

end Sys2Proof.Machine
end

