-- ==== Sys2Proof/Machine/Distributor.lean ====
section
/-! DEFINITION. The work distributor: aging, blocking heads and their pre-emption, and the placement step (R188 to R190, R197). -/

namespace Sys2Proof.Machine

/-! ### One queue entry -/

/-- The locks of a record's engine command, in its walker's die (R153). -/
def recordLocks (s : State) (kind die : Nat) (p : List Word) : List LockReq :=
  if kind = 2 then
    let x := copyPack p
    if x.len = 0 then [] else [⟨false, x.src, x.len, false, die⟩, ⟨false, x.dst, x.len, true, die⟩]
  else if kind = 3 then
    let x := collPack p
    [⟨false, x.src, x.bytes, false, die⟩, ⟨false, x.dst, x.outBytes (s.domainSize x.domain), true, die⟩]
  else []

/-- A team key that names no team, for commands that records start. -/
def recordTeam : Nat := 2 ^ 90

/-- Accept the engine command of a record of KIND 1 to 3 (Table 8-8). -/
def State.accept (s : State) (die : Nat) (e : QEntry) : Placed :=
  let k := recKind e.record
  let p := blockWords e.desc
  let locks := recordLocks s k die p
  if !s.lockRoom locks then .no s
  else
    let c : ECmd := ⟨s.nextCmd, engKindOf k, p, 256 * die, recordTeam, 0, e.ctx, true, 0, false, none, some e.index⟩
    let s1 := { s.addLocks e.ctx c.id locks with ecmds := s.ecmds ++ [c], nextCmd := s.nextCmd + 1 }.recordState e.ctx e.index rsRunning
    .ok (if k = 1 then deliverProgram (p.getD 2 0) c s1
      else if k = 2 && (copyPack p).len == 0 then s1.endCommand c stDone
      else s1)

/-- The grid of an entry as a placement finds it. -/
def State.entryGrid (s : State) (e : QEntry) : Grid :=
  match s.grid? (gridKey e.ctx e.index) with
  | some x => if x.placed = 0 then { x with record := e.record, desc := e.desc } else x
  | none => newGrid e.ctx e.index e.record e.desc [] none []

/-- The head leaves its queue. -/
def State.dequeue (s : State) (die level : Nat) : State := s.setQueueAt die level ((s.queueAt die level).drop 1)

/-- The head stays, and does not fail any more: a team of it has been placed. -/
def State.headPlaced (s : State) (die level : Nat) : State :=
  match s.queueAt die level with
  | e :: r => s.setQueueAt die level ({ e with failing := none } :: r)
  | [] => s

/-- Place the new task at the head of a queue: an engine command, all teams of a concurrent grid or of a parallel grid's first placement, or the next
team of a weakly parallel grid (R182, R190). -/
def State.tryEntry (s : State) (die level : Nat) (e : QEntry) : Placed :=
  if recKind e.record ≠ 0 then
    match s.accept die e with
    | .ok s1 => .ok (s1.dequeue die level)
    | r => r
  else
    let gk := gridKey e.ctx e.index
    let x := s.entryGrid e
    let n := recTeams e.record
    let s0 := s.setGrid gk x
    if descCommit x.desc && x.faulted then .no s
    else if recClass e.record = 2 then
      match s.released (s0.placeTeam gk x.placed x fun _ => true) with
      | .ok s1 =>
        let s2 := if x.placed = 0 then s1.recordState e.ctx e.index rsRunning else s1
        .ok (if x.placed + 1 = n then s2.dequeue die level else s2.headPlaced die level)
      | r => r
    else
      match s.released (s0.placeTeams gk n 0) with
      | .ok s1 => .ok ((s1.recordState e.ctx e.index rsRunning).dequeue die level)
      | r => r

/-- Place a queue's entry: the resumption of a saved gang or team, or a new task. -/
def State.tryHead (s : State) (die level : Nat) (e : QEntry) : Placed :=
  match e.team with
  | some k => s.restoreGang k
  | none => s.tryEntry die level e

/-! ### Aging and blocking -/

/-- RECORD_AGING (R188). -/
def execRecordAging (die level : Nat) (s : State) : Result :=
  match s.queueAt die level with
  | [] => .next s
  | e :: r =>
    if 0 < level && level < 4 && e.since + (s.dieAt die).age ≤ s.dieCycles die then
      .next ((s.setQueueAt die level r).setQueueAt die (level - 1)
        (s.queueAt die (level - 1) ++ [{ e with since := s.dieCycles die, failing := none }]))
    else .next s

/-- The victims of one level in order (R197): weakly parallel teams, unstarted parallel teams, then gangs. -/
def State.victimsAt (s : State) (level : Nat) : List (List Nat) :=
  let l := s.teams.filter fun p => s.takable p && s.teamLevel p.2 == level
  let weak := l.filter fun p => s.teamClass p.2 == 2
  let fresh := l.filter fun p => s.teamClass p.2 == 1 && !s.started p.1 p.2
  let gangs := (l.filter fun p => s.inGang p.1 p.2).map fun p => s.gangOf p.1 p.2
  (weak.map fun p => [p.1]) ++ (fresh.map fun p => [p.1]) ++ gangs.eraseDups

/-- The module as it will be once some teams have been saved. -/
def State.asSaved (s : State) (l : List Nat) : State :=
  l.foldl (fun (u : State) k =>
    match u.team? k with
    | some t => if t.image.isNone then u.saveTeam k t else u
    | none => u) s

/-- The head fits. -/
def State.headFits (s : State) (die level : Nat) : Bool :=
  match s.queueAt die level with
  | e :: _ => match s.tryHead die level e with | .ok _ => true | _ => false
  | [] => true

/-- Take victims until the head fits; those whose images the pool cannot hold are refused (R198). -/
def takeVictims (die : Nat) (v : State) : List (List Nat) → List (List Nat)
  | [] => []
  | u :: r => if v.headFits die 0 then [] else u :: takeVictims die (if v.gangRoom u then v.asSaved u else v) r

/-- HEAD_BLOCKING (R189, R197): a head has failed to be placed for AGE cycles; one of priority 0 pre-empts, where the host has
enabled that for its context. -/
def execHeadBlocking (die level : Nat) (s : State) : Result :=
  match s.queueAt die level with
  | [] => .next s
  | e :: _ =>
    if level = 0 && s.isBlocking die level && (s.ctxAt e.ctx).preemptOn then
      let v := s.asSaved ((s.teams.filter fun p => p.2.saving && !s.aborting p.2).map Prod.fst)
      .next ((takeVictims die v ([3, 2, 1].flatMap s.victimsAt)).foldl State.stopGang s)
    else .next s

/-! ### The placement step (R189) -/

/-- What the scan of a level comes to: something was placed, go on with the next level, or nothing more may be placed. -/
inductive Scan where
  | placed (s : State)
  | go (s : State)
  | stop (s : State)
  deriving DecidableEq, Repr

/-- Note the die served at a level. -/
def State.served (s : State) (level die : Nat) : State := { s with rr := s.rr.set level die }

/-- Note that a head fails to be placed. -/
def State.noteFailing (s : State) (die level : Nat) : State :=
  match s.queueAt die level with
  | e :: r => if e.failing.isNone then s.setQueueAt die level ({ e with failing := some (s.dieCycles die) } :: r) else s
  | [] => s

/-- Note that an entry fails to be placed, where it is its queue's head. -/
def State.noteEntry (s : State) (die level : Nat) (e : QEntry) : State :=
  if (s.queueAt die level).head? = some e then s.noteFailing die level else s

/-- Blocking heads of a level, tried alone. -/
def State.scanBlocking (s : State) (level : Nat) : List Nat → Scan
  | [] => .stop s
  | d :: r =>
    match s.queueAt d level with
    | [] => s.scanBlocking level r
    | e :: _ =>
      if s.isBlocking d level then
        match s.tryHead d level e with
        | .ok s1 => .placed (s1.served level d)
        | .no s1 => s1.scanBlocking level r
        | .later s1 => .stop s1
      else s.scanBlocking level r

/-- Heads of a level in turn; while saved gangs wait (`held`), only those that are resumptions. -/
def State.scanHeads (s : State) (level : Nat) (held : Bool) : List Nat → Scan
  | [] => .go s
  | d :: r =>
    match s.queueAt d level with
    | [] => s.scanHeads level held r
    | e :: _ =>
      if held && e.team.isNone then s.scanHeads level held r
      else
        match s.tryHead d level e with
        | .ok s1 => .placed (s1.served level d)
        | .no s1 => (s1.noteFailing d level).scanHeads level held r
        | .later s1 => .stop s1

/-- Saved gangs whose resumption is queued at a level. -/
def State.scanGangs (s : State) (level : Nat) : List (Nat × QEntry) → Scan
  | [] => .go s
  | p :: r =>
    match s.tryHead p.1 level p.2 with
    | .ok s1 => .placed (s1.served level p.1)
    | .no s1 => (s1.noteEntry p.1 level p.2).scanGangs level r
    | .later s1 => .stop s1

/-- Levels in order. At each its blocking heads alone; else its saved gangs, then its heads. A saved gang whose resumption is queued and
that does not fit keeps new tasks of its level and of lower ones back (`held`). The resumption of a team of no gang is served as a head of
its queue. -/
def State.scan (s : State) (held : Bool) : List Nat → State
  | [] => s
  | l :: r =>
    if s.blockedAt l then
      match s.scanBlocking l (s.dieOrder l) with
      | .placed s1 => s1
      | .go s1 => s1
      | .stop s1 => s1
    else
      match s.scanGangs l (s.resumptions l) with
      | .placed s1 => s1
      | .stop s1 => s1
      | .go s1 =>
        let held := held || !(s.resumptions l).isEmpty
        match s1.scanHeads l held (s1.dieOrder l) with
        | .placed s2 => s2
        | .stop s2 => s2
        | .go s2 => s2.scan held r

/-- PLACEMENT_STEP (R189, R190, R201). -/
def execPlacementStep (s : State) : Result := .next (s.unlessHeld (s.scan false [0, 1, 2, 3]))

/-- A team is in its save image. -/
def State.isSaved (s : State) (key : Nat) : Bool := match s.team? key with | some t => t.image.isSome | none => false

/-- TEAM_RESTORE (R199): the placement step where it restores the team. -/
def execTeamRestore (ctx index team : Nat) (s : State) : Result :=
  let t := s.scan false [0, 1, 2, 3]
  .next (s.unlessHeld <| if (gridsOf ctx index).any fun g => s.isSaved (teamKey g team) && !t.isSaved (teamKey g team) then t else s)

end Sys2Proof.Machine
end

