-- ==== Sys2Proof/Machine/Service.lean ====
section
/-! DEFINITION. What serves groups from outside: completion of accesses (R147, R368), the assist (R104), the walker (R223), page
responses (R240), ATS (R214), the stack cache (R144) and the batch table (R209, R210). -/

namespace Sys2Proof.Machine

/-! ### Accesses in flight -/

/-- LOAD_DATA_ARRIVAL (R368): the n-th access in flight on a path, performed in every lane, writes its destination. -/
def execLoadDataArrival (core slot : Nat) (path : Path) (n : Nat) (s : State) : Result :=
  let g := s.groupAt core slot
  match nthAccess path n g.inflight with
  | none => .next s
  | some a =>
    if a.arrived || !a.todo.isEmpty then .next s
    else
      .next (s.setGroupAt core slot
        { g.writeElems a.writes with inflight := mapNth path (fun (x : Access) => { x with arrived := true }) n g.inflight })

/-- An access completes; bad lanes that it reports halt a group that has not ended (R249, R250). -/
def State.accessDone (s : State) (core slot : Nat) (path : Path) (n : Nat) (a : Access) : State :=
  let g := s.groupAt core slot
  let g1 := { g with inflight := mapNth path (fun (x : Access) => { x with done := true }) n g.inflight }.subtract
  let s1 := s.setGroupAt core slot g1
  match a.bad with
  | some b => if g.live then s1.haltGroup core slot true g.nextLane b else s1
  | none => s1

/-- ACCESS_COMPLETE (R147). Engine commands complete by their own event. -/
def execAccessComplete (core slot : Nat) (path : Path) (n : Nat) (s : State) : Result :=
  match nthAccess path n (s.groupAt core slot).inflight with
  | none => .next s
  | some a => .next (if a.arrived && a.todo.isEmpty && a.cmd.isNone && !a.done then (s.accessDone core slot path n a).serveAts else s)

/-- STACK_CACHE_WRITEBACK (R144, R146): the stack cache holds no state that a program observes; writing it back is timing only. -/
def execStackCacheWriteback (_core : Nat) (s : State) : Result := .next s

/-! ### The assist (R104) -/

/-- Rows of 32 elements. -/
def rowsOf : Nat → List W32 → List (List W32)
  | 0, _ => []
  | n + 1, l => l.take 32 :: rowsOf n (l.drop 32)

/-- Push the rows of an assisted word on its team's queue: none where there is no room yet. -/
def State.assistPush (s : State) (team : Nat) : List (Nat × List W32) → Option State
  | [] => some s
  | (q, l) :: r =>
    match s.team? team with
    | none => s.assistPush team r
    | some t =>
      match pushRows t.q q (rowsOf (l.length / 32) l) (s.teamBroken team) with
      | none => none
      | some q1 => (s.setTeam team { t with q := q1 }).assistPush team r

/-- A parked group whose service is over: PENDING, unless a save, an abort or a sibling's TRETIRE holds it. -/
def State.serviced (s : State) (core : Nat) (g : Group) : Group :=
  let held := g.stopped || (match s.team? g.team with | some t => t.saving | none => false)
  if g.st = .parked && !held then g.toPending s.time (s.cycles core) else g

/-- FP_SUBNORMAL_ASSIST (R104). -/
def execFpSubnormalAssist (core slot : Nat) (s : State) : Result :=
  let g := s.groupAt core slot
  match g.assistRec with
  | none => .next s
  | some r =>
    match s.assistPush g.team r.queue with
    | none => .next s
    | some s1 =>
      let c := s1.coreAt core
      let s2 := s1.setCore core { c with mx := c.mx.setArow r.arow }
      let g1 := { (g.writeElems r.writes).raise (if r.unf then Flags.unf else 0) with assistRec := none, assists := g.assists + 1 }
      .next (s2.setGroupAt core slot (s2.serviced core g1))

/-! ### The walker routine (R223) -/

/-- A request is the miss of an access that a group or a command of the core made, and that still waits. -/
def State.canAsk (s : State) (core : Nat) (r : WalkReq) : Bool :=
  let group (c k : Nat) : Bool :=
    let g := s.groupAt c k
    c == core && k < 47 && g.live && g.ctx == r.ctx && r.user == (g.mode == .user)
  (s.coreAt core).missed.contains r && match r.who with
  | .scalar c k => group c k
  | .lane c k => group c k
  | .command id => s.ecmds.any (fun c => c.id == id && c.core == core && c.ctx == r.ctx)
      || (s.coreAt core).mcmds.any (fun m => m.id == id && m.ctx == r.ctx)
      || (s.dieAt (dieOf core)).batches.any fun b => b.id == id

/-- Both TLBs miss the page of a request (R221, R226). -/
def State.misses (s : State) (core : Nat) (r : WalkReq) : Bool :=
  let hit (l : List TlbEntry) : Bool := l.any fun t => t.hits r.ctx r.va.toNat
  r.va.toNat < 2 ^ 56 && !hit (s.dieAt (s.tlbDie ⟨r.who, core, r.ctx, r.user⟩)).tlb && (!isGroupReq r.who || !hit (s.coreAt core).tlb)

/-- The group of slot 47 as a request starts it. -/
def walkerGroup (g : Group) (r : WalkReq) (root : Word) : Group :=
  let w := g.setMode .walker
  { w with
    st := .active
    spc := Config.walkerEntry
    s := sset 0 1 r.va (sset 0 2 (wd (r.kind.toNat + if r.user then 4 else 0)) (sset 0 3 root (sset 0 4 (wd r.ctx) w.s)))
    ctxid := wd r.ctx
    sWait := none }

/-- WALK_REQUEST (R223): the walker of a core takes one request at a time; a miss that an earlier walk has served needs none. -/
def execWalkRequest (core : Nat) (r : WalkReq) (s : State) : Result :=
  let c := s.coreAt core
  if c.walk.isSome then .next s
  else
    let missed := c.missed.filter fun q => q != r
    if s.canAsk core r && s.misses core r then
      let root := (s.descFor core r.ctx).extractLsb' 64 64
      .next ((s.setCore core { c with walk := some r, verdict := none, missed := missed }).setGroupAt core 47
        (walkerGroup (s.groupAt core 47) r root))
    else .next (s.setCore core { c with missed := missed })

/-! ### Page responses (R240, R226, R415) -/

/-- The level at which a walk of a page stops now. -/
def State.stopLevel (s : State) (core ctx va : Nat) : Nat :=
  match s.entryBy (s.descFor core ctx) ctx va with
  | some (l, _, _) => l
  | none => 0

/-- A response reaches a group: it replays, or its handler is entered again. -/
def State.groupResponse (s : State) (core slot : Nat) (ok : Bool) : State :=
  let g := s.groupAt core slot
  let g0 := { g with pageReq := none }
  if g.st = .parked then
    let g1 := if g.stopped then g0 else if ok then g0.returned (s.cycles core) else g0.refused (handlerOf (s.descOn core g.ctx))
    s.setGroupAt core slot (s.serviced core { g1 with st := .parked })
  else s.setGroupAt core slot g0

/-- A response reaches an engine command: it tries again, or ends FAILED. -/
def State.engineResponse (s : State) (c : ECmd) (ok : Bool) : State :=
  if ok then { s with ecmds := s.ecmds.map fun (x : ECmd) => if x.id = c.id then { x with pageReq := none } else x }
  else s.endCause c stFailed (some Cause.pageFault.code)

/-- A response reaches the program of an SDUE. -/
def State.progResponse (s : State) (stack sdue : Nat) (p : NmProg) (ok : Bool) : State :=
  let s1 := { s with cur := { s.cur with stack := stack, sdue := sdue, stream := .sdue } }
  if ok then s1.setProg { p with pageReq := none } else s1.progFail Cause.pageFault.code

/-- A response reaches a matrix command: it tries again, or its fault waits for its MWAIT. -/
def State.matrixResponse (s : State) (core : Nat) (m : MCmd) (r : WalkReq) (ok : Bool) : State :=
  if ok then
    let c := s.coreAt core
    s.setCore core { c with mcmds := c.mcmds.map fun (x : MCmd) => if x.id = m.id then { x with pageReq := none } else x }
  else s.mxDone core m (some (pageEnded 8 (s.stopLevel core r.ctx r.va.toNat) r.kind.toNat r.va.toNat))

/-- A response reaches a batch: it goes on, or the row that asked ends with a fault. -/
def State.batchResponse (s : State) (die : Nat) (b : Batch) (r : WalkReq) (ok : Bool) : State :=
  let d := s.dieAt die
  let s1 := s.setDie die { d with batches := d.batches.map fun (x : Batch) => if x.id = b.id then { x with pageReq := none } else x }
  if ok then s1
  else
    match b.rows.zipIdx.find? fun p => !p.1.settled with
    | some (row, j) =>
      s1.rowOver die b j row (some (pageEnded 8 (s.stopLevel row.core r.ctx r.va.toNat) r.kind.toNat r.va.toNat)) 0
    | none => s1

/-- The outstanding request of a requester, with what a response does to it. -/
def State.asked (s : State) (who : Requester) (ok : Bool) : Option (WalkReq × State) :=
  let group (core slot : Nat) : Option (WalkReq × State) :=
    match (s.groupAt core slot).pageReq with
    | some r => if r.who = who then some (r, s.groupResponse core slot ok) else none
    | none => none
  match who with
  | .scalar core slot => group core slot
  | .lane core slot => group core slot
  | .command id =>
    let programs := s.hbmStacks.findSome? fun (k : Nat × Stack) => k.2.sdue.findSome? fun (p : Nat × NmProg) =>
      if p.2.cmd = id then p.2.pageReq.map fun r => (r, s.progResponse k.1 p.1 p.2 ok) else none
    let engines := s.ecmds.findSome? fun c => if c.id = id then c.pageReq.map fun r => (r, s.engineResponse c ok) else none
    let matrices := s.cores.findSome? fun (k : Nat × Core) => k.2.mcmds.findSome? fun m =>
      if m.id = id then m.pageReq.map fun r => (r, s.matrixResponse k.1 m r ok) else none
    let batches := s.dies.findSome? fun (k : Nat × Die) => k.2.batches.findSome? fun b =>
      if b.id = id then b.pageReq.map fun r => (r, s.batchResponse k.1 b r ok) else none
    programs <|> engines <|> matrices <|> batches

/-- PAGE_REQUEST_RESPONSE (R240): success, or Invalid Request and Response Failure, for the oldest request outstanding of a
requester. Its place goes to a request that waits (R415). -/
def execPageRequestResponse (who : Requester) (ok : Bool) (s : State) : Result :=
  match s.priOut.find? fun p => p.2.who == who with
  | none => .next s
  | some p =>
    let s1 := { s with priOut := s.priOut.erase p }
    let s2 := match s1.asked who ok with | some (r, t) => if r = p.2 then t else s1 | none => s1
    .next (s.unlessHeld (s2.nextPage p.1))

/-- ATS_INVALIDATE_REQUEST (R214): the hub dies drop the translation, and the request completes once no access that may have used it is
in progress; until then it waits in the invalidation queue (Table 20-1). -/
def execAtsInvalidateRequest (pasid : Nat) (va : Word) (s : State) : Result :=
  .next { s with
    ats := s.ats.filter fun t => t != (pasid, va.toNat / 4096)
    atsQueue := s.atsQueue ++ [(pasid, va)] }.serveAts

/-! ### The batch table (R209, R210) -/

def entrySeq (e : BitVec 512) : Nat := bitsOf e 0 32
def entryCluster (e : BitVec 512) : Nat := bitsOf e 32 7

/-- The key of the stable copy of an entry. -/
def stableKey (ctx i : Nat) : Nat := ctx * 2 ^ 32 + i

/-- Read entry i: an even entry is its own new stable copy, for whichever cluster reads it; an odd one leaves the last. The entry as it
reads, and the copy that an iteration uses. -/
def State.snapEntry (s : State) (ctx base i : Nat) : State × Option (BitVec 512 × Option (BitVec 512)) :=
  match s.deviceRead ctx (base + 64 * i) 64 with
  | none => (s, none)
  | some n =>
    let e := BitVec.ofNat 512 n
    let s1 := s.touch ctx (base + 64 * i) 64
    if entrySeq e % 2 = 0 then ({ s1 with stable := sins (stableKey ctx i) e (serase (stableKey ctx i) s1.stable) }, some (e, some e))
    else (s1, some (e, lookupKey (stableKey ctx i) s.stable))

/-- Snapshot the entries from i on that a cluster owns, each into its snapshot array. While the host writes an entry, its owner is the
cluster that its CLUSTER field holds then (R209, log entry 110). -/
def State.snapEntries (s : State) (cluster ctx base array : Nat) : Nat → Nat → State
  | 0, _ => s
  | n + 1, i =>
    match s.snapEntry ctx base i with
    | (s1, some (e, some copy)) =>
      let s2 := if entryCluster e = cluster then s1.deviceWrite ctx (array + Config.snapshotEntry cluster i) (toBytes 64 copy.toNat) else s1
      s2.snapEntries cluster ctx base array n (i + 1)
    | (s1, _) => s1.snapEntries cluster ctx base array n (i + 1)

/-- BATCH_TABLE_SNAPSHOT (R209, R210): a cluster starts an iteration, the next of its private counter. -/
def execBatchTableSnapshot (cluster ctx : Nat) (s : State) : Result :=
  match (s.ctxAt ctx).batch with
  | none => .next s
  | some (base, n, array) =>
    if 128 ≤ cluster then .next s
    else
      let it := sget 0 cluster s.iters + 1
      let s1 := ({ s with iters := sset 0 cluster it s.iters }).snapEntries cluster ctx base.toNat array.toNat n 0
      .next (s.unlessHeld (s1.deviceWrite ctx (array.toNat + Config.snapshotNumber cluster) (toBytes 8 it)))

end Sys2Proof.Machine
end

