-- ==== Sys2Proof/Machine/Equinox.lean ====
section
/-! DEFINITION. The consistent cut (R271 to R275) and messages that arrive over the fabric (R168, R243, R272, R417). -/

namespace Sys2Proof.Machine

/-! ### The request (Table 10-7) -/

def eqxId (r : BitVec 512) : Nat := bitsOf r 0 32
def eqxStep (r : BitVec 512) : Nat := bitsOf r 32 32
def eqxDomain (r : BitVec 512) : Nat := bitsOf r 64 16
def eqxDflow (r : BitVec 512) : Nat := bitsOf r 80 12
def eqxSetAddr (r : BitVec 512) : Nat := bitsOf r 128 64
def eqxNset (r : BitVec 512) : Nat := bitsOf r 192 16
def eqxFlowSet (r : BitVec 512) : Nat := bitsOf r 256 64
def eqxNflow (r : BitVec 512) : Nat := bitsOf r 320 16
def eqxCkey (r : BitVec 512) : Nat := bitsOf r 384 64

/-- The entries of the page set: context, first page, number of pages. -/
def State.pageSet (s : State) (r : BitVec 512) : List (Nat × Nat × Nat) :=
  (List.range (eqxNset r)).map fun i =>
    let w := s.readN (eqxSetAddr r + 16 * i) 8
    (w % 64, w / 65536, s.readN (eqxSetAddr r + 16 * i + 8) 8 / 65536)

/-- The enrolled flows, and those of them that can bring messages in: their descriptor has a receive range. -/
def State.cutFlows (s : State) (r : BitVec 512) : List Nat :=
  ((List.range (eqxNflow r)).map fun i => s.readN (eqxFlowSet r + 2 * i) 2 % 4096).eraseDups

/-- Receive ranges of a flow (Table 20-4). -/
def flowRanges (d : BitVec 576) : List (Nat × Nat) :=
  (List.range 8).map fun j => (bitsOf d (64 + 64 * j) 36, bitsOf d (64 + 64 * j + 36) 28)

def State.incoming (s : State) (f : Nat) : Bool := (flowRanges (s.flowAt f).desc).any fun r => r.2 != 0

/-! ### The states of Table 10-8 -/

/-- The collective engine has completed a step of a domain: a cut armed for it holds the stacks' writes (R273). -/
def State.stepDone (s : State) (domain step : Nat) : State :=
  if s.eqx.st = .armed ∧ eqxDomain s.eqx.req = domain ∧ eqxStep s.eqx.req = step then
    { s with eqx := { s.eqx with st := .hold, acks := [], queued := [] } }
  else s

/-- With every frame drained the cut is DONE. -/
def State.drainedCut (s : State) : State :=
  if s.eqx.st = .draining ∧ s.eqx.snap.isEmpty then { s with eqx := { s.eqx with st := .done } }.event (.cut (eqxId s.eqx.req) true) else s

/-- With a marker from every enrolled incoming flow the cut drains. -/
def State.markersMet (s : State) : State :=
  if s.eqx.st = .cut ∧ (((s.cutFlows s.eqx.req).filter s.incoming).all fun f => s.eqx.markers.contains f) then
    { s with eqx := { s.eqx with st := .draining } }.drainedCut
  else s

/-- Send a cut marker on a flow, with its next sequence number (R273). -/
def State.sendMarker (s : State) (f : Nat) : State := s.sendOn f (.marker f)

/-! ### Fabric messages (R168, R272, R417) -/

/-- The module with a shadow's contents in place of its frame's, and no cut. -/
def State.atCopy (s : State) (f : FrameCopy) : State :=
  { s with mem := f.cells, marks := f.marks, cipher := f.units, tags := f.tags, eqx := Equinox.init }

/-- A shadow after a write, where the write meets its frame. -/
def State.shadowWrite (s : State) (a : Nat) (l : List Byte) (poisoned : Bool) (f : FrameCopy) : FrameCopy :=
  let cells := (cellsOf [(a, l)]).filter fun c => frameOf c.1 == f.frame
  if cells.isEmpty then f
  else
    let t := (s.atCopy f).writeCells (cells.map fun c => (c.1, 1)) cells poisoned
    { f with cells := t.mem, marks := t.marks.filter fun p => frameOf p.1 == f.frame, units := t.cipher, tags := t.tags }

/-- A write of a message that belongs before a cut already taken: the live frame, and its shadow where one exists (R274). -/
def State.lateWrite (s : State) (a : Nat) (l : List Byte) (poisoned : Bool) : State :=
  let q := s.eqx
  let t := { s with eqx := { q with snap := [] } }.store a l poisoned
  { t with eqx := { t.eqx with snap := q.snap, shadow := q.shadow.map (s.shadowWrite a l poisoned) } }

/-- Perform a message's write. -/
def State.messageWrite (s : State) (m : FabricMsg) : State :=
  let cut := s.eqx.st == .cut || s.eqx.st == .draining
  if cut && m.tag ≤ eqxStep s.eqx.req && (s.flowAt m.flow).desc.getLsbD 13 then s.lateWrite m.addr m.bytes m.poisoned
  else s.store m.addr m.bytes m.poisoned

/-- A message is outside the ranges that its flow was set up to reach. -/
def State.outOfRange (s : State) (m : FabricMsg) : Bool :=
  (List.range m.bytes.length).any fun i => !rangesHold ((s.flowAt m.flow).desc.extractLsb' 64 512) (frameOf (m.addr + i))

/-- Ordered mode (R168, Table 20-4). -/
def Flow.ordered (x : Flow) : Bool := x.desc.getLsbD 12

/-- A violation freezes the flow, and the message is refused (R243, R244); in ordered mode those that wait behind it are refused
too. -/
def State.freezeFlow (s : State) (m : FabricMsg) : State :=
  let x := s.flowAt m.flow
  let behind := if x.ordered then x.waiting else []
  let s1 := ((s.setFlow m.flow { x with frozen := true, waiting := if x.ordered then [] else x.waiting }).event
    (.freeze (masterRecord 3 0x12 (bitsOf x.desc 14 6) 1 m.flow 0 (wd m.addr) s.time))).send (.refusedMsg m.flow)
  behind.foldl (fun (t : State) _ => t.send (.refusedMsg m.flow)) s1

/-- A message that is tagged above S waits until the module has cut (R272); in the hold every enrolled message does (R273). -/
def State.holdsBack (s : State) (m : FabricMsg) : Bool :=
  (s.flowAt m.flow).desc.getLsbD 13 && (s.eqx.st == .hold || (s.eqx.st == .armed && eqxStep s.eqx.req < m.tag))

/-- A message waits at its controller: its row is held (R139), or a frame of it waits for a shadow (R274). -/
def State.messageWaits (s : State) (m : FabricMsg) : Bool :=
  s.rowHeld m.addr m.bytes.length 32 0
    || (s.noShadow m.addr m.bytes.length && !(m.tag ≤ eqxStep s.eqx.req && (s.flowAt m.flow).desc.getLsbD 13))

/-- Deliver a message: it freezes its flow, is held, or is performed; none where it must wait. -/
def State.landMessage (s : State) (m : FabricMsg) : Option State :=
  if s.outOfRange m then some (s.freezeFlow m)
  else if s.holdsBack m then some { s with eqx := { s.eqx with held := s.eqx.held ++ [m] } }
  else if s.messageWaits m then none
  else some (s.messageWrite m)

/-- A message waits among its flow's. -/
def State.keepMessage (s : State) (m : FabricMsg) : State :=
  let x := s.flowAt m.flow
  s.setFlow m.flow { x with waiting := x.waiting ++ [m] }

/-- A message that has its turn: delivered, or waiting; in ordered mode one comes after those that wait (R168). -/
def State.letIn (s : State) (m : FabricMsg) : State :=
  let x := s.flowAt m.flow
  if x.ordered && !x.waiting.isEmpty then s.keepMessage m
  else
    match s.landMessage m with
    | some t => t
    | none => s.keepMessage m

/-- A message that waited tries again; in ordered mode only the first of its flow (R168). -/
def State.letOn (s : State) (m : FabricMsg) : State :=
  let x := s.flowAt m.flow
  if x.ordered && x.waiting.head? != some m then s
  else
    match (s.setFlow m.flow { x with waiting := x.waiting.erase m }).landMessage m with
    | some t => t
    | none => s

/-- The expected number after one has come, past those of an unordered flow that came before it. -/
def Flow.numberAfter (ahead : List Nat) : Nat → Nat → Nat
  | 0, n => n
  | k + 1, n => if ahead.contains n then Flow.numberAfter ahead k ((n + 1) % 2 ^ 32) else n

def Flow.took (x : Flow) : Flow :=
  let n := Flow.numberAfter x.ahead x.ahead.length ((x.expect + 1) % 2 ^ 32)
  { x with expect := n, ahead := x.ahead.filter fun k => (k + 2 ^ 32 - n) % 2 ^ 32 < 2 ^ 31 }

/-- A message whose number is beyond the one expected shows a gap, which is sent again (R417). An unordered flow delivers it all the
same. -/
def State.gap (s : State) (m : FabricMsg) : State :=
  let x := s.flowAt m.flow
  if x.ahead.contains m.seq then s
  else
    let s1 := s.send (.again m.flow x.expect)
    if x.ordered then s1 else (s1.setFlow m.flow { x with ahead := x.ahead ++ [m.seq] }).letIn m

/-- FABRIC_MESSAGE_ARRIVAL (R168, R272, R417): performed, held, or refused. One that must wait stays with its flow and comes to this
event again. A message whose number has come before is ignored. A frozen flow refuses its later messages (R243); those of an unordered flow
that came before the violation, and wait, are still performed (log entry 116). -/
def execFabricMessageArrival (msg : FabricMsg) (s : State) : Result :=
  let x := s.flowAt msg.flow
  if !x.setUp then .next s
  else if x.waiting.contains msg then .next (s.letOn msg)
  else if x.frozen then .next (s.send (.refusedMsg msg.flow))
  else if msg.seq = x.expect then .next ((s.setFlow msg.flow x.took).letIn msg)
  else if (msg.seq + 2 ^ 32 - x.expect) % 2 ^ 32 < 2 ^ 31 then .next (s.gap msg)
  else .next s

/-- CUT_MARKER_RECEIVED (R271, Table 10-8): a marker may come before the module's own cut. It takes a number of its flow (R273). -/
def execCutMarkerReceived (flow : Nat) (s : State) : Result :=
  let x := s.flowAt flow
  let s1 := if x.setUp then s.setFlow flow x.took else s
  let live := s.eqx.st == .armed || s.eqx.st == .hold || s.eqx.st == .cut
  if live && (s.cutFlows s.eqx.req).contains flow && !s.eqx.markers.contains flow then
    .next { s1 with eqx := { s1.eqx with markers := s1.eqx.markers ++ [flow] } }.markersMet
  else .next s1

/-! ### Taking the cut (R273) -/

/-- The frame of module DRAM that a page of a context maps to. -/
def State.frameOfPage (s : State) (ctx page : Nat) : Option Nat :=
  match s.deviceFlat ctx (page * 65536) with
  | some a => if isDram a then some (frameOf a) else none
  | none => none

/-- The pages of the page set that lie in a stack, as frames with their context and address. -/
def State.snapFrames (s : State) (stack : Nat) : List (Nat × Nat × Nat) :=
  (s.pageSet s.eqx.req).flatMap fun (e : Nat × Nat × Nat) =>
    (List.range e.2.2).filterMap fun i =>
      match s.frameOfPage e.1 (e.2.1 + i) with
      | some f => if stackOf (f * 65536) = stack then some (f, e.1, (e.2.1 + i) * 65536) else none
      | none => none

/-- The translations of the page set's pages are installed (R222). -/
def State.warmPages (s : State) : State :=
  (s.pageSet s.eqx.req).foldl (fun (t : State) e => (List.range e.2.2).foldl (fun (u : State) i => u.warm e.1 ((e.2.1 + i) * 65536)) t) s

/-- Frames once each, in order. -/
def onceEach (l : List (Nat × Nat × Nat)) : List (Nat × Nat × Nat) :=
  l.foldl (fun m p => if m.any fun q => q.1 == p.1 then m else m ++ [p]) []

/-- The cut is taken: the queued writes are performed in their order, held messages are released, markers are sent. -/
def State.takeCut (s : State) : State :=
  let held := s.eqx.held
  let s1 := { s with eqx := { s.eqx with st := .cut, held := [] } }.flushQueue
  let s2 := held.foldl (fun (t : State) m => t.letIn m) s1
  ((s.cutFlows s.eqx.req).foldl (fun (t : State) f => t.sendMarker f) s2).markersMet

/-- STACK_SNAPSHOT_ACK (R273): a stack marks its frames of the page set; with all of them the cut is taken. -/
def execStackSnapshotAck (stack : Nat) (s : State) : Result :=
  if s.eqx.st = .hold && stack < 32 && s.cap.hbmStacks.getLsbD stack && !s.eqx.acks.contains stack then
    let acks := s.eqx.acks ++ [stack]
    let s1 := { s.warmPages with eqx := { s.eqx with acks := acks, snap := onceEach (s.eqx.snap ++ s.snapFrames stack) } }
    .next (if (List.range 32).all fun k => !s.cap.hbmStacks.getLsbD k || acks.contains k then s1.takeCut else s1)
  else .next s

/-- SHADOW_COPY (R274): a frame that is still to be drained is copied to a shadow, where the pool has one. -/
def execShadowCopy (frame : Nat) (s : State) : Result :=
  if (s.eqx.st = .cut || s.eqx.st = .draining) && decide (s.eqx.shadow.length < Config.shadowFrames) then
    .next { s with eqx := s.copyFrame s.eqx frame }
  else .next s

/-! ### Draining (R275) -/

/-- The 65,536 bytes of a frame as the cut found them and the agent that acts sees them, and where bad units of it begin (R248): of its
shadow where one exists, else of the live frame, which the drain engine reads. -/
def State.cutImage (s : State) (frame : Nat) : State × List Byte × List Nat :=
  let a := frame * 65536
  let bad (t : State) : List Nat := ((t.marksAt (addrs a 65536)).filter fun m => m.2.kind != .correctable).map fun m => m.1 - a
  match s.eqx.shadow.find? fun p => p.frame == frame with
  | some p => (s, (s.atCopy p).seenAt a 65536, bad (s.atCopy p))
  | none =>
    let t := { s with eqx := { s.eqx with queued := [] } }
    ({ (t.checkRead a 65536).1 with eqx := s.eqx }, t.seenAt a 65536, bad t)

/-- The header of a drained frame (Table 10-9). -/
def State.frameHeader (s : State) (frame ctx va : Nat) (bytes : List Byte) : BitVec 512 :=
  let grn := match lookupKey frame s.frames with | some g => granuleCode g | none => 0
  let enc := if (s.descNow ctx).getLsbD 20 then 1 else 0
  BitVec.ofNat 512 (eqxId s.eqx.req + s.eqx.seq % 2 ^ 32 * 2 ^ 32 + ctx % 64 * 2 ^ 64 + grn * 2 ^ 70 + enc * 2 ^ 72
    + va % 2 ^ 64 * 2 ^ 128 + ofBytes (shake256 bytes 32) * 2 ^ 256)

/-- AES-256-XTS of a frame under the checkpoint key, whose wrapped form stands at CKEY, with SEQ as the tweak. -/
def State.drainCipher (s : State) (bytes : List Byte) : List Byte :=
  xtsEncrypt (Config.unwrap (s.bytesAt (eqxCkey s.eqx.req) Config.wrappedBytes)) (s.eqx.seq % 2 ^ 32) bytes

/-- DRAIN_FRAME (R275): the frame leaves SNAP and its shadow is freed. -/
def execDrainFrame (frame : Nat) (s : State) : Result :=
  if s.eqx.st = .draining then
    match s.eqx.snap.find? fun p => p.1 == frame with
    | none => .next s
    | some (_, ctx, va) =>
      let r := (s.asContext ctx).cutImage frame
      let bytes := r.2.1
      let sent := if (s.descNow ctx).getLsbD 20 then s.drainCipher bytes else bytes
      let header := s.frameHeader frame ctx va bytes
      let s1 := (r.1.withKey s.cur.key).sendOn (eqxDflow s.eqx.req) fun n => .frame (eqxDflow s.eqx.req) n header sent r.2.2
      .next { s1 with eqx := { s1.eqx with
        seq := s1.eqx.seq + 1
        snap := s1.eqx.snap.filter fun p => p.1 != frame
        shadow := s1.eqx.shadow.filter fun p => p.frame != frame } }.flushQueue.drainedCut
  else .next s

/-- CUT_FAILED (R271): an error of DFLOW, or a host abort. -/
def execCutFailed (s : State) : Result :=
  if s.eqx.st = .cut || s.eqx.st = .draining then
    .next (({ s with eqx := { s.eqx with st := .failed, snap := [], shadow := [] } }.flushQueue).event (.cut (eqxId s.eqx.req) false))
  else .next s

end Sys2Proof.Machine
end

