-- ==== Sys2Proof/Machine/Collective.lean ====
section
/-! DEFINITION. Collective steps (R315, R418). -/

namespace Sys2Proof.Machine

/-- Combine two elements: sum, max or min of COLL's types (R315, Table 4-7). -/
def collElem (op : Nat) (t : EType) (a b : W32) : W32 :=
  if t = .f32 ∨ t = .bf16 then
    let x := readF t false a.toNat
    let y := readF t false b.toNat
    let r := if op = 0 then (fAdd x y).1 else (fMinMax (op == 1) x y).1
    BitVec.ofNat 32 (finish t Fin.rne r).bits
  else
    let x := intOf t a.toNat
    let y := intOf t b.toNat
    if op = 0 then a + b else if op = 1 then (if x ≤ y then b else a) else (if x ≤ y then a else b)

/-- The elements of some bytes. -/
def collElems (t : EType) (l : List Byte) : Nat → List W32
  | 0 => []
  | n + 1 => BitVec.ofNat 32 (ofBytes (l.take (t.bits / 8))) :: collElems t (l.drop (t.bits / 8)) n

/-- Two members' elements combined, with those that are bad in either (R248). -/
def collJoin (x : CollPack) (a b : Contribution) : Contribution :=
  ⟨List.zipWith (collElem x.op x.ty) a.elems b.elems, a.bad ++ b.bad⟩

/-- The result of a step from every member's elements in arrival order. -/
def collResult (x : CollPack) : List Contribution → Contribution
  | [] => ⟨[], []⟩
  | c :: r =>
    if x.op = 3 then r.foldl (fun a b => ⟨a.elems ++ b.elems, a.bad ++ b.bad.map (a.elems.length + ·)⟩) c
    else r.foldl (collJoin x) c

/-- The bytes of elements, and which of them belong to a bad element. -/
def collBytes (t : EType) (c : Contribution) : List Byte × List Bool :=
  let n := t.bits / 8
  (c.elems.flatMap fun w => toBytes n w.toNat, (List.range c.elems.length).flatMap fun i => List.replicate n (c.bad.contains i))

/-- The module's own contribution, read from its source. -/
def ownElems (x : CollPack) (l : List Byte) (bad : List Bool) : Contribution :=
  let n := x.ty.bits / 8
  ⟨collElems x.ty l x.count, (List.range x.count).filter fun i => ((bad.drop (n * i)).take n).any id⟩

/-- The module's own contribution arrives at a free place among the others. -/
def withOwn (s : State) (members : List Contribution) (own : Contribution) : List Contribution :=
  let k := Config.freeChoice s.tick 6 % (members.length + 1)
  members.take k ++ [own] ++ members.drop k

/-- Write a free part of the result before the offset of a fault. -/
def collPart (w : Who) (x : CollPack) (out : List Byte × List Bool) (off : Nat) (s : State) : State :=
  match movePieces w ⟨none, x.dst⟩ 1 off s with
  | .ok (s1, l) => putSome s1 0 l out
  | .error _ => s

/-- The domain's step count advances, and a cut that watches the step begins (R271, R315). -/
def State.advance (s : State) (d : Nat) (x : Domain) : State :=
  ({ s with domains := sins d { x with steps := x.steps + 1 } (serase d s.domains) }).stepDone d (x.steps + 1)

/-- The command performs with the other members' contributions. -/
def collRun (c : ECmd) (x : CollPack) (d : Domain) (members : List Contribution) (s : State) : State :=
  let w := cmdWho c c.user
  match movePieces w ⟨none, x.src⟩ 0 x.bytes s with
  | .error e => engStop c s (fun _ => s) e
  | .ok (s1, a) =>
    let r := readPieces s1 a
    let all := collResult x (withOwn s members (ownElems x r.2.1 (badBytes s1 a)))
    let out := collBytes x.ty all
    let s0 := r.1.engineReads c.team none a
    match movePieces w ⟨none, x.dst⟩ 1 out.1.length s0 with
    | .error e => engStop c s (fun off => collPart w x out off s0) e
    | .ok (s2, b) =>
      ((putPoisoned s2 b out.1 out.2).endCommand c (if all.bad.isEmpty then stDone else stFailed)).advance x.domain d

/-- COLLECTIVE_STEP_COMPLETE (R315): the step is the domain's next, and every other member has sent its elements. -/
def execCollectiveStepComplete (cmd : Nat) (members : List Contribution) (s : State) : Result :=
  match s.ecmds.find? fun c => c.id == cmd && c.kind == 4 with
  | none => .next s
  | some c =>
    let x := collPack c.pack
    match lookupKey x.domain s.domains with
    | none => .next s
    | some d =>
      if c.frozen || c.pageReq.isSome || s.collStale c || s.atomsBefore c.team c.gidx c.id
          || members.length + 1 != d.members.length || members.any fun m => m.elems.length != x.count then .next s
      else .next (s.unlessHeld (((collRun c x d members (s.asServed c.core c.ctx)).withKey s.cur.key).serveAts))

end Sys2Proof.Machine
end

