-- ==== Sys2Proof/Machine/LaneCtl.lean ====
section
/-! DEFINITION. Lane control words and the reconvergence stack (R375 to R377). -/

namespace Sys2Proof.Machine

/-- The stack holds at most 32 entries (R375); its top is the list's head. -/
def stackMax : Nat := 32

/-- A control word: the decode checks, then its effect on the group, or the precise RESERVED_FIELD of R376. -/
def ctlWord (reads writes : List Nat) (f : Group → LaneWord → Option Group) (s : State) : Result :=
  laneIssue { Uses.empty with rm := reads.flatMap maskRegs, wm := writes } 0 false []
    (fun e fin =>
      match f s.g s.cur.lane with
      | some g => .next (fin (s.setG g))
      | none => s.trapLane .reservedField none e.act 0) s

/-- Push an entry with a new region number, where there is room. -/
def Group.pushEntry (g : Group) (x : REntry) : Option Group :=
  if g.rstack.length < stackMax then some { g with rstack := { x with id := g.nextRegion } :: g.rstack, nextRegion := g.nextRegion + 1 } else none

/-- The mask that a control word reads: m0 is EM (R328). -/
def Group.ctlMask (g : Group) (m : Nat) : Word := if m = 0 then g.em else g.mreg m

/-- IF (R377). -/
def execIfWord (w : L3) (s : State) : Result :=
  let m := bitsOf w.aux 0 4
  ctlWord [m] [] (fun g _ =>
    (g.pushEntry ⟨.ifK, g.em, g.em &&& ~~~(g.ctlMask m), g.fmt, 0, g.blockId, 0, 0⟩).map fun h => { h with em := g.em &&& g.ctlMask m }) s

/-- ELSE (R377). -/
def execElseWord (_w : L3) (s : State) : Result :=
  ctlWord [] [] (fun g _ =>
    match g.rstack with
    | x :: r => if x.kind = .ifK then some { g with rstack := { x with kind := .elseK } :: r, em := x.alt, fmt := x.sfmt } else none
    | [] => none) s

/-- ENDIF (R377). -/
def execEndifWord (_w : L3) (s : State) : Result :=
  ctlWord [] [] (fun g _ =>
    match g.rstack with
    | x :: r => if x.kind = .loopK then none else some { g with rstack := r, em := x.outer, fmt := x.sfmt }
    | [] => none) s

/-- LOOPANY (R377). -/
def execLoopany (_w : L3) (s : State) : Result :=
  ctlWord [] [] (fun g w => g.pushEntry ⟨.loopK, g.em, 0, g.fmt, w.lpc + 12, g.blockId, 0, g.em⟩) s

/-- Take lanes out of every entry above the innermost LOOP; none where there is no LOOP. -/
def dropLanes (b : Word) : List REntry → Option (List REntry)
  | [] => none
  | x :: r =>
    if x.kind = .loopK then some (x :: r)
    else (dropLanes b r).map fun l => { x with outer := x.outer &&& ~~~b, alt := x.alt &&& ~~~b } :: l

/-- BREAKIF (R377). -/
def execBreakif (w : L3) (s : State) : Result :=
  let m := bitsOf w.aux 0 4
  ctlWord [m] [] (fun g _ =>
    let b := g.em &&& g.ctlMask m
    (dropLanes b g.rstack).map fun l => { g with rstack := l, em := g.em &&& ~~~b }) s

/-- The word has issued and branches back to the loop's body: the window counts it, the block is not freed (R20, R63), and an
iteration begins in the lanes left (R159). -/
def State.loopBack (s : State) (body : Word) : State :=
  s.modG fun g =>
    let h := if s.cur.lane.counted then g else g.count_ Uses.empty
    { h.issue s.now with
      lpc := body
      abandoned := if s.cur.src = .again then h.abandoned.drop 1 else h.abandoned
      rstack := match h.rstack with | x :: r => { x with alive := h.em } :: r | [] => []
      lWait := none }

/-- ENDLOOP (R377): the LOOP must be of the same lane block (R21). -/
def execEndloop (_w : L3) (s : State) : Result :=
  laneIssue Uses.empty 0 false []
    (fun e fin =>
      match s.g.rstack with
      | x :: r =>
        if x.kind = .loopK ∧ x.blk = s.g.blockId then
          if s.g.em = 0 then .next (fin (s.modG fun g => { g with rstack := r, em := x.outer, fmt := x.sfmt }))
          else .next (s.loopBack x.body)
        else s.trapLane .reservedField none e.act 0
      | [] => s.trapLane .reservedField none e.act 0) s

/-- EXMR (R377): every bit below the width. -/
def execExmr (w : L3) (s : State) : Result :=
  ctlWord [] [bitsOf w.vd 0 4] (fun g _ => some (g.setM (bitsOf w.vd 0 4) g.em)) s

/-- EXMW (R377): limited by the enclosing entry, or by the width. -/
def execExmw (w : L3) (s : State) : Result :=
  let m := bitsOf w.aux 0 4
  ctlWord [m] [] (fun g _ =>
    some { g with em := g.ctlMask m &&& (match g.rstack with | x :: _ => x.outer | [] => widthMask g.width) }) s

end Sys2Proof.Machine
end

