-- ==== Sys2Proof/Machine/LaneExch.lean ====
section
/-! DEFINITION. Exchanges between lanes, votes, the return slot and mask operations (R351 to R359). -/

namespace Sys2Proof.Machine

/-- An exchange with a bound on its lane number (R351), over the raw elements of its sources. -/
def exchWord (w : L3) (srcs : List (VReg × Bool)) (bound : Nat) (f : Env → LaneDo) (s : State) : Result :=
  runLane (L3uses w w.ty.is64 srcs []) w.mreg.toNat (decide (s.g.width ≤ bound)) (L3consumer w w.ty.is64) (srcs.map Prod.fst) f s

/-- Results copied bit for bit in the active lanes. -/
def copyLanes (e : Env) (f : Nat → Word) : LaneDo := .elems (e.actives.map fun i => (Elem.plain i (f i), 0))

/-- A word whose fields numbered `across` give a lane the elements of other lanes: each active lane reads of field and lane `reach`. A
lane that reads an element with an error halts the group (R245, Table 10-1). -/
def acrossWord (w : L3) (srcs : List (VReg × Bool)) (bound : Nat) (across : List Nat) (reach : Env → Nat → Nat × Nat) (f : Env → LaneDo)
    (s : State) : Result :=
  let fields := srcs.map Prod.fst
  let own := (srcs.zipIdx.filter fun p => !across.contains p.2).flatMap fun p => srcRegs p.1.2 p.1.1
  runLane { L3uses w w.ty.is64 srcs [] with far := across.flatMap (farOf fields w.ty.is64 own) } w.mreg.toNat (decide (s.g.width ≤ bound))
    (L3consumer w w.ty.is64) fields
    (fun e =>
      let hurt := e.actives.filter fun i => s.elemBad fields (reach e i).1 w.ty.is64 (reach e i).2
      if hurt.isEmpty then f e else .hurt (maskOf hurt)) s

/-- The field and the lane that lane `i` of a butterfly takes its element from at a distance, in a mode (R352). -/
def flyReach (d mode i : Nat) : Nat × Nat :=
  if mode = 0 then (0, i ^^^ d) else if (mode == 1) == (i &&& d == 0) then (0, i) else (1, i ^^^ d)

/-- That element. -/
def flyValue (e : Env) (pair : Bool) (va vb : VReg) (d mode i : Nat) : Word :=
  let r := flyReach d mode i
  e.src r.1 (if r.1 = 0 then va else vb) pair r.2

/-- XBFLY (R352). -/
def execXbfly (w : L3) (s : State) : Result :=
  let d := bitsOf w.aux 0 6
  let mode := bitsOf w.aux 6 2
  acrossWord w (if mode = 0 then [(w.va, w.ty.is64)] else [(w.va, w.ty.is64), (w.vb, w.ty.is64)]) d
    (if mode = 0 then [0] else [0, 1]) (fun _ => flyReach d mode) (fun e => copyLanes e (flyValue e w.ty.is64 w.va w.vb d mode)) s

/-- XPERM (R353): a lane number at or above the width traps at execution; such a lane reads no element. -/
def execXperm (w : L3) (s : State) : Result :=
  let idx (e : Env) (i : Nat) : Nat := (e.src 1 w.vb false i).toNat
  acrossWord w [(w.va, w.ty.is64), (w.vb, false)] 0 [0] (fun e i => (0, if idx e i < e.g.width then idx e i else 64))
    (fun e =>
      let bad := e.actives.filter fun i => e.g.width ≤ idx e i
      if bad.isEmpty then copyLanes e fun i => e.src 0 w.va w.ty.is64 (idx e i) else .trap .reservedField (maskOf bad) 0) s

/-- XBCAST (R353). -/
def execXbcast (w : L3) (s : State) : Result :=
  acrossWord w [(w.va, w.ty.is64)] (bitsOf w.aux 0 6) [0] (fun _ _ => (0, bitsOf w.aux 0 6))
    (fun e => copyLanes e fun _ => e.src 0 w.va w.ty.is64 (bitsOf w.aux 0 6)) s

/-! ### Prefix operations (R354 to R356) -/

/-- The identity of an operation, as bits of the type (Table 12-11). -/
def scanIdent (op : Nat) (t : EType) : Nat :=
  if t = .f32 then (if op = 0 then 0x80000000 else if op = 1 then 0x7F800000 else 0xFF800000)
  else if op = 1 then (placeI t (intMax t)).toNat % 2 ^ t.bits
  else if op = 2 then (placeI t (intMin t)).toNat % 2 ^ t.bits
  else if op = 3 then 2 ^ t.bits - 1
  else 0

/-- An integer combination on bits of the type. -/
def combInt (op : Nat) (t : EType) (a b : Nat) : Nat :=
  match op with
  | 0 => (a + b) % 2 ^ t.bits
  | 1 => if intOf t a ≤ intOf t b then a else b
  | 2 => if intOf t a ≤ intOf t b then b else a
  | 3 => a &&& b
  | 4 => a ||| b
  | _ => a ^^^ b

/-- A floating combination at a node: rounded, with subnormals kept or flushed, never assisted (R355). -/
def combFloat (op : Nat) (ftz : Bool) (a b : Nat) : Nat × Flags :=
  let r := if op = 0 then fAdd (decodeF .f32 a) (decodeF .f32 b) else fMinMax (op == 2) (decodeF .f32 a) (decodeF .f32 b)
  let f := finish .f32 { Fin.rne with ftz := ftz } r.1
  (f.bits, r.2 ||| f.flags)

def comb (op : Nat) (t : EType) (ftz : Bool) (a b : Nat) : Nat × Flags :=
  if t = .f32 then combFloat op ftz a b else (combInt op t a b, 0)

/-- A node of the scan: its bits, whether it lies at or after a segment start, and flags so far. -/
abbrev ScanNode := Nat × Bool × Flags

/-- One step of the scan at a distance. -/
def scanStep (op : Nat) (t : EType) (ftz : Bool) (p : List ScanNode) (dist : Nat) : List ScanNode :=
  p.zipIdx.map fun (q : ScanNode × Nat) =>
    if q.2 < dist || q.1.2.1 then q.1
    else
      let x := p.getD (q.2 - dist) (0, false, 0)
      let r := comb op t ftz x.1 q.1.1
      (r.1, x.2.1, q.1.2.2 ||| r.2)

/-- The bits of a scan source: a subnormal reads as a zero under FTZ (R355). -/
def scanRead (e : Env) (w : L3) (i : Nat) : Nat :=
  let b := e.rdB w.ty 0 w.va i
  if w.ty = .f32 ∧ e.ftz ∧ b / 2 ^ 23 % 2 ^ 8 = 0 then b / 2 ^ 31 * 2 ^ 31 else b

/-- The prefix of R354 with the given segment starts, and the flags of all its nodes. -/
def scanOf (e : Env) (w : L3) (op : Nat) (start : Nat → Bool) : List Nat × Flags :=
  let p0 : List ScanNode := e.lanes.map fun i =>
    (if e.act.getLsbD i then scanRead e w i else scanIdent op w.ty, start i, 0)
  let p := (distances e.g.width).foldl (scanStep op w.ty e.ftz) p0
  (p.map Prod.fst, Flags.join (p.map fun (q : ScanNode) => q.2.2))

/-- Segment starts (R354): m0 reads EM. -/
def segStart (e : Env) (w : L3) (i : Nat) : Bool := i == 0 || (w.aux.getLsbD 4 && (e.maskSrc (bitsOf w.aux 8 4)).getLsbD i)

/-- XSCAN (R354). -/
def execXscan (w : L3) (s : State) : Result :=
  let op := bitsOf w.aux 0 3
  runLane (L3uses w w.ty.is64 [(w.va, w.ty.is64)] (if w.aux.getLsbD 4 then [bitsOf w.aux 8 4] else [])) w.mreg.toNat false
    (L3consumer w w.ty.is64) [w.va]
    (fun e =>
      let r := scanOf e w op (segStart e w)
      .out (e.actives.map fun i =>
          Elem.plain i (placeI w.ty (intOf w.ty
            (if !w.aux.getLsbD 3 then r.1.getD i 0
             else if segStart e w i then scanIdent op w.ty
             else r.1.getD (i - 1) 0)))) [] [] r.2 id) s

/-- XRED (R356): the last lane's prefix in every active lane. -/
def execXred (w : L3) (s : State) : Result :=
  exchWord w [(w.va, w.ty.is64)] 0
    (fun e =>
      let r := scanOf e w (bitsOf w.aux 0 3) (· == 0)
      .out (e.actives.map fun i => Elem.plain i (placeI w.ty (intOf w.ty (r.1.getD (e.g.width - 1) 0)))) [] [] r.2 id) s

/-! ### Votes, the return slot, masks -/

/-- VOTE (R357). -/
def execVote (w : L3) (s : State) : Result :=
  laneMask w false [w.va]
    (fun e =>
      let p (i : Nat) : Bool := (e.src 0 w.va false i).toNat % 2 ^ 32 != 0
      let any := e.actives.any p
      let all := e.actives.all p
      e.actives.map fun i => (i, if w.aux = 0 then any else if w.aux = 1 then all else p i, 0)) s

/-- What LRET pushes (R358). -/
def lretValue (w : L3) (e : Env) : Word :=
  if w.aux.getLsbD 0 then e.maskSrc w.va.toNat
  else
    match e.actives with
    | i :: _ => e.src 0 w.va w.ty.is64 i
    | [] => 0

/-- LRET (R358): a full slot stalls the lane stream (R22). -/
def execLret (w : L3) (s : State) : Result :=
  let form := w.aux.getLsbD 0
  let u := L3uses w false (if form then [] else [(w.va, w.ty.is64)]) (if form then [w.va.toNat] else [])
  if (s.laneChecks u false false).isNone && 4 ≤ s.g.ret.length then .next (s.laneStall .ret)
  else
    runLane u w.mreg.toNat false (L3consumer w false) (if form then [] else [w.va])
      (fun e => .out [] [] [] 0 fun g => { g with ret := g.ret ++ [lretValue w e] }) s

/-- A mask operation, not predicated: every bit below the width (R359). -/
def maskWord (w : L3) (srcs : List Nat) (f : Env → Word) (s : State) : Result :=
  runLane (maskUses w [] srcs) w.mreg.toNat false (L3consumer w false) []
    (fun e => .out [] [] [(w.vd.toNat, f e)] 0 id) s

/-- MAND (R359). -/
def execMand (w : L3) (s : State) : Result :=
  maskWord w [w.va.toNat, w.vb.toNat] (fun e => e.maskSrc w.va.toNat &&& e.maskSrc w.vb.toNat) s
/-- MOR (R359). -/
def execMor (w : L3) (s : State) : Result :=
  maskWord w [w.va.toNat, w.vb.toNat] (fun e => e.maskSrc w.va.toNat ||| e.maskSrc w.vb.toNat) s
/-- MNOT (R359). -/
def execMnot (w : L3) (s : State) : Result := maskWord w [w.va.toNat] (fun e => ~~~(e.maskSrc w.va.toNat)) s

/-- MPOP (R359). -/
def execMpop (w : L3) (s : State) : Result :=
  runLane (L3uses w false [] [w.va.toNat]) w.mreg.toNat false (L3consumer w false) []
    (fun e => copyLanes e fun _ => wd (popCount 64 (e.maskSrc w.va.toNat).toNat)) s

end Sys2Proof.Machine
end

