-- ==== Sys2Proof/Machine/LaneFloat.lean ====
section
/-! DEFINITION. Floating-point lane arithmetic (R331 to R336). -/

namespace Sys2Proof.Machine

/-- A floating source of the word's type: field number `f` and its register. -/
def Env.fsrc (e : Env) (w : L3) (f : Nat) (r : VReg) (i : Nat) : FVal := e.rdF w.ty f r (modOf w.mods f) i

/-- An operation in each active lane, rounded by the destination stage (R332). -/
def floatLanes (w : L3) (op : Env → Nat → FVal × Flags) (e : Env) : LaneDo :=
  .elems (e.actives.map fun i => let r := op e i; fElem i (finish w.ty (arithFin w e) r.1) r.2)

/-- A word with two floating sources. -/
def float2 (w : L3) (op : FVal → FVal → FVal × Flags) (s : State) : Result :=
  laneWord w false [w.va, w.vb] [] (floatLanes w fun e i => op (e.fsrc w 0 w.va i) (e.fsrc w 1 w.vb i)) s

/-- FADD (R332). -/
def execFadd (w : L3) (s : State) : Result := float2 w fAdd s
/-- FSUB (R332). -/
def execFsub (w : L3) (s : State) : Result := float2 w fSub s
/-- FMUL (R332). -/
def execFmul (w : L3) (s : State) : Result := float2 w fMul s
/-- FFMA (R332): one rounding. -/
def execFfma (w : L3) (s : State) : Result :=
  laneWord w false [w.va, w.vb, w.vc] []
    (floatLanes w fun e i => fFma (e.fsrc w 0 w.va i) (e.fsrc w 1 w.vb i) (e.fsrc w 2 w.vc i)) s
/-- FMIN (R332, Table 4-8). -/
def execFmin (w : L3) (s : State) : Result := float2 w (fMinMax false) s
/-- FMAX (R332, Table 4-8). -/
def execFmax (w : L3) (s : State) : Result := float2 w (fMinMax true) s

/-- FCMP (R333): a comparison code of Table 12-3 into a mask register. -/
def execFcmp (w : L3) (s : State) : Result :=
  laneMask w false [w.va, w.vb]
    (fun e => e.actives.map fun i =>
      let a := e.fsrc w 0 w.va i
      let b := e.fsrc w 1 w.vb i
      (i, ccHolds w.aux.toNat (fOrder a b), nanFlags [a, b])) s

/-- FSEL (R334): the selected value through the destination stage; a NaN raises no flag. -/
def execFsel (w : L3) (s : State) : Result :=
  laneWord w false [w.va, w.vb] [w.aux.toNat]
    (floatLanes w fun e i =>
      (if (e.maskSrc w.aux.toNat).getLsbD i then e.fsrc w 0 w.va i else e.fsrc w 1 w.vb i, 0)) s

/-- The class bit of a code (Table 12-4). -/
def classBit (t : EType) (v : FVal) : Nat :=
  match v with
  | .inf true => 0
  | .inf false => 7
  | .nan true => 8
  | .nan false => 9
  | .num neg m _ =>
    if m = 0 then (if neg then 3 else 4)
    else if m < 2 ^ (EType.format t).man then (if neg then 2 else 5)
    else if neg then 1 else 6

/-- FCLASS (R335): FTZ does not apply to its source. -/
def execFclass (w : L3) (s : State) : Result :=
  laneWord w false [w.va] []
    (fun e => .elems (e.actives.map fun i =>
      (Elem.plain i (wd (2 ^ classBit w.ty (modF (modOf w.mods 0) (decodeF w.ty (e.rdB w.ty 0 w.va i))))), 0))) s

/-- Rounding to an integral value, then the clamp (R336). -/
def floatIntegral (w : L3) (mode : Rnd) (s : State) : Result :=
  laneWord w false [w.va] []
    (fun e => .elems (e.actives.map fun i =>
      let a := e.fsrc w 0 w.va i
      fElem i (finish w.ty { arithFin w e with dscale := 0 } (integral mode a w.dscale.toInt)) (nanFlags [a]))) s

/-- FTRUNC (R336). -/
def execFtrunc (w : L3) (s : State) : Result := floatIntegral w .rtz s

/-- FROUND (R336): to nearest, down, or up. -/
def execFround (w : L3) (s : State) : Result :=
  floatIntegral w (if w.aux = 0 then .rne else if w.aux = 1 then .rdn else .rup) s

end Sys2Proof.Machine
end

