-- ==== Sys2Proof/Machine/LaneInt.lean ====
section
/-! DEFINITION. Integer and bit lane operations (R337 to R343). -/

namespace Sys2Proof.Machine

/-- An integer source of the word's type. -/
def Env.isrc (e : Env) (w : L3) (f : Nat) (r : VReg) (i : Nat) : Int := e.rdI w.ty f r (modOf w.mods f) i

/-- Results without flags in the active lanes. -/
def plainLanes (e : Env) (f : Nat → Word) : LaneDo := .elems (e.actives.map fun i => (Elem.plain i (f i), 0))

/-- An exact integer result: saturated under clamp 0b11, else wrapped (R338, R58). -/
def intResult (w : L3) (x : Int) : Word := placeI w.ty (if w.clamp = 3 then saturate w.ty x else x)

/-- An integer word with two sources. -/
def int2 (w : L3) (op : Int → Int → Int) (s : State) : Result :=
  laneWord w w.ty.is64 [w.va, w.vb] []
    (fun e => plainLanes e fun i => intResult w (op (e.isrc w 0 w.va i) (e.isrc w 1 w.vb i))) s

/-- IADD (R338). -/
def execIadd (w : L3) (s : State) : Result := int2 w (· + ·) s
/-- ISUB (R338). -/
def execIsub (w : L3) (s : State) : Result := int2 w (· - ·) s
/-- IMUL (R338). -/
def execImul (w : L3) (s : State) : Result := int2 w (· * ·) s
/-- IMULH (R338): floor of the product over 2^n. -/
def execImulh (w : L3) (s : State) : Result := int2 w (fun a b => (a * b) / (2 ^ w.ty.bits : Nat)) s
/-- IMAD (R338): one saturation of the exact value. -/
def execImad (w : L3) (s : State) : Result :=
  laneWord w w.ty.is64 [w.va, w.vb, w.vc] []
    (fun e => plainLanes e fun i =>
      intResult w (e.isrc w 0 w.va i * e.isrc w 1 w.vb i + e.isrc w 2 w.vc i)) s
/-- IMIN (R338). -/
def execImin (w : L3) (s : State) : Result := int2 w (fun a b => if a ≤ b then a else b) s
/-- IMAX (R338). -/
def execImax (w : L3) (s : State) : Result := int2 w (fun a b => if a ≤ b then b else a) s

/-- A bitwise word with two sources (R339). -/
def bits2 (w : L3) (op : Word → Word → Word) (s : State) : Result :=
  laneWord w w.ty.is64 [w.va, w.vb] []
    (fun e => plainLanes e fun i => op (wd (e.rdB w.ty 0 w.va i)) (wd (e.rdB w.ty 1 w.vb i))) s

/-- LANE_AND (R339). -/
def execLaneAnd (w : L3) (s : State) : Result := bits2 w (· &&& ·) s
/-- LANE_OR (R339). -/
def execLaneOr (w : L3) (s : State) : Result := bits2 w (· ||| ·) s
/-- LANE_XOR (R339). -/
def execLaneXor (w : L3) (s : State) : Result := bits2 w (· ^^^ ·) s

/-- A shift (R339): vb names one register, whose low bits are the amount. -/
def laneShift (w : L3) (op : Nat → Nat → Word) (s : State) : Result :=
  runLane (L3uses w w.ty.is64 [(w.va, w.ty.is64), (w.vb, false)] []) w.mreg.toNat false (L3consumer w w.ty.is64) [w.va, w.vb]
    (fun e => plainLanes e fun i => op (e.rdB w.ty 0 w.va i) ((e.src 1 w.vb false i).toNat % w.ty.bits)) s

/-- LANE_SHL (R339). -/
def execLaneShl (w : L3) (s : State) : Result := laneShift w (fun a n => wd (a * 2 ^ n % 2 ^ w.ty.bits)) s
/-- LANE_SHR (R339). -/
def execLaneShr (w : L3) (s : State) : Result := laneShift w (fun a n => wd (a / 2 ^ n)) s
/-- LANE_SAR (R339). -/
def execLaneSar (w : L3) (s : State) : Result := laneShift w (fun a n => placeI w.ty (intOf w.ty a / (2 ^ n : Nat))) s

/-- Position and length of a bit field (R340). -/
def fieldPos (w : L3) : Nat := bitsOf w.aux 0 6
def fieldLen (w : L3) : Nat := bitsOf w.aux 6 6 + 1

/-- BFX (R340). -/
def execBfx (w : L3) (s : State) : Result :=
  laneWord w w.ty.is64 [w.va] []
    (fun e => plainLanes e fun i =>
      let x := e.rdB w.ty 0 w.va i / 2 ^ fieldPos w % 2 ^ fieldLen w
      placeI w.ty (if w.ty.isSigned && 2 ^ (fieldLen w - 1) ≤ x then (x : Int) - (2 ^ fieldLen w : Nat) else x)) s

/-- BFI (R340). -/
def execBfi (w : L3) (s : State) : Result :=
  laneWord w w.ty.is64 [w.va, w.vb] []
    (fun e => plainLanes e fun i =>
      let m := wd ((2 ^ fieldLen w - 1) * 2 ^ fieldPos w)
      (wd (e.rdB w.ty 1 w.vb i) &&& ~~~m) ||| (wd (e.rdB w.ty 0 w.va i) <<< fieldPos w &&& m)) s

/-- A count of a source's bits into one register (R341). -/
def laneCount (w : L3) (f : Nat → Nat) (s : State) : Result :=
  runLane (L3uses w false [(w.va, w.ty.is64)] []) w.mreg.toNat false (L3consumer w false) [w.va]
    (fun e => plainLanes e fun i => wd (f (e.rdB w.ty 0 w.va i))) s

/-- LANE_POPC (R341). -/
def execLanePopc (w : L3) (s : State) : Result := laneCount w (popCount w.ty.bits) s
/-- LANE_CLZ (R341): zero gives n. -/
def execLaneClz (w : L3) (s : State) : Result := laneCount w (leadZeros w.ty.bits) s

/-- The `n` low bits in reverse order. -/
def revBits : Nat → Nat → Nat
  | 0, _ => 0
  | n + 1, a => (a % 2) * 2 ^ n + revBits n (a / 2)

/-- BREV (R341). -/
def execBrev (w : L3) (s : State) : Result :=
  laneWord w w.ty.is64 [w.va] [] (fun e => plainLanes e fun i => wd (revBits w.ty.bits (e.rdB w.ty 0 w.va i))) s

/-- ICMP (R342). -/
def execIcmp (w : L3) (s : State) : Result :=
  laneMask w w.ty.is64 [w.va, w.vb]
    (fun e => e.actives.map fun i =>
      let a := e.isrc w 0 w.va i
      let b := e.isrc w 1 w.vb i
      (i, ccHolds w.aux.toNat (some (if a < b then -1 else if a = b then 0 else 1)), 0)) s

/-- ISEL (R342). -/
def execIsel (w : L3) (s : State) : Result :=
  laneWord w w.ty.is64 [w.va, w.vb] [w.aux.toNat]
    (fun e => plainLanes e fun i =>
      wd (if (e.maskSrc w.aux.toNat).getLsbD i then e.rdB w.ty 0 w.va i else e.rdB w.ty 1 w.vb i)) s

/-- MOV (R343). -/
def execMov (w : L3) (s : State) : Result :=
  laneWord w w.ty.is64 [w.va] [] (fun e => plainLanes e fun i => wd (e.rdB w.ty 0 w.va i)) s

/-- The value of MOVI's 22-bit immediate (R343). -/
def moviValue (w : L3) : Word :=
  let imm := w.vc ++ w.aux
  match w.ty with
  | .s32 => ((imm.signExtend 32).setWidth 64)
  | .f32 => ((imm.setWidth 32) <<< 10).setWidth 64
  | _ => imm.setWidth 64

/-- MOVI (R343). -/
def execMovi (w : L3) (s : State) : Result :=
  laneWord w false [] [] (fun e => plainLanes e fun _ => moviValue w) s

end Sys2Proof.Machine
end

