-- ==== Sys2Proof/Machine/Recovery.lean ====
section
/-! DEFINITION. Scrubbing and the corrected-error log (R265 to R268), migration (R269, R270), frames and their formats (R228). -/

namespace Sys2Proof.Machine

/-! ### Scrubbing -/

/-- The scrubber recomputes the tags of encrypted units, each under the key pair that it was last encrypted with (R230, R265). -/
def State.scrubTags (s : State) (a n : Nat) : State :=
  if !s.encOn then s
  else
    ((unitsOf [(a, n)]).filter fun u => match lookupKey u s.cipher with | some ⟨some k, _⟩ => s.tagWrong k u | _ => false).foldl
      (fun (t : State) u => t.logAt (u * 128) 3 true) s

/-- SCRUB_PASS (R265): one granule of a formatted frame. A granule that the scrubber corrects is written back; one whose row is
locked waits. -/
def execScrubPass (stack frame granule : Nat) (s : State) : Result :=
  match lookupKey frame s.frames with
  | none => .next s
  | some g =>
    let n := granuleSize g
    let a := frame * 65536 + granule * n
    if !isDram a || stackOf a != stack || 65536 ≤ granule * n || s.rowHeld a n 32 0 then .next s
    else
      .next (((s.marksIn a n).foldl (fun (t : State) p =>
        let t1 := (t.meetMark true p).1
        if p.2.kind = .correctable then { t1 with marks := serase p.1 t1.marks } else t1) s).scrubTags a n)

/-- BLOOM_FILTER_CLEAR (R268). -/
def execBloomFilterClear (stack : Nat) (s : State) : Result :=
  let k := s.stackAt stack
  if stack < 32 && k.bloomSince + s.filterPeriod ≤ s.time then
    .next (s.setStack stack { k with bloom := [], epoch := k.epoch + 1, bloomSince := s.time })
  else .next s

/-! ### Frames (R228, R277) -/

/-- A frame lies in the tag carve-out of its stack, the top 4 GiB, while memory encryption is enabled (R230, R424). -/
def State.inCarveOut (s : State) (frame : Nat) : Bool :=
  s.encOn && decide (60 * 2 ^ 30 ≤ (frame * 65536 - dramFirst) % Config.stackBytes)

/-- A frame that can be formatted: of module DRAM, in a present stack, on present pseudo-channels, outside the tag carve-out. -/
def State.formattable (s : State) (frame : Nat) : Bool :=
  let k := stackOf (frame * 65536)
  isDram (frame * 65536) && s.cap.hbmStacks.getLsbD k && !s.inCarveOut frame
    && (Config.frameChannels frame &&& ~~~(s.cap.pcs.extractLsb' (128 * k) 128)) == 0

/-- Format and zero a frame; one that a cut marked SNAP is copied first (R274). -/
def State.formatFrame (s : State) (g : Granule) (frame : Nat) : State :=
  { s with
    mem := s.mem.filter fun c => frameOf c.1 != frame
    eqx := { s.copyFrame s.eqx frame with queued := s.eqx.queued.map fun w => { w with cells := w.cells.filter fun c => frameOf c.1 != frame } }
    cipher := s.cipher.filter fun p => p.1 / 512 != frame
    tags := s.tags.filter fun p => p.1 / 512 != frame
    marks := s.marks.filter fun p => !(p.1 < 2 ^ 52 && frameOf p.1 == frame)
    frames := sins frame g (serase frame s.frames) }

def State.formatFrames (s : State) (g : Granule) (first n : Nat) : State :=
  (List.range n).foldl (fun (t : State) i => t.formatFrame g (first + i)) s

/-! ### Migration (R269, R270) -/

/-- Frames of the page that a leaf maps. -/
def leafFrames (level : Nat) (e : Word) : Nat × Nat :=
  let n := 2 ^ (pageBits level e - 16)
  (pteFrame e / n * n, n)

/-- The stacks queue a write to some frames. -/
def State.queuedIn (s : State) (first n : Nat) : Bool :=
  s.eqx.queued.any fun w => w.cells.any fun c => first ≤ frameOf c.1 && frameOf c.1 < first + n

/-- A run of `n` pool frames of a format, aligned to its size. -/
def State.poolRun (s : State) (ctx n : Nat) (g : Granule) : Option Nat :=
  let l := ((s.ctxAt ctx).pool.filter fun p => p.2 == g).map Prod.fst
  let starts := l.filter fun f => f % n == 0 && (List.range n).all fun i => l.contains (f + i)
  starts[Config.freeChoice s.tick 8 % starts.length]?

/-- Marks of a range of frames, and the units of it whose tag does not match for the agent that acts. -/
def State.frameMarks (s : State) (first n : Nat) : List (Nat × Mark) :=
  s.marksIn (first * 65536) (n * 65536)
    ++ if s.encOn && s.cur.key.isSome then
        ((unitsOf [(first * 65536, n * 65536)]).filter fun u => s.tagBad (128 * u)).map fun u => (128 * u, Mark.of .tagMismatch)
      else []

/-- Every mark of the source is met: errors are logged, a new uncorrectable granule is marked poisoned. -/
def State.meetAll (s : State) (l : List (Nat × Mark)) : State := l.foldl (fun (t : State) p => (t.meetMark false p).1) s

/-- An aborted migration (R270): the source stays mapped; a record with code 6 and an event are logged. Where no frame of module
DRAM is named, the record's stack and row are free. -/
def State.migrationAbort (s : State) (ctx : Nat) (va : Word) (first : Nat) : State :=
  let a := if isDram (first * 65536) then first * 65536 else dramFirst + Config.freeChoice s.tick 12 % 2 ^ 41
  (s.logAt a 6 false).event (.migration ctx va)

/-- The bytes of the source frames, put at the destination's. -/
def moveBytes (src dst n : Nat) (l : List Host.Cell) : List Host.Cell :=
  let moved := (l.filter fun p => src ≤ frameOf p.1 && frameOf p.1 < src + n).map fun p => (p.1 + dst * 65536 - src * 65536, p.2)
  moved.foldl (fun m p => sset 0 p.1 p.2 m) (l.filter fun p => !(dst ≤ frameOf p.1 && frameOf p.1 < dst + n))

/-- The bytes of some frames as the agent that acts sees them, those that are not 0. -/
def State.seenCells (s : State) (first n : Nat) : List Host.Cell :=
  ((addrs (first * 65536) (n * 65536)).map fun a => (a, s.seen a)).filter fun c => c.2 != 0

/-- The units of some frames that memory lists bytes of, as the agent that acts has written them anew, with their tags (R269). -/
def State.keyFrames (s : State) (first n : Nat) : State :=
  let s0 := { s with
    cipher := s.cipher.filter fun p => !(first ≤ p.1 / 512 && p.1 / 512 < first + n)
    tags := s.tags.filter fun p => !(first ≤ p.1 / 512 && p.1 / 512 < first + n) }
  if s.plain then s0
  else
    let us := ((s.mem.filter fun c => first ≤ frameOf c.1 && frameOf c.1 < first + n).map fun c => c.1 / 128).eraseDups
    us.foldl (fun (t : State) u =>
      match s.cur.key with
      | some k => (t.putUnit u ⟨some k, none⟩).putTag k u (encipher k u (s.listed u))
      | none => t.putUnit u ⟨none, none⟩) s0

/-- Copy the bytes of the source frames as the agent that acts sees them, encrypting them again for their new addresses; a destination
granule that receives poisoned bytes is poisoned as a whole. A destination that a cut marked SNAP is copied first (R274). -/
def State.copyFrames (s : State) (src dst n : Nat) (bad : List (Nat × Mark)) : State :=
  let mem := if s.plain then moveBytes src dst n s.mem
    else (s.seenCells src n).foldl (fun m c => sset 0 (c.1 + dst * 65536 - src * 65536) c.2 m)
      (s.mem.filter fun c => !(dst ≤ frameOf c.1 && frameOf c.1 < dst + n))
  let s1 := { s with
    mem := mem
    eqx := (List.range n).foldl (fun (q : Equinox) i => s.copyFrame q (dst + i)) s.eqx
    marks := s.marks.filter fun p => !(dst ≤ frameOf p.1 && frameOf p.1 < dst + n) }
  bad.foldl (fun (t : State) p => t.poisonRange (p.1 + dst * 65536 - src * 65536) (s.markSize p)) (s1.keyFrames dst n)

/-- Rewrite a leaf, or the thirty-two leaves of a 2 MiB page, with the new frame and granule (R217, R269). -/
def State.writeLeaf (s : State) (level : Nat) (e : Word) (ea frame : Nat) (g : Granule) : State :=
  let e1 := putBits (putBits e 16 36 frame) 8 2 (granuleCode g)
  if level = 0 && pteSz e == 1 then
    s.storeAll ((List.range 32).map fun i => (ea / 256 * 256 + 8 * i, toBytes 8 e1.toNat))
  else s.store ea (toBytes 8 e1.toNat) false

/-- The move itself, once a run of pool frames has been chosen. -/
def State.migrateTo (s : State) (ctx : Nat) (va : Word) (level : Nat) (e : Word) (ea dst : Nat) (g : Granule) : State × Bool :=
  let src := leafFrames level e
  let s0 := if e.getLsbD 10 then s.withKey (s.ctxAt ctx).key else s.withKey none
  let marks := s0.frameMarks src.1 src.2
  let s1 := s0.meetAll marks
  if marks.any fun p => p.2.kind == .uncorrectable then ((s1.migrationAbort ctx va src.1).withKey s.cur.key, false)
  else
    let bad := marks.filter fun p => p.2.kind != .correctable
    let c := s1.ctxAt ctx
    let s2 := s1.setCtx ctx { c with pool := c.pool.filter fun p => !(dst ≤ p.1 && p.1 < dst + src.2) }
    let s3 := ((s2.copyFrames src.1 dst src.2 bad).withKey none).writeLeaf level e ea dst g
    ((s3.withKey s.cur.key).dropTlb ctx (some va.toNat), true)

/-- What a migration command comes to: it waits, is refused with a RESULT, or answers. -/
inductive Migrated where
  | later
  | refused (s : State) (result : Nat)
  | done (s : State)
  deriving DecidableEq, Repr

/-- Migrate a page (R269) as one event: it waits while a row of the source is locked, an access through the page is not complete, or
the stacks hold its writes (R273, R274). A fault on the page aborts it (R270). -/
def State.migrate (s : State) (ctx : Nat) (va : Word) (g : Granule) : Migrated :=
  match s.entryOf ctx va.toNat with
  | none => .refused (s.migrationAbort ctx va 0) 1
  | some (l, e, ea) =>
    let src := leafFrames l e
    if !pteV e || !pteLeaf e || s.malformed ctx (s.descNow ctx) e l then .refused (s.migrationAbort ctx va 0) 1
    else if pteLoc e != 0 then .refused s 1
    else if !s.owned ctx src.1 src.2 then .refused (s.migrationAbort ctx va src.1) 1
    else if e.getLsbD 10 && granuleCode g < 2 then .refused s 2
    else if s.eqx.st == .hold || s.queuedIn src.1 src.2 || s.noShadow ea 8 || s.rowHeld (src.1 * 65536) (src.2 * 65536) 32 0
        || s.throughPages ctx [(frameOf va.toNat / src.2 * src.2, src.2)] then .later
    else
      match s.poolRun ctx src.2 g with
      | none => .refused s 1
      | some dst =>
        if s.noShadow (dst * 65536) (src.2 * 65536) then .later
        else
          match s.migrateTo ctx va l e ea dst g with
          | (s1, true) => .done s1
          | (s1, false) => .refused s1 1

end Sys2Proof.Machine
end

