-- ==== Sys2Proof/Machine/Power.lean ====
section
/-! DEFINITION. Clock stretching (R421), sensors (R420), reset and attestation (R276, R419). -/

namespace Sys2Proof.Machine

/-- SUPPLY_SAG_TRIP (R421): the die's clock runs at 8/16. The manual says "a die" and does not say which dies have a detector; here
the eight core dies have one, and a stack's base die has none (log entry 92). -/
def execSupplySagTrip (die : Nat) (s : State) : Result :=
  if 8 ≤ die then .next s
  else .next (s.setDie die { s.dieAt die with clock := 8, sag := true, clockSince := s.dieCycles die })

/-- SUPPLY_SAG_CLEAR (R421): the clock's first step comes 1024 cycles later. -/
def execSupplySagClear (die : Nat) (s : State) : Result :=
  if (s.dieAt die).sag then .next (s.setDie die { s.dieAt die with sag := false, clockSince := s.dieCycles die }) else .next s

/-- CLOCK_STEP_UP (R421): by 1/16, 1024 of the die's cycles after the last change. -/
def execClockStepUp (die : Nat) (s : State) : Result :=
  let d := s.dieAt die
  if !d.sag && d.clock < 16 && d.clockSince + 1024 ≤ s.dieCycles die then
    .next (s.setDie die { d with clock := d.clock + 1, clockSince := s.dieCycles die })
  else .next s

/-- Sensors of the module: the manual gives neither their numbers nor their count. -/
def sensors : Nat := 256

/-- What a sensor measures: a die's clock state, or a free value. -/
def State.measured (s : State) (i : Nat) : Nat :=
  match Config.sensorDie i with
  | some d => Config.clockReading (s.dieAt d).clock
  | none => Config.freeSensor s.tick i

/-- A sensor's reading: that of the last sample. -/
def State.reading (s : State) (i : Nat) : Nat := sget 0 i s.samples

/-- A millisecond in cycles of the reference clock of 2.7 GHz (R7). -/
def millisecond : Nat := 2700000

/-- SENSOR_SAMPLE (R420): a millisecond after the last sample the sensors are sampled; readings that raise an alarm go to the event
queue. -/
def execSensorSample (s : State) : Result :=
  if s.time < s.sampledAt + millisecond then .next s
  else
    let t := { s with
      samples := (List.range sensors).foldl (fun (m : Store Nat) i => sset 0 i (s.measured i) m) []
      sampledAt := s.time }
    .next (((List.range sensors).filter fun i => Config.freeAlarm s.tick i).foldl (fun (u : State) i => u.event (.alarm i (t.reading i))) t)

/-! ### Reset (R419, R420) -/

/-- Units as the capability block reports them: an absent die's stacks are absent (R277). -/
def Capability.settled (c : Capability) : Capability :=
  { c with hbmStacks := (List.range 32).foldl (fun m k => if c.dies.getLsbD (k / 4) then m else m &&& ~~~(BitVec.ofNat 32 (2 ^ k))) c.hbmStacks }

/-- Units that two reports both have. -/
def Capability.meet (a b : Capability) : Capability :=
  ⟨a.dies &&& b.dies, a.hbmStacks &&& b.hbmStacks, a.hubs &&& b.hubs, a.links &&& b.links, a.cxl &&& b.cxl, a.cores &&& b.cores,
   a.vaults &&& b.vaults, a.pcs &&& b.pcs⟩

/-- Memory that a reset of the module leaves as it is: that of CXL ports, of peer modules and of the host. -/
def outlives (a : Nat) : Bool := !isDram a && !(2 ^ 56 ≤ a && a < 2 ^ 60)

/-- An image passes its checks: signed, and not below the monotonic counter (R419). -/
def Firmware.passes (f : Firmware) (i : FwImage) : Bool := i.signed && decide (f.counter ≤ i.version)

/-- So does a configuration record (R420). -/
def Firmware.accepts (f : Firmware) (r : CfgRecord) : Bool := r.signed && decide (f.counter ≤ r.version)

/-- The records in force: each accepted one, and for one that is not the record accepted before it (R420). -/
def Firmware.inForce (f : Firmware) (l : List CfgRecord) : List CfgRecord :=
  l.filterMap fun r => if f.accepts r then some r else f.records.find? fun q => q.id == r.id

/-- The least version of some images. -/
def leastVersion (counter : Nat) (l : List FwImage) : Nat :=
  match l with
  | [] => counter
  | i :: r => r.foldl (fun n j => min n j.version) i.version

/-- The counter after images were accepted: the manual does not say when it rises, so it takes a free value that none of them is
below. -/
def Firmware.raised (f : Firmware) (l : List FwImage) (choice : Nat) : Nat :=
  f.counter + choice % (leastVersion f.counter l - f.counter + 1)

/-- MODULE_RESET (R419, R420): with every image accepted its digest is taken, the accepted records apply, and the dies are released
with the units that the self test finds and the records leave enabled; if an image fails its check, the module stays in reset and
reports the failure. -/
def execModuleReset (selfTest : Capability) (boot : Boot) (s : State) : Result :=
  let s1 : State := { State.reset with
    tick := s.tick
    moves := s.moves
    mem := s.mem.filter fun c => outlives c.1
    marks := s.marks.filter fun p => outlives p.1
    nextKey := s.nextKey
    fw := s.fw }
  if boot.images.all s.fw.passes then
    let l := s.fw.inForce boot.records
    let s2 : State := { s1 with
      fw := ⟨s.fw.raised boot.images (Config.freeChoice s.tick 13), boot.images.map fun i => shake256 i.bytes 32, l⟩
      cap := Capability.settled (l.foldl (fun c r => Capability.meet c r.units) selfTest)
      encOn := l.any fun r => r.encryption }
    .next ((boot.records.filter fun r => !s.fw.accepts r).foldl (fun (t : State) r => t.event (.configIgnored r.id)) s2)
  else .next ({ s1 with inReset := true }.event (.firmware false))

/-- ATTESTATION_REQUEST (R419): the record lists every digest, and the device key signs it with the nonce. -/
def execAttestationRequest (nonce : List Byte) (s : State) : Result :=
  .next (s.send (.attestation s.fw.digests nonce (Config.attestation s.fw.digests nonce)))

end Sys2Proof.Machine
end

