-- ==== Sys2Proof/Machine/Mailbox.lean ====
section
/-! DEFINITION. Commands of the management mailbox (R413, R414, Tables 20-2 and 20-3). A command's event is the controller's turn at
it: it finishes, writing RESULT and clearing OWN, or the controller takes it and it waits, to come to its event again. -/

namespace Sys2Proof.Machine

/-! ### Results (Table 20-2) -/

def mbDone : Nat := 0
def mbRefused : Nat := 1
def mbBadField : Nat := 2
def mbUnknown : Nat := 3

/-- A slot after reset. -/
def MbResult.init : MbResult := ⟨0, 0, 0, 0, false, 0, 0, []⟩

/-- Write a slot. -/
def State.setSlot (s : State) (k : Nat) (r : MbResult) : State := { s with mailbox := sins k r (serase k s.mailbox) }

/-- What the host writes for a command beside OP, CTXID and TAG: ARGS and the operand buffer. The rules lay out neither the operands of a
command that carries them in ARGS nor the lists of 0x0A: there they are free (log entry 114). -/
structure MbOperands where
  args : BitVec 448
  buffer : Option (List Byte)
  deriving DecidableEq, Repr

/-- Operands in ARGS. -/
def State.inArgs (s : State) : MbOperands := ⟨Config.freeArgs s.tick, none⟩

/-- An operand structure in the buffer; ARGS hold its length (R413). -/
def inBuffer (h : MbHdr) (l : List Byte) : MbOperands := ⟨h.rest ++ h.len, some (l.take 1024)⟩

/-- The operand buffer with some bytes written from its start on. -/
def MbResult.over (r : MbResult) (l : Option (List Byte)) : List Byte := match l with | some b => b ++ r.buffer.drop b.length | none => r.buffer

/-- The command as the host writes it into its slot. -/
def MbResult.written (r : MbResult) (h : MbHdr) (op : Nat) (ctx : Option Nat) (o : MbOperands) : MbResult :=
  { r with
    op := BitVec.ofNat 8 op
    ctx := ctx.getD 0 % 64
    tag := h.tag
    args := o.args
    own := true
    buffer := r.over o.buffer }

/-- The slot of a command. -/
def State.slot (s : State) (h : MbHdr) : MbResult := sget MbResult.init (h.slot % 16) s.mailbox

/-- The end of a command: RESULT and VALUE, and what the controller writes into the operand buffer, OWN clear; a refusal sends an event with
TAG. -/
def State.answer (s : State) (h : MbHdr) (op : Nat) (result value : Nat) (buffer : Option (List Byte)) : State :=
  let k := h.slot % 16
  let r := s.slot h
  let s1 := { s with inbox := s.inbox.filter fun q => q.1 != k }.setSlot k
    { r with own := false, result := BitVec.ofNat 8 result, value := BitVec.ofNat 48 value, buffer := r.over buffer }
  if result = mbDone then s1 else s1.event (.refused h.tag op)

/-- A slot's command is one that the controller has taken. -/
def MbResult.holds (r : MbResult) (h : MbHdr) (op : Nat) (ctx : Option Nat) : Bool :=
  r.own && r.op == BitVec.ofNat 8 op && r.ctx == ctx.getD 0 % 64 && r.tag == h.tag

/-- An earlier command of the context has not finished (R413). -/
def State.mbBehind (s : State) (k : Nat) (ctx : Option Nat) : Bool :=
  ctx.isSome && (s.inbox.takeWhile fun q => q.1 != k).any fun q => q.2 == ctx

/-- The controller takes a command, which the host has written: it is behind those taken before it. One that it holds stays where it
is. -/
def State.mbTake (s : State) (h : MbHdr) (op : Nat) (ctx : Option Nat) (o : MbOperands) : State :=
  let k := h.slot % 16
  if s.inbox.any fun q => q.1 == k then s
  else { s with inbox := s.inbox ++ [(k, ctx)] }.setSlot k ((s.slot h).written h op ctx o)

/-- A command in its slot: behind an earlier one of its context it waits, else it runs. `run` gives the state and whether the command
has finished. One written while OWN is 1 has an unspecified effect: a free choice, it is lost or takes the slot. -/
def mbRun (h : MbHdr) (op : Nat) (ctx : Option Nat) (o : MbOperands) (run : State → State × Bool) (s : State) : Result :=
  let k := h.slot % 16
  let other := (s.slot h).own && !(s.slot h).holds h op ctx
  if other && Config.freeChoice s.tick 14 % 2 = 0 then .next s
  else
    let s1 := if other then { s with inbox := s.inbox.filter fun q => q.1 != k } else s
    let s2 := s1.mbTake h op ctx o
    if s2.mbBehind k ctx then .next s2 else .next (run s2).1

/-- A command whose checks and effect are given: `bad` is its RESULT where that is not 0. -/
def mbChecked (h : MbHdr) (op : Nat) (ctx : Option Nat) (o : MbOperands) (bad : Nat) (f : State → State) (s : State) : Result :=
  let bad := if h.rz ≠ 0 then mbBadField else bad
  mbRun h op ctx o (fun t => (if bad ≠ mbDone then t.answer h op bad 0 none else (f t).answer h op mbDone 0 none, true)) s

/-- A command that gives something back. -/
def mbReads (h : MbHdr) (op value : Nat) (buffer : Option (List Byte)) (s : State) : Result :=
  mbRun h op none s.inArgs (fun t => (if h.rz ≠ 0 then t.answer h op mbBadField 0 none else t.answer h op mbDone value buffer, true)) s

/-- A command that waits first, unless a check fails. -/
def mbWaits (h : MbHdr) (op : Nat) (ctx : Option Nat) (waits : Bool) (bad : Nat) (f : State → State) (s : State) : Result :=
  if bad = mbDone ∧ h.rz = 0 ∧ waits then mbRun h op ctx s.inArgs (fun t => (t, false)) s else mbChecked h op ctx s.inArgs bad f s

/-- A header whose operand buffer's length or reserved bits are wrong (R413, Table 20-2): the length is the structure's. -/
def badBuffer (h : MbHdr) (size : Nat) : Bool := h.len.toNat != size || decide (1024 < h.len.toNat) || h.rest != 0

/-- The first failing check. -/
def firstFail (l : List (Bool × Nat)) : Nat :=
  match l.find? fun p => p.1 with
  | some p => p.2
  | none => mbDone

/-! ### Contexts (R212, R229) -/

/-- Fields of a context descriptor that break Table 9-1. -/
def ctxDescBad (d : BitVec 1024) : Bool :=
  bitsOf d 23 41 != 0 || bitsOf d 345 167 != 0 || bitsOf d 64 13 != 0 || bitsOf d 128 2 != 0 || bitsOf d 192 4 != 0
    || bitsOf d 256 16 != 0 || (stackLog d != 0 && (stackLog d < 16 || 24 < stackLog d))

/-- Remove what is kept for a context on cores: function banks, descriptor, scope words. -/
def State.forgetBanks (s : State) (ctx : Nat) : State :=
  { s with cores := s.cores.map fun (p : Nat × Core) => (p.1, { p.2 with fn := p.2.fn.filter fun q => q.1 / 32 != ctx }) }

/-- Write a descriptor. A new context's ranges are in force at once, its function banks empty, its scope table zero; it gets a key pair
(R229). -/
def State.writeContext (s : State) (ctx : Nat) (d : BitVec 1024) : State :=
  let c := s.ctxAt ctx
  if c.created then s.setCtx ctx { c with desc := d }
  else
    ({ s with nextKey := s.nextKey + 1 }.forgetBanks ctx).setCtx ctx
      { c with created := true, desc := d, ranges := d.extractLsb' 512 512, scope := [], key := some s.nextKey }

/-- CREATE_CONTEXT (R212). -/
def execCreateContext (h : MbHdr) (ctx : Nat) (desc : BitVec 1024) (s : State) : Result :=
  mbChecked h 1 (some ctx) (inBuffer h (toBytes 128 desc.toNat)) (firstFail [(badBuffer h 128 || 64 ≤ ctx || ctxDescBad desc, mbBadField)]) (fun t => t.writeContext ctx desc) s

/-- Remove a context with everything that it owns, its key pair too (R229). -/
def State.dropContext (s : State) (ctx : Nat) : State :=
  let asked := (s.priQueue ++ s.priOut).filterMap fun q => if q.2.ctx = ctx then some q.2 else none
  let s1 := (((s.dropTlb ctx none).forgetPages asked).forgetBanks ctx).setCtx ctx Ctx.init
  { s1 with
    teams := s1.teams.filter fun p => s1.teamCtx p.2 != ctx
    grids := s1.grids.filter fun p => p.2.ctx != ctx
    stable := s1.stable.filter fun p => p.1 / 2 ^ 32 != ctx
    dies := s1.dies.map fun (p : Nat × Die) =>
      let keep (e : QEntry) : Bool := e.ctx != ctx
      (p.1, { p.2 with
        journal := p.2.journal.filter fun e => e.ctx != ctx
        q0 := p.2.q0.filter keep
        q1 := p.2.q1.filter keep
        q2 := p.2.q2.filter keep
        q3 := p.2.q3.filter keep }) }

/-- RELEASE_CONTEXT (R229, R317): it waits until the context has no resident group. -/
def execReleaseContext (h : MbHdr) (ctx : Nat) (s : State) : Result :=
  mbWaits h 2 (some ctx) (s.groups.any fun p => p.2.st != .free && p.2.ctx == ctx && p.1 % 48 != 47)
    (firstFail [(!(s.ctxAt ctx).created, mbRefused)]) (fun t => t.dropContext ctx) s

/-- The entries of a context leave every TLB; whether an access through one removed for this command is still in progress. -/
def State.invalidate (s : State) (ctx : Nat) : State × Bool :=
  let c := s.ctxAt ctx
  let pages := c.inv ++ s.tlbPages ctx none
  let s1 := s.dropTlb ctx none
  if s.throughPages ctx pages then (s1.setCtx ctx { c with inv := pages }, true) else (s1.setCtx ctx { c with inv := [] }, false)

/-- INVALIDATE_TRANSLATIONS (R212, R225): RESULT comes once no access through an entry that it removes is in progress; a change of
RANGE is then in force. -/
def execInvalidateTranslations (h : MbHdr) (ctx : Nat) (s : State) : Result :=
  let bad := firstFail [(h.rz != 0, mbBadField), (!(s.ctxAt ctx).created, mbRefused)]
  mbRun h 3 (some ctx) s.inArgs (fun t =>
    if bad ≠ mbDone then (t.answer h 3 bad 0 none, true)
    else
      match t.invalidate ctx with
      | (u, true) => (u, false)
      | (u, false) =>
        let c := u.ctxAt ctx
        ((u.setCtx ctx { c with ranges := c.desc.extractLsb' 512 512 }).answer h 3 mbDone 0 none, true)) s

/-! ### Frames and registrations (R228, R183, R263, R209, R411) -/

/-- A frame of a run cannot be formatted. -/
def State.badRun (s : State) (frame count : Nat) : Bool := !(List.range count).all fun i => s.formattable (frame + i)

/-- Formatting waits: in the hold of a cut (R273), while a frame waits for a shadow (R274), while a row of it is held (R139). -/
def State.formatWaits (s : State) (frame count : Nat) : Bool :=
  s.eqx.st == .hold || s.noShadow (frame * 65536) (count * 65536) || s.rowHeld (frame * 65536) (count * 65536) 32 0

/-- GRANT_FRAMES (R228). -/
def execGrantFrames (h : MbHdr) (ctx frame count : Nat) (fmt : Granule) (s : State) : Result :=
  mbWaits h 4 (some ctx) (s.formatWaits frame count) (firstFail [(!(s.ctxAt ctx).created || s.badRun frame count, mbRefused)])
    (fun t => t.formatFrames fmt frame count) s

/-- Frames of a run with a format. -/
def runFrames (frame count : Nat) (fmt : Granule) : List (Nat × Granule) := (List.range count).map fun i => (frame + i, fmt)

/-- A pool with a run added, every frame once. -/
def addRun (pool : List (Nat × Granule)) (frame count : Nat) (fmt : Granule) : List (Nat × Granule) :=
  (pool.filter fun p => !(frame ≤ p.1 && p.1 < frame + count)) ++ runFrames frame count fmt

/-- Checks of a pool addition: frames outside the context's owned frames are a bad field (R228). -/
def State.poolFail (s : State) (ctx frame count : Nat) : Nat :=
  firstFail [(!(s.ctxAt ctx).created, mbRefused), (!(List.range count).all fun i => s.owned ctx (frame + i) 1, mbBadField),
    (s.badRun frame count, mbRefused)]

/-- ADD_PAGE_POOL (R228). -/
def execAddPagePool (h : MbHdr) (ctx frame count : Nat) (fmt : Granule) (s : State) : Result :=
  mbWaits h 4 (some ctx) (s.formatWaits frame count) (s.poolFail ctx frame count)
    (fun t => let c := t.ctxAt ctx; (t.formatFrames fmt frame count).setCtx ctx { c with pool := addRun c.pool frame count fmt }) s

/-- ADD_SAVE_AREA_POOL (R228, R198). -/
def execAddSaveAreaPool (h : MbHdr) (ctx frame count : Nat) (fmt : Granule) (s : State) : Result :=
  mbWaits h 4 (some ctx) (s.formatWaits frame count) (s.poolFail ctx frame count)
    (fun t => let c := t.ctxAt ctx; (t.formatFrames fmt frame count).setCtx ctx { c with savePool := addRun c.savePool frame count fmt }) s

/-- REGISTER_ALMANAC_REGION (R183): at most 2^20 records, each aligned to its 64 bytes. -/
def execRegisterAlmanacRegion (h : MbHdr) (ctx : Nat) (base : Word) (records : Nat) (s : State) : Result :=
  mbChecked h 5 (some ctx) s.inArgs (firstFail [(2 ^ 20 < records || base.toNat % 64 != 0, mbBadField), (!(s.ctxAt ctx).created, mbRefused)])
    (fun t => t.setCtx ctx { t.ctxAt ctx with almBase := base, almRecords := records }) s

/-- PLACE_BAR2_WINDOW (R411). -/
def execPlaceBar2Window (h : MbHdr) (base : Nat) (s : State) : Result := mbChecked h 5 none s.inArgs mbDone (fun t => { t with bar2 := some base }) s

/-- REGISTER_AUDIT_ARRAY (R263). -/
def execRegisterAuditArray (h : MbHdr) (ctx : Nat) (base : Word) (s : State) : Result :=
  mbChecked h 5 (some ctx) s.inArgs (firstFail [(!(s.ctxAt ctx).created, mbRefused)]) (fun t => t.setCtx ctx { t.ctxAt ctx with audit := some base }) s

/-- REGISTER_BATCH_TABLE (R209, R210). -/
def execRegisterBatchTable (h : MbHdr) (ctx : Nat) (base : Word) (entries : Nat) (snapshots : Word) (s : State) : Result :=
  mbChecked h 5 (some ctx) s.inArgs (firstFail [(!(s.ctxAt ctx).created, mbRefused)])
    (fun t => { t with stable := t.stable.filter fun p => p.1 / 2 ^ 32 != ctx }.setCtx ctx
      { t.ctxAt ctx with batch := some (base, entries, snapshots) }) s

/-- Reserved bits of a scope range word (Table 6-8). -/
def scopeWordBad (w : W32) : Bool := bitsOf w 27 4 != 0 || bitsOf w 11 5 != 0

/-- WRITE_SCOPE_TABLE (R151): whole entries from `first` on, entries 6 to 31 only. -/
def execWriteScopeTable (h : MbHdr) (ctx first : Nat) (words : List W32) (s : State) : Result :=
  mbChecked h 6 (some ctx) (inBuffer h (words.flatMap fun w => toBytes 4 w.toNat))
    (firstFail [(badBuffer h (4 * words.length) || first < 6 || words.length % 8 != 0 || 32 < first + words.length / 8 || words.any scopeWordBad, mbBadField),
      (!(s.ctxAt ctx).created, mbRefused)])
    (fun t =>
      let c := t.ctxAt ctx
      t.setCtx ctx { c with scope := words.zipIdx.foldl (fun (m : Store W32) (p : W32 × Nat) => sset 0 (first * 8 + p.2) p.1 m) c.scope }) s

/-! ### Pre-emption (R197) -/

/-- Teams that a request names. -/
def State.named (s : State) (ctx : Nat) (task : Option Nat) : List Nat :=
  (s.teams.filter fun p => s.takable p && s.teamCtx p.2 == ctx
    && (match task with | some i => p.2.grid == gridKey ctx i || p.2.grid == replayKey ctx i | none => true)).map Prod.fst

/-- Their gangs, once each. -/
def State.namedGangs (s : State) (ctx : Nat) (task : Option Nat) : List (List Nat) :=
  ((s.named ctx task).filterMap fun k => (s.team? k).map (s.gangOf k)).eraseDups

/-- PREEMPT (R197, R203): the saves of a gang's teams begin together. -/
def execPreempt (h : MbHdr) (ctx : Nat) (task : Option Nat) (s : State) : Result :=
  mbChecked h 7 (some ctx) s.inArgs (firstFail [(!(s.ctxAt ctx).created, mbRefused)]) (fun t => (t.namedGangs ctx task).foldl State.stopGang t) s

/-- ENABLE_DISTRIBUTOR_PREEMPTION (R197). -/
def execEnableDistributorPreemption (h : MbHdr) (ctx : Nat) (enable : Bool) (s : State) : Result :=
  mbChecked h 7 (some ctx) s.inArgs (firstFail [(!(s.ctxAt ctx).created, mbRefused)]) (fun t => t.setCtx ctx { t.ctxAt ctx with preemptOn := enable }) s

/-! ### Ending a freeze or a halt (R244, R250, R414) -/

/-- The stored slot of a group: a width-64 group fills two, and is stored in the lower. -/
def State.slotOf (s : State) (core slot : Nat) : Nat :=
  if slot % 2 = 1 && (s.groupAt core (slot - 1)).width == 64 && (s.groupAt core (slot - 1)).st != .free then slot - 1 else slot

/-- What a released group leaves with its team and grid: its final state and its part of the status block. -/
def State.leaveTeam (s : State) (g : Group) : State :=
  match s.team? g.team with
  | none => s
  | some t =>
    let s1 := s.setTeam g.team { t with gone := t.gone ++ [(g.gidx, g.st)] }
    match s.grid? t.grid with
    | some x => s1.setGrid t.grid (x.fold g)
    | none => s1

/-- Free the slot of a halted or frozen group, with the ended matrix commands that it left. -/
def State.freeSlot (s : State) (core slot : Nat) : State :=
  let g := s.groupAt core slot
  let s1 := s.leaveTeam g
  let c := s1.coreAt core
  ((s1.setCore core { c with mcmds := c.mcmds.filter fun m => !(m.team == g.team && m.gidx == g.gidx && m.fault.isSome) }).setGroupAt
    core slot Group.init).leaveCore core g.ctx

/-- RELEASE_SLOT (R414): it waits for what the group issued, which completes (R250, log entry 115). -/
def execReleaseSlot (h : MbHdr) (core slot : Nat) (s : State) : Result :=
  let k := s.slotOf core slot
  mbWaits h 8 none (!s.performedIn (s.groupAt core k).team fun i => i == (s.groupAt core k).gidx)
    (firstFail [(!(s.groupAt core k).broken, mbRefused)]) (fun t => t.freeSlot core k) s

/-- A command that a PROTECTION stopped: an engine command marked so, or a matrix command that left its locks. -/
def State.frozenCommand (s : State) (cmd : Nat) : Bool :=
  if s.ecmds.any fun c => c.id == cmd then s.ecmds.any fun c => c.id == cmd && c.frozen
  else (s.dies.any fun p => p.2.locks.any fun l => l.cmd == cmd) && !s.cores.any fun p => p.2.mcmds.any fun m => m.id == cmd && m.fault.isNone

/-- RELEASE_COMMAND_LOCKS (R244, R414). -/
def execReleaseCommandLocks (h : MbHdr) (cmd : Nat) (s : State) : Result :=
  mbChecked h 8 none s.inArgs (firstFail [(!s.frozenCommand cmd, mbRefused)])
    (fun t => { t with ecmds := t.ecmds.filter fun c => c.id != cmd }.releaseLocks cmd) s

/-- RESET_FLOW (R244, R414): the frozen flow does not resume: it is a flow that is not set up. -/
def execResetFlow (h : MbHdr) (flow : Nat) (s : State) : Result :=
  mbChecked h 8 none s.inArgs (firstFail [(!(s.flowAt flow).frozen, mbRefused)]) (fun t => t.setFlow flow Flow.init) s

/-! ### Flows and domains (R417, R418) -/

/-- SET_UP_FLOW (R417, R277): only over present links, and not for a frozen flow, which the host resets first (log entry 95). -/
def execSetUpFlow (h : MbHdr) (desc : BitVec 576) (s : State) : Result :=
  mbChecked h 9 none (inBuffer h (toBytes 72 desc.toNat)) (firstFail [(badBuffer h 72 || bitsOf desc 54 10 != 0, mbBadField),
      ((s.flowAt (bitsOf desc 0 12)).frozen || (desc.extractLsb' 36 18 &&& s.cap.links) == 0, mbRefused)])
    (fun t => t.setFlow (bitsOf desc 0 12) ⟨desc, true, false, 0, 0, [], [], []⟩) s

/-- SET_UP_DOMAIN (R418): its completed step count is 0. -/
def execSetUpDomain (h : MbHdr) (domain : Nat) (members flows : List Nat) (s : State) : Result :=
  mbChecked h 10 none (inBuffer h ((List.range (min h.len.toNat 1024)).map fun i => Config.freeByte s.tick i))
    (firstFail [(decide (1024 < h.len.toNat) || h.rest != 0 || 2 ^ 16 ≤ domain || (flows.any fun f => 4096 ≤ f), mbBadField)])
    (fun t => { t with domains := sins domain ⟨members, flows, 0⟩ (serase domain t.domains) }) s

/-! ### Equinox (R271) -/

/-- Reserved fields of an arm request (Table 10-7). -/
def eqxBad (r : BitVec 512) : Bool := bitsOf r 92 36 != 0 || bitsOf r 208 48 != 0 || bitsOf r 336 48 != 0 || bitsOf r 448 64 != 0

/-- A request that is refused: a cut is under way, step S is over, or an encrypted context is named without a checkpoint key. -/
def State.armRefused (s : State) (r : BitVec 512) : Bool :=
  let steps := match lookupKey (eqxDomain r) s.domains with | some d => d.steps | none => 0
  s.eqx.st != .idle || eqxStep r ≤ steps
    || (eqxCkey r == 0 && (s.pageSet r).any fun e => (s.ctxAt e.1).desc.getLsbD 20)

/-- EQUINOX_ARM (R271). -/
def execEquinoxArm (h : MbHdr) (req : BitVec 512) (s : State) : Result :=
  mbChecked h 11 none (inBuffer h (toBytes 64 req.toNat)) (firstFail [(badBuffer h 64 || eqxBad req || (lookupKey (eqxDomain req) s.domains).isNone, mbBadField), (s.armRefused req, mbRefused)])
    (fun t => { t with eqx := { Equinox.init with st := .armed, req := req } }) s

/-- EQUINOX_DISARM (Table 10-8). -/
def execEquinoxDisarm (h : MbHdr) (s : State) : Result :=
  mbChecked h 11 none s.inArgs (firstFail [(s.eqx.st != .armed, mbRefused)])
    (fun t =>
      let held := t.eqx.held
      held.foldl (fun (u : State) m => u.letIn m) { t with eqx := Equinox.init }) s

/-- EQUINOX_ACKNOWLEDGE (Table 10-8). -/
def execEquinoxAcknowledge (h : MbHdr) (s : State) : Result :=
  mbChecked h 11 none s.inArgs (firstFail [(s.eqx.st != .done && s.eqx.st != .failed, mbRefused)]) (fun t => { t with eqx := Equinox.init }) s

/-! ### Parameters (R188, R260, R265, R268) -/

/-- SET_AGE (R188): a power of two from 2^10 to 2^24. -/
def execSetAge (h : MbHdr) (die value : Nat) (s : State) : Result :=
  mbChecked h 12 none s.inArgs (firstFail [(8 ≤ die || !((List.range 15).map fun i => 2 ^ (i + 10)).contains value, mbBadField)])
    (fun t => t.setDie die { t.dieAt die with age := value }) s

/-- SET_SCRUB_PERIOD (R265): 1 to 168 hours. -/
def execSetScrubPeriod (h : MbHdr) (value : Nat) (s : State) : Result :=
  mbChecked h 12 none s.inArgs (firstFail [(value < 1 || 168 < value, mbBadField)]) (fun t => { t with scrubPeriod := value }) s

/-- SET_FILTER_SCHEDULE (R268). -/
def execSetFilterSchedule (h : MbHdr) (value : Nat) (s : State) : Result := mbChecked h 12 none s.inArgs mbDone (fun t => { t with filterPeriod := value }) s

/-- SET_REPEAT_THRESHOLD (R268). -/
def execSetRepeatThreshold (h : MbHdr) (value : Nat) (s : State) : Result := mbChecked h 12 none s.inArgs mbDone (fun t => { t with repeatAt := value }) s

/-- SET_VIGIL_EXPONENT (R260): 0 to 20, or none to disable the class. -/
def execSetVigilExponent (h : MbHdr) (cls : BitVec 4) (value : Option Nat) (s : State) : Result :=
  mbChecked h 12 none s.inArgs (firstFail [(value.any fun n => 20 < n, mbBadField)])
    (fun t =>
      let v := sget (⟨none, 0, 0⟩ : VigilClass) cls.toNat t.vigil
      { t with vigil := sset (⟨none, 0, 0⟩ : VigilClass) cls.toNat { v with exp := value } t.vigil }) s

/-! ### Migration and reading (R269, R276, R420, R424) -/

/-- MIGRATE_PAGE (R269, R270). -/
def execMigratePage (h : MbHdr) (ctx : Nat) (va : Word) (fmt : Granule) (s : State) : Result :=
  mbRun h 13 (some ctx) s.inArgs (fun t =>
    if h.rz ≠ 0 then (t.answer h 13 mbBadField 0 none, true)
    else
      match t.migrate ctx va fmt with
      | .later => (t, false)
      | .refused u r => (u.answer h 13 r 0 none, true)
      | .done u => (u.answer h 13 mbDone 0 none, true)) s

/-- The capability block (Table 10-12). -/
def capabilityBlock (c : Capability) : List Byte :=
  let dies := (List.range 8).map fun d =>
    ((c.cores.extractLsb' (256 * d) 256).toNat + (c.vaults.extractLsb' (64 * d) 64).toNat * 2 ^ 256) * 2 ^ (64 + 320 * d)
  toBytes 896 (c.dies.toNat + c.hbmStacks.toNat * 2 ^ 8 + c.hubs.toNat * 2 ^ 40 + c.links.toNat * 2 ^ 42 + c.cxl.toNat * 2 ^ 60
    + dies.sum + c.pcs.toNat * 2 ^ 2624)

/-- READ_CAPABILITY_BLOCK (R276): in the slot's operand buffer. -/
def execReadCapabilityBlock (h : MbHdr) (s : State) : Result := mbReads h 14 0 (some (capabilityBlock s.cap)) s

/-- READ_PHYSICAL_MAP (R424): the manual gives the map no layout, so the buffer's bytes are free. -/
def execReadPhysicalMap (h : MbHdr) (s : State) : Result :=
  mbReads h 14 (Config.freeChoice s.tick 9) (some ((List.range 1024).map fun i => Config.freeByte s.tick i)) s

/-- READ_SENSOR (R420). -/
def execReadSensor (h : MbHdr) (sensor : Nat) (s : State) : Result := mbReads h 14 (s.reading sensor) none s

/-- UNKNOWN_MAILBOX_OP (R413, Table 20-2). -/
def execUnknownMailboxOp (h : MbHdr) (op : BitVec 8) (s : State) : Result :=
  if 1 ≤ op.toNat && op.toNat ≤ 14 then .next s else mbRun h op.toNat none s.inArgs (fun t => (t.answer h op.toNat mbUnknown 0 none, true)) s

end Sys2Proof.Machine
end

