-- ==== Sys2Proof/Machine/Pair.lean ====
section
/-! DEFINITION. Pair words (R67 to R69, R73): slot X and slot Y read everything before either writes. -/

namespace Sys2Proof.Machine

/-- Element type of a slot X operation (Table 2-15). -/
def xType : XOp → EType
  | .faddF16 | .fsubF16 | .fmulF16 | .fmacF16 => .f16
  | _ => .f32

def xMac (op : XOp) : Bool := op == .fmacF32 || op == .fmacF16

/-- Slot X in a lane before rounding: FMAC reads its vd (R73). -/
def xOp (op : XOp) (a b c : FVal) : FVal × Flags :=
  match op with
  | .faddF32 | .faddF16 => fAdd a b
  | .fsubF32 | .fsubF16 => fSub a b
  | .fmulF32 | .fmulF16 => fMul a b
  | .fmacF32 | .fmacF16 => fFma a b c
  | .fminF32 => fMinMax false a b
  | .fmaxF32 => fMinMax true a b

/-- Slot X's result in a lane. -/
def xLane (op : XOp) (s : Slot) (e : Env) (i : Nat) : Conv :=
  let t := xType op
  let m := s.mods.setWidth 6
  let r := xOp op (e.rdF t 0 s.va (modOf m 0) i) (e.rdF t 1 s.vb (modOf m 1) i) (e.rdF t 0 s.vd 0 i)
  let x := fElem i (finish t { Fin.rne with ftz := e.ftz } r.1) r.2
  (x.1, x.2, false)

/-- Slot Y operations with a second register source. -/
def yTwo : YOp → Bool
  | .mov | .cvtF32S32 | .cvtS32F32 | .fkey | .xbfly => false
  | _ => true

/-- The L3 form that a conversion in slot Y acts as (R73). -/
def yForm (t : EType) (s : Slot) : L3 := ⟨s.vd, s.va, 0, 0, s.mods.setWidth 6, 0, 0, 0, 1, 0, t, 0, 0⟩

/-- Slot Y's result in a lane. -/
def yLane (op : YOp) (s : Slot) (seed : W32) (e : Env) (i : Nat) : Conv :=
  let m := s.mods.setWidth 6
  let a := e.rdI .s32 2 s.va (modOf m 0) i
  let b := e.rdI .s32 3 s.vb (modOf m 1) i
  let ua := e.rdB .b32 2 s.va i
  let ub := e.rdB .b32 3 s.vb i
  let plain (v : Word) : Conv := (Elem.plain i v, 0, false)
  match op with
  | .iadd => plain (placeI .s32 (a + b))
  | .isub => plain (placeI .s32 (a - b))
  | .imin => plain (placeI .s32 (if a ≤ b then a else b))
  | .imax => plain (placeI .s32 (if a ≤ b then b else a))
  | .and => plain (wd (ua &&& ub))
  | .or => plain (wd (ua ||| ub))
  | .xor => plain (wd (ua ^^^ ub))
  | .shl => plain (wd (ua * 2 ^ (ub % 32) % 2 ^ 32))
  | .shr => plain (wd (ua / 2 ^ (ub % 32)))
  | .sar => plain (placeI .s32 (intOf .s32 ua / (2 ^ (ub % 32) : Nat)))
  | .mov => plain (wd ua)
  | .fkey => plain (wd (fkeyBits 32 ua))
  | .cvtF32S32 => convElem (yForm .f32 s) e seed .f32 i 0 (FVal.ofInt a) 0
  | .cvtS32F32 =>
    let v := e.rdF .f32 2 s.va (modOf m 0) i
    let r := toInteger .s32 (convFin (yForm .s32 s) e seed i 0).rnd v
    (Elem.plain i (placeI .s32 r.1), r.2, inexactI v)
  | .xbfly => plain (e.src 2 s.va false (i ^^^ s.vb.toNat))

/-- Registers that a slot reads. -/
def xReads (op : XOp) (s : Slot) : List Nat :=
  srcRegs false s.va ++ srcRegs false s.vb ++ (if xMac op then [s.vd.toNat] else [])
def yReads (op : YOp) (s : Slot) : List Nat := srcRegs false s.va ++ (if yTwo op then srcRegs false s.vb else [])

/-- PAIR_CONFLICT (R68): more than three banks read, or a slot writes what the other reads or writes. -/
def pairConflict (xr yr xw yw : List Nat) : Bool :=
  3 < ((List.range 4).filter fun b => (xr ++ yr).any fun r => r % 4 == b).length || meets xw yr || meets yw xr || meets xw yw

/-- A pair word: its checks, then both slots. -/
def pairWord (x : Option (XOp × Slot)) (y : Option (YOp × Slot)) (look mreg : BitVec 4) (s : State) : Result :=
  let xr := match x with | some (op, sl) => xReads op sl | none => []
  let yr := match y with | some (op, sl) => yReads op sl | none => []
  let xw := match x with | some (_, sl) => [sl.vd.toNat] | none => []
  let yw := match y with | some (_, sl) => [sl.vd.toNat] | none => []
  let far := match y with | some (.xbfly, sl) => decide (s.g.width ≤ sl.vb.toNat) | _ => false
  if far then s.laneReject .reservedField mreg.toNat
  else if pairConflict xr yr xw yw then s.laneReject .pairConflict mreg.toNat
  else
    let fields := (match x with | some (_, sl) => [sl.va, sl.vb] | none => [0, 0])
      ++ (match y with | some (op, sl) => if yTwo op then [sl.va, sl.vb] else [sl.va] | none => [])
    let fly := match y with | some (.xbfly, sl) => some sl.vb.toNat | _ => none
    let far := if fly.isSome then farOf fields false xr 2 else []
    runLane ⟨xr ++ yr, xw ++ yw, maskRegs mreg.toNat, [], [], look.toNat, [], far, false⟩ mreg.toNat false ⟨0, false, 1, 0⟩ fields
      (fun e =>
        let hurt := match fly with | some d => e.actives.filter fun i => s.elemBad fields 2 false (i ^^^ d) | none => []
        if !hurt.isEmpty then .hurt (maskOf hurt) else
        let xs := match x with | some (op, sl) => e.actives.map fun i => (sl.vd.toNat, xLane op sl e i) | none => []
        let ys := match y with | some (op, sl) => e.actives.map fun i => (sl.vd.toNat, yLane op sl s.seed e i) | none => []
        .out [] ((xs ++ ys).map fun (p : Nat × Conv) => (p.1, p.2.1)) []
          (Flags.join ((xs ++ ys).map fun (p : Nat × Conv) => p.2.2.1))
          fun g => if fmtRnd e.w.fmt == 4 && ys.any (fun (p : Nat × Conv) => p.2.2.2) then g.drew 1 else g) s

/-- PAIR_FADDF32 (R73). -/
def execPairFaddF32 (p : PairX) (s : State) : Result := pairWord (some (.faddF32, p.x)) p.y p.look p.mreg s
/-- PAIR_FSUBF32 (R73). -/
def execPairFsubF32 (p : PairX) (s : State) : Result := pairWord (some (.fsubF32, p.x)) p.y p.look p.mreg s
/-- PAIR_FMULF32 (R73). -/
def execPairFmulF32 (p : PairX) (s : State) : Result := pairWord (some (.fmulF32, p.x)) p.y p.look p.mreg s
/-- PAIR_FMACF32 (R73). -/
def execPairFmacF32 (p : PairX) (s : State) : Result := pairWord (some (.fmacF32, p.x)) p.y p.look p.mreg s
/-- PAIR_FMINF32 (R73). -/
def execPairFminF32 (p : PairX) (s : State) : Result := pairWord (some (.fminF32, p.x)) p.y p.look p.mreg s
/-- PAIR_FMAXF32 (R73). -/
def execPairFmaxF32 (p : PairX) (s : State) : Result := pairWord (some (.fmaxF32, p.x)) p.y p.look p.mreg s
/-- PAIR_FADDF16 (R73). -/
def execPairFaddF16 (p : PairX) (s : State) : Result := pairWord (some (.faddF16, p.x)) p.y p.look p.mreg s
/-- PAIR_FSUBF16 (R73). -/
def execPairFsubF16 (p : PairX) (s : State) : Result := pairWord (some (.fsubF16, p.x)) p.y p.look p.mreg s
/-- PAIR_FMULF16 (R73). -/
def execPairFmulF16 (p : PairX) (s : State) : Result := pairWord (some (.fmulF16, p.x)) p.y p.look p.mreg s
/-- PAIR_FMACF16 (R73). -/
def execPairFmacF16 (p : PairX) (s : State) : Result := pairWord (some (.fmacF16, p.x)) p.y p.look p.mreg s

/-- PAIR_IADDS32 (R73). -/
def execPairIaddS32 (p : PairY) (s : State) : Result := pairWord none (some (.iadd, p.y)) p.look p.mreg s
/-- PAIR_ISUBS32 (R73). -/
def execPairIsubS32 (p : PairY) (s : State) : Result := pairWord none (some (.isub, p.y)) p.look p.mreg s
/-- PAIR_ANDB32 (R73). -/
def execPairAndB32 (p : PairY) (s : State) : Result := pairWord none (some (.and, p.y)) p.look p.mreg s
/-- PAIR_ORB32 (R73). -/
def execPairOrB32 (p : PairY) (s : State) : Result := pairWord none (some (.or, p.y)) p.look p.mreg s
/-- PAIR_XORB32 (R73). -/
def execPairXorB32 (p : PairY) (s : State) : Result := pairWord none (some (.xor, p.y)) p.look p.mreg s
/-- PAIR_SHLB32 (R73). -/
def execPairShlB32 (p : PairY) (s : State) : Result := pairWord none (some (.shl, p.y)) p.look p.mreg s
/-- PAIR_SHRB32 (R73). -/
def execPairShrB32 (p : PairY) (s : State) : Result := pairWord none (some (.shr, p.y)) p.look p.mreg s
/-- PAIR_SARS32 (R73). -/
def execPairSarS32 (p : PairY) (s : State) : Result := pairWord none (some (.sar, p.y)) p.look p.mreg s
/-- PAIR_IMINS32 (R73). -/
def execPairIminS32 (p : PairY) (s : State) : Result := pairWord none (some (.imin, p.y)) p.look p.mreg s
/-- PAIR_IMAXS32 (R73). -/
def execPairImaxS32 (p : PairY) (s : State) : Result := pairWord none (some (.imax, p.y)) p.look p.mreg s
/-- PAIR_MOVB32 (R73). -/
def execPairMovB32 (p : PairY) (s : State) : Result := pairWord none (some (.mov, p.y)) p.look p.mreg s
/-- PAIR_CVTF32S32 (R73). -/
def execPairCvtF32S32 (p : PairY) (s : State) : Result := pairWord none (some (.cvtF32S32, p.y)) p.look p.mreg s
/-- PAIR_CVTS32F32 (R73). -/
def execPairCvtS32F32 (p : PairY) (s : State) : Result := pairWord none (some (.cvtS32F32, p.y)) p.look p.mreg s
/-- PAIR_FKEYF32 (R73). -/
def execPairFkeyF32 (p : PairY) (s : State) : Result := pairWord none (some (.fkey, p.y)) p.look p.mreg s
/-- PAIR_XBFLYB32 (R73). -/
def execPairXbflyB32 (p : PairY) (s : State) : Result := pairWord none (some (.xbfly, p.y)) p.look p.mreg s

end Sys2Proof.Machine
end

