-- ==== Sys2Proof/Machine/ScalarCtl.lean ====
section
/-! DEFINITION. Branches and calls (R289), the lane queue and the return path (R290 to R293). -/

namespace Sys2Proof.Machine

/-- A branch target: the word's address plus four times the offset (R50). -/
def branchTarget {w : Nat} (pc : Word) (off : BitVec w) : Word := pc + (off.signExtend 64 <<< 2)

/-- A jump to a register's value traps with MISALIGNED at the jump where it is not a multiple of 4 (R50, R289). The traps
of R76 record no address. -/
def jumpReg (t : Word) (link : Bool) (s : State) : Result :=
  if bitsOf t 0 2 ≠ 0 then s.trapS .misaligned
  else if link then .next ((s.modG fun g => g.setS 62 (g.spc + 4)).jump t)
  else .next (s.jump t)

def execB (off : BitVec 26) (s : State) : Result := .next (s.jump (branchTarget s.g.spc off))
def execCall (off : BitVec 26) (s : State) : Result :=
  .next ((s.modG fun g => g.setS 62 (g.spc + 4)).jump (branchTarget s.g.spc off))

/-- BC (R289, Table 2-4). -/
def branchIf (c : Bool) (off : BitVec 11) (s : State) : Result :=
  .next (if c then s.jump (branchTarget s.g.spc off) else s.nextPc)

def execBcEq (a b : SReg) (off : BitVec 11) (s : State) : Result := branchIf (s.g.sreg a == s.g.sreg b) off s
def execBcNe (a b : SReg) (off : BitVec 11) (s : State) : Result := branchIf (s.g.sreg a != s.g.sreg b) off s
def execBcLt (a b : SReg) (off : BitVec 11) (s : State) : Result := branchIf ((s.g.sreg a).slt (s.g.sreg b)) off s
def execBcGe (a b : SReg) (off : BitVec 11) (s : State) : Result := branchIf (!(s.g.sreg a).slt (s.g.sreg b)) off s
def execBcLtz (a b : SReg) (off : BitVec 11) (s : State) : Result := branchIf ((s.g.sreg a).ult (s.g.sreg b)) off s
def execBcGez (a b : SReg) (off : BitVec 11) (s : State) : Result := branchIf (!(s.g.sreg a).ult (s.g.sreg b)) off s
def execCallr (a : SReg) (s : State) : Result := jumpReg (s.g.sreg a) true s
def execRet (s : State) : Result := jumpReg (s.g.sreg 62) false s
def execJr (a : SReg) (s : State) : Result := jumpReg (s.g.sreg a) false s

/-- LBASE of a kernel descriptor (Table 16-2). -/
def descLbase (d : BitVec 512) : Word := d.extractLsb' 128 64

/-- What blk20 counts from: the kernel's lane section, or the handler's in supervisor mode (R50, R231). -/
def State.laneBase (s : State) : Word :=
  let g := s.g
  if g.mode = .supervisor then hlbaseOf (s.descOn s.cur.core g.ctx)
  else match s.gridOf g with
    | some x => descLbase x.desc
    | none => 0

/-- LISSUE (R19, R290): append an entry with a copy of k0 to k15; a full queue stalls (R19). Only lane blocks take one of the
64 entries: the spec does not say whether a queued SETFMT, CSR, RNGSEED or FLOAD item takes one (DESIGN CHOICE, log entry 91). -/
def execLissue (n : BitVec 6) (blk : BitVec 20) (s : State) : Result :=
  if 64 ≤ s.g.blocks then s.stall .queue
  else
    let base := s.laneBase
    .next (s.modG fun g =>
      { g with lq := g.lq ++ [.block ⟨base + wd (12 * blk.toNat), n.toNat + 1, g.k, g.nextBlk⟩], nextBlk := g.nextBlk + 1 }).nextPc

/-- LQWAIT (R22, R291). -/
def execLqwait (s : State) : Result := if s.g.idleLanes then .next (s.modG Group.passJoin).nextPc else s.wait .lanes

/-- SPOP (R22, R293): the oldest value of the return slot; ILLEGAL_WAIT where no LRET can arrive. -/
def execSpop (d : SReg) (s : State) : Result :=
  match s.g.ret with
  | v :: r => .next ((s.modG fun g => { g with ret := r }).writeNext d v)
  | [] => if s.g.joined then s.trapS .illegalWait else s.wait .spop

end Sys2Proof.Machine
end

