-- ==== Sys2Proof/Machine/Dispatch.lean ====
section
/-! DEFINITION. The dispatch: one arm per constructor of `Instr`, each a direct call of its meaning. -/

namespace Sys2Proof.Machine

def exec (i : Instr) (s : State) : Host.Outcome State Fault Refusal :=
  match i with
  | .add d a b => Sys2Proof.Machine.execAdd d a b s
  | .sub d a b => Sys2Proof.Machine.execSub d a b s
  | .mul d a b => Sys2Proof.Machine.execMul d a b s
  | .mulh d a b => Sys2Proof.Machine.execMulh d a b s
  | .mulhz d a b => Sys2Proof.Machine.execMulhz d a b s
  | .div d a b => Sys2Proof.Machine.execDiv d a b s
  | .divz d a b => Sys2Proof.Machine.execDivz d a b s
  | .rem d a b => Sys2Proof.Machine.execRem d a b s
  | .remz d a b => Sys2Proof.Machine.execRemz d a b s
  | .and d a b => Sys2Proof.Machine.execAnd d a b s
  | .or d a b => Sys2Proof.Machine.execOr d a b s
  | .xor d a b => Sys2Proof.Machine.execXor d a b s
  | .andn d a b => Sys2Proof.Machine.execAndn d a b s
  | .shl d a b => Sys2Proof.Machine.execShl d a b s
  | .shr d a b => Sys2Proof.Machine.execShr d a b s
  | .sar d a b => Sys2Proof.Machine.execSar d a b s
  | .rotr d a b => Sys2Proof.Machine.execRotr d a b s
  | .min d a b => Sys2Proof.Machine.execMin d a b s
  | .max d a b => Sys2Proof.Machine.execMax d a b s
  | .minz d a b => Sys2Proof.Machine.execMinz d a b s
  | .maxz d a b => Sys2Proof.Machine.execMaxz d a b s
  | .slt d a b => Sys2Proof.Machine.execSlt d a b s
  | .sltz d a b => Sys2Proof.Machine.execSltz d a b s
  | .clz d a => Sys2Proof.Machine.execClz d a s
  | .popc d a => Sys2Proof.Machine.execPopc d a s
  | .sextB d a => Sys2Proof.Machine.execSextB d a s
  | .sextH d a => Sys2Proof.Machine.execSextH d a s
  | .sextW d a => Sys2Proof.Machine.execSextW d a s
  | .zextB d a => Sys2Proof.Machine.execZextB d a s
  | .zextH d a => Sys2Proof.Machine.execZextH d a s
  | .zextW d a => Sys2Proof.Machine.execZextW d a s
  | .sel d a b c => Sys2Proof.Machine.execSel d a b c s
  | .addi d a imm => Sys2Proof.Machine.execAddi d a imm s
  | .andi d a imm => Sys2Proof.Machine.execAndi d a imm s
  | .ori d a imm => Sys2Proof.Machine.execOri d a imm s
  | .xori d a imm => Sys2Proof.Machine.execXori d a imm s
  | .shli d a n => Sys2Proof.Machine.execShli d a n s
  | .shri d a n => Sys2Proof.Machine.execShri d a n s
  | .sari d a n => Sys2Proof.Machine.execSari d a n s
  | .slti d a imm => Sys2Proof.Machine.execSlti d a imm s
  | .lhi d imm => Sys2Proof.Machine.execLhi d imm s
  | .pchi d imm => Sys2Proof.Machine.execPchi d imm s
  | .lds d a z imm => Sys2Proof.Machine.execLds d a z imm s
  | .ldz d a z imm => Sys2Proof.Machine.execLdz d a z imm s
  | .st d a z imm => Sys2Proof.Machine.execSt d a z imm s
  | .satomW d a b op scope => Sys2Proof.Machine.execSatomW d a b op scope s
  | .satomD d a b op scope => Sys2Proof.Machine.execSatomD d a b op scope s
  | .b off => Sys2Proof.Machine.execB off s
  | .call off => Sys2Proof.Machine.execCall off s
  | .bcEq a b off => Sys2Proof.Machine.execBcEq a b off s
  | .bcNe a b off => Sys2Proof.Machine.execBcNe a b off s
  | .bcLt a b off => Sys2Proof.Machine.execBcLt a b off s
  | .bcGe a b off => Sys2Proof.Machine.execBcGe a b off s
  | .bcLtz a b off => Sys2Proof.Machine.execBcLtz a b off s
  | .bcGez a b off => Sys2Proof.Machine.execBcGez a b off s
  | .callr a => Sys2Proof.Machine.execCallr a s
  | .ret => Sys2Proof.Machine.execRet s
  | .jr a => Sys2Proof.Machine.execJr a s
  | .lissue n blk => Sys2Proof.Machine.execLissue n blk s
  | .lqwait => Sys2Proof.Machine.execLqwait s
  | .movk k a => Sys2Proof.Machine.execMovk k a s
  | .spop d => Sys2Proof.Machine.execSpop d s
  | .regroup v => Sys2Proof.Machine.execRegroup v s
  | .bar d => Sys2Proof.Machine.execBar d s
  | .bararrive d => Sys2Proof.Machine.execBararrive d s
  | .barwait d => Sys2Proof.Machine.execBarwait d s
  | .fence scope => Sys2Proof.Machine.execFence scope s
  | .fenceAcq scope => Sys2Proof.Machine.execFenceAcq scope s
  | .fenceRel scope => Sys2Proof.Machine.execFenceRel scope s
  | .waitp p a => Sys2Proof.Machine.execWaitp p a s
  | .waitg d a b => Sys2Proof.Machine.execWaitg d a b s
  | .waitgTimeout core slot => Sys2Proof.Machine.execWaitgTimeout core slot s
  | .yield => Sys2Proof.Machine.execYield s
  | .sleep a => Sys2Proof.Machine.execSleep a s
  | .sleepExpiry core slot => Sys2Proof.Machine.execSleepExpiry core slot s
  | .fnfence => Sys2Proof.Machine.execFnfence s
  | .racq n => Sys2Proof.Machine.execRacq n s
  | .rrel => Sys2Proof.Machine.execRrel s
  | .tlaunch d a => Sys2Proof.Machine.execTlaunch d a s
  | .gexit => Sys2Proof.Machine.execGexit s
  | .groupExitComplete core slot => Sys2Proof.Machine.execGroupExitComplete core slot s
  | .tretire => Sys2Proof.Machine.execTretire s
  | .mloop a => Sys2Proof.Machine.execMloop a s
  | .mstore a => Sys2Proof.Machine.execMstore a s
  | .mzero acc stream => Sys2Proof.Machine.execMzero acc stream s
  | .mfence d => Sys2Proof.Machine.execMfence d s
  | .mwait a => Sys2Proof.Machine.execMwait a s
  | .matrixCommandComplete core cmd => Sys2Proof.Machine.execMatrixCommandComplete core cmd s
  | .bfqpost d a b => Sys2Proof.Machine.execBfqpost d a b s
  | .bfqwait a => Sys2Proof.Machine.execBfqwait a s
  | .batchFormTimeout die wid => Sys2Proof.Machine.execBatchFormTimeout die wid s
  | .batchComplete die batch => Sys2Proof.Machine.execBatchComplete die batch s
  | .copy d a => Sys2Proof.Machine.execCopy d a s
  | .gather d a => Sys2Proof.Machine.execGather d a s
  | .mcast d a => Sys2Proof.Machine.execMcast d a s
  | .coll d a => Sys2Proof.Machine.execColl d a s
  | .nmlaunch d a => Sys2Proof.Machine.execNmlaunch d a s
  | .engineCommandComplete cmd => Sys2Proof.Machine.execEngineCommandComplete cmd s
  | .collectiveStepComplete cmd members => Sys2Proof.Machine.execCollectiveStepComplete cmd members s
  | .jrnlAdd a b => Sys2Proof.Machine.execJrnlAdd a b s
  | .jrnlCommit a => Sys2Proof.Machine.execJrnlCommit a s
  | .jrnlDrop a => Sys2Proof.Machine.execJrnlDrop a s
  | .trap a => Sys2Proof.Machine.execTrap a s
  | .eret => Sys2Proof.Machine.execEret s
  | .bkpt => Sys2Proof.Machine.execBkpt s
  | .tlbfill a b => Sys2Proof.Machine.execTlbfill a b s
  | .tlbinv a b => Sys2Proof.Machine.execTlbinv a b s
  | .fload bank fn a => Sys2Proof.Machine.execFload bank fn a s
  | .setfmt a => Sys2Proof.Machine.execSetfmt a s
  | .rngseed a b => Sys2Proof.Machine.execRngseed a b s
  | .csrr d r => Sys2Proof.Machine.execCsrr d r s
  | .csrw a r => Sys2Proof.Machine.execCsrw a r s
  | .csrx d a r => Sys2Proof.Machine.execCsrx d a r s
  | .laneQueueScalarEffect => Sys2Proof.Machine.execLaneQueueScalarEffect s
  | .functionRegisterSwitch => Sys2Proof.Machine.execFunctionRegisterSwitch s
  | .fadd w => Sys2Proof.Machine.execFadd w s
  | .fsub w => Sys2Proof.Machine.execFsub w s
  | .fmul w => Sys2Proof.Machine.execFmul w s
  | .ffma w => Sys2Proof.Machine.execFfma w s
  | .fmin w => Sys2Proof.Machine.execFmin w s
  | .fmax w => Sys2Proof.Machine.execFmax w s
  | .fcmp w => Sys2Proof.Machine.execFcmp w s
  | .fsel w => Sys2Proof.Machine.execFsel w s
  | .fclass w => Sys2Proof.Machine.execFclass w s
  | .ftrunc w => Sys2Proof.Machine.execFtrunc w s
  | .fround w => Sys2Proof.Machine.execFround w s
  | .apply w => Sys2Proof.Machine.execApply w s
  | .applyd w => Sys2Proof.Machine.execApplyd w s
  | .apply2 w => Sys2Proof.Machine.execApply2 w s
  | .osmax w => Sys2Proof.Machine.execOsmax w s
  | .osmerge w => Sys2Proof.Machine.execOsmerge w s
  | .osnorm w => Sys2Proof.Machine.execOsnorm w s
  | .iadd w => Sys2Proof.Machine.execIadd w s
  | .isub w => Sys2Proof.Machine.execIsub w s
  | .imul w => Sys2Proof.Machine.execImul w s
  | .imulh w => Sys2Proof.Machine.execImulh w s
  | .imad w => Sys2Proof.Machine.execImad w s
  | .imin w => Sys2Proof.Machine.execImin w s
  | .imax w => Sys2Proof.Machine.execImax w s
  | .laneAnd w => Sys2Proof.Machine.execLaneAnd w s
  | .laneOr w => Sys2Proof.Machine.execLaneOr w s
  | .laneXor w => Sys2Proof.Machine.execLaneXor w s
  | .laneShl w => Sys2Proof.Machine.execLaneShl w s
  | .laneShr w => Sys2Proof.Machine.execLaneShr w s
  | .laneSar w => Sys2Proof.Machine.execLaneSar w s
  | .bfx w => Sys2Proof.Machine.execBfx w s
  | .bfi w => Sys2Proof.Machine.execBfi w s
  | .lanePopc w => Sys2Proof.Machine.execLanePopc w s
  | .laneClz w => Sys2Proof.Machine.execLaneClz w s
  | .brev w => Sys2Proof.Machine.execBrev w s
  | .icmp w => Sys2Proof.Machine.execIcmp w s
  | .isel w => Sys2Proof.Machine.execIsel w s
  | .mov w => Sys2Proof.Machine.execMov w s
  | .movi w => Sys2Proof.Machine.execMovi w s
  | .cvt w => Sys2Proof.Machine.execCvt w s
  | .qblk w => Sys2Proof.Machine.execQblk w s
  | .dqblk w => Sys2Proof.Machine.execDqblk w s
  | .fkey w => Sys2Proof.Machine.execFkey w s
  | .funkey w => Sys2Proof.Machine.execFunkey w s
  | .xbfly w => Sys2Proof.Machine.execXbfly w s
  | .xperm w => Sys2Proof.Machine.execXperm w s
  | .xbcast w => Sys2Proof.Machine.execXbcast w s
  | .xscan w => Sys2Proof.Machine.execXscan w s
  | .xred w => Sys2Proof.Machine.execXred w s
  | .vote w => Sys2Proof.Machine.execVote w s
  | .sample w => Sys2Proof.Machine.execSample w s
  | .lret w => Sys2Proof.Machine.execLret w s
  | .mand w => Sys2Proof.Machine.execMand w s
  | .mor w => Sys2Proof.Machine.execMor w s
  | .mnot w => Sys2Proof.Machine.execMnot w s
  | .mpop w => Sys2Proof.Machine.execMpop w s
  | .rand w => Sys2Proof.Machine.execRand w s
  | .vld w => Sys2Proof.Machine.execVld w s
  | .vst w => Sys2Proof.Machine.execVst w s
  | .vldv w => Sys2Proof.Machine.execVldv w s
  | .vstv w => Sys2Proof.Machine.execVstv w s
  | .vldm w => Sys2Proof.Machine.execVldm w s
  | .vstm w => Sys2Proof.Machine.execVstm w s
  | .vatom w => Sys2Proof.Machine.execVatom w s
  | .vatomv w => Sys2Proof.Machine.execVatomv w s
  | .vpref w => Sys2Proof.Machine.execVpref w s
  | .nmatom w => Sys2Proof.Machine.execNmatom w s
  | .nmfence w => Sys2Proof.Machine.execNmfence w s
  | .rpf w => Sys2Proof.Machine.execRpf w s
  | .accrd w => Sys2Proof.Machine.execAccrd w s
  | .accwr w => Sys2Proof.Machine.execAccwr w s
  | .ifWord w => Sys2Proof.Machine.execIfWord w s
  | .elseWord w => Sys2Proof.Machine.execElseWord w s
  | .endifWord w => Sys2Proof.Machine.execEndifWord w s
  | .loopany w => Sys2Proof.Machine.execLoopany w s
  | .breakif w => Sys2Proof.Machine.execBreakif w s
  | .endloop w => Sys2Proof.Machine.execEndloop w s
  | .exmr w => Sys2Proof.Machine.execExmr w s
  | .exmw w => Sys2Proof.Machine.execExmw w s
  | .pairFaddF32 p => Sys2Proof.Machine.execPairFaddF32 p s
  | .pairFsubF32 p => Sys2Proof.Machine.execPairFsubF32 p s
  | .pairFmulF32 p => Sys2Proof.Machine.execPairFmulF32 p s
  | .pairFmacF32 p => Sys2Proof.Machine.execPairFmacF32 p s
  | .pairFminF32 p => Sys2Proof.Machine.execPairFminF32 p s
  | .pairFmaxF32 p => Sys2Proof.Machine.execPairFmaxF32 p s
  | .pairFaddF16 p => Sys2Proof.Machine.execPairFaddF16 p s
  | .pairFsubF16 p => Sys2Proof.Machine.execPairFsubF16 p s
  | .pairFmulF16 p => Sys2Proof.Machine.execPairFmulF16 p s
  | .pairFmacF16 p => Sys2Proof.Machine.execPairFmacF16 p s
  | .pairIaddS32 p => Sys2Proof.Machine.execPairIaddS32 p s
  | .pairIsubS32 p => Sys2Proof.Machine.execPairIsubS32 p s
  | .pairAndB32 p => Sys2Proof.Machine.execPairAndB32 p s
  | .pairOrB32 p => Sys2Proof.Machine.execPairOrB32 p s
  | .pairXorB32 p => Sys2Proof.Machine.execPairXorB32 p s
  | .pairShlB32 p => Sys2Proof.Machine.execPairShlB32 p s
  | .pairShrB32 p => Sys2Proof.Machine.execPairShrB32 p s
  | .pairSarS32 p => Sys2Proof.Machine.execPairSarS32 p s
  | .pairIminS32 p => Sys2Proof.Machine.execPairIminS32 p s
  | .pairImaxS32 p => Sys2Proof.Machine.execPairImaxS32 p s
  | .pairMovB32 p => Sys2Proof.Machine.execPairMovB32 p s
  | .pairCvtF32S32 p => Sys2Proof.Machine.execPairCvtF32S32 p s
  | .pairCvtS32F32 p => Sys2Proof.Machine.execPairCvtS32F32 p s
  | .pairFkeyF32 p => Sys2Proof.Machine.execPairFkeyF32 p s
  | .pairXbflyB32 p => Sys2Proof.Machine.execPairXbflyB32 p s
  | .nld w => Sys2Proof.Machine.execNld w s
  | .nst w => Sys2Proof.Machine.execNst w s
  | .nfadd w => Sys2Proof.Machine.execNfadd w s
  | .nfmul w => Sys2Proof.Machine.execNfmul w s
  | .nfma w => Sys2Proof.Machine.execNfma w s
  | .nfmax w => Sys2Proof.Machine.execNfmax w s
  | .nfmin w => Sys2Proof.Machine.execNfmin w s
  | .napply w => Sys2Proof.Machine.execNapply w s
  | .ncvt w => Sys2Proof.Machine.execNcvt w s
  | .nscale w => Sys2Proof.Machine.execNscale w s
  | .natom w => Sys2Proof.Machine.execNatom w s
  | .nlock w => Sys2Proof.Machine.execNlock w s
  | .nunlock w => Sys2Proof.Machine.execNunlock w s
  | .nloopSet w => Sys2Proof.Machine.execNloopSet w s
  | .nloopStep w => Sys2Proof.Machine.execNloopStep w s
  | .nbr w => Sys2Proof.Machine.execNbr w s
  | .nend w => Sys2Proof.Machine.execNend w s
  | .nsignal w => Sys2Proof.Machine.execNsignal w s
  | .nmov w => Sys2Proof.Machine.execNmov w s
  | .niadd w => Sys2Proof.Machine.execNiadd w s
  | .ncmp w => Sys2Proof.Machine.execNcmp w s
  | .nsel w => Sys2Proof.Machine.execNsel w s
  | .nwait w => Sys2Proof.Machine.execNwait w s
  | .nwaitExpiry stack sdue => Sys2Proof.Machine.execNwaitExpiry stack sdue s
  | .nmProgramStart stack sdue => Sys2Proof.Machine.execNmProgramStart stack sdue s
  | .nmatomPerform stack n => Sys2Proof.Machine.execNmatomPerform stack n s
  | .depcntDecrement ctx index => Sys2Proof.Machine.execDepcntDecrement ctx index s
  | .almanacRecordWrite ctx index offset bytes => Sys2Proof.Machine.execAlmanacRecordWrite ctx index offset bytes s
  | .recordCheck ctx index => Sys2Proof.Machine.execRecordCheck ctx index s
  | .recordAging die level => Sys2Proof.Machine.execRecordAging die level s
  | .headBlocking die level => Sys2Proof.Machine.execHeadBlocking die level s
  | .placementStep => Sys2Proof.Machine.execPlacementStep s
  | .teamRetirement ctx index team => Sys2Proof.Machine.execTeamRetirement ctx index team s
  | .commitPublish ctx index => Sys2Proof.Machine.execCommitPublish ctx index s
  | .commitAbort ctx index => Sys2Proof.Machine.execCommitAbort ctx index s
  | .vigilReplay ctx index => Sys2Proof.Machine.execVigilReplay ctx index s
  | .vigilVerdict ctx index => Sys2Proof.Machine.execVigilVerdict ctx index s
  | .groupSwap core => Sys2Proof.Machine.execGroupSwap core s
  | .starvationFlag core slot => Sys2Proof.Machine.execStarvationFlag core slot s
  | .forcedSwap core => Sys2Proof.Machine.execForcedSwap core s
  | .dependenceResolved core slot => Sys2Proof.Machine.execDependenceResolved core slot s
  | .compaction core => Sys2Proof.Machine.execCompaction core s
  | .teamSave ctx index team => Sys2Proof.Machine.execTeamSave ctx index team s
  | .teamRestore ctx index team => Sys2Proof.Machine.execTeamRestore ctx index team s
  | .fpSubnormalAssist core slot => Sys2Proof.Machine.execFpSubnormalAssist core slot s
  | .walkRequest core req => Sys2Proof.Machine.execWalkRequest core req s
  | .pageRequestResponse who ok => Sys2Proof.Machine.execPageRequestResponse who ok s
  | .atsInvalidateRequest pasid va => Sys2Proof.Machine.execAtsInvalidateRequest pasid va s
  | .accessComplete core slot path n => Sys2Proof.Machine.execAccessComplete core slot path n s
  | .loadDataArrival core slot path n => Sys2Proof.Machine.execLoadDataArrival core slot path n s
  | .stackCacheWriteback core => Sys2Proof.Machine.execStackCacheWriteback core s
  | .batchTableSnapshot cluster ctx => Sys2Proof.Machine.execBatchTableSnapshot cluster ctx s
  | .scrubPass stack frame granule => Sys2Proof.Machine.execScrubPass stack frame granule s
  | .bloomFilterClear stack => Sys2Proof.Machine.execBloomFilterClear stack s
  | .stackSnapshotAck stack => Sys2Proof.Machine.execStackSnapshotAck stack s
  | .cutMarkerReceived flow => Sys2Proof.Machine.execCutMarkerReceived flow s
  | .shadowCopy frame => Sys2Proof.Machine.execShadowCopy frame s
  | .drainFrame frame => Sys2Proof.Machine.execDrainFrame frame s
  | .cutFailed => Sys2Proof.Machine.execCutFailed s
  | .fabricMessageArrival msg => Sys2Proof.Machine.execFabricMessageArrival msg s
  | .supplySagTrip die => Sys2Proof.Machine.execSupplySagTrip die s
  | .supplySagClear die => Sys2Proof.Machine.execSupplySagClear die s
  | .clockStepUp die => Sys2Proof.Machine.execClockStepUp die s
  | .sensorSample => Sys2Proof.Machine.execSensorSample s
  | .moduleReset selfTest boot => Sys2Proof.Machine.execModuleReset selfTest boot s
  | .attestationRequest nonce => Sys2Proof.Machine.execAttestationRequest nonce s
  | .createContext h ctx desc => Sys2Proof.Machine.execCreateContext h ctx desc s
  | .releaseContext h ctx => Sys2Proof.Machine.execReleaseContext h ctx s
  | .invalidateTranslations h ctx => Sys2Proof.Machine.execInvalidateTranslations h ctx s
  | .grantFrames h ctx frame count fmt => Sys2Proof.Machine.execGrantFrames h ctx frame count fmt s
  | .addPagePool h ctx frame count fmt => Sys2Proof.Machine.execAddPagePool h ctx frame count fmt s
  | .addSaveAreaPool h ctx frame count fmt => Sys2Proof.Machine.execAddSaveAreaPool h ctx frame count fmt s
  | .registerAlmanacRegion h ctx base records => Sys2Proof.Machine.execRegisterAlmanacRegion h ctx base records s
  | .placeBar2Window h base => Sys2Proof.Machine.execPlaceBar2Window h base s
  | .registerAuditArray h ctx base => Sys2Proof.Machine.execRegisterAuditArray h ctx base s
  | .registerBatchTable h ctx base entries snapshots => Sys2Proof.Machine.execRegisterBatchTable h ctx base entries snapshots s
  | .writeScopeTable h ctx first words => Sys2Proof.Machine.execWriteScopeTable h ctx first words s
  | .preempt h ctx task => Sys2Proof.Machine.execPreempt h ctx task s
  | .enableDistributorPreemption h ctx enable => Sys2Proof.Machine.execEnableDistributorPreemption h ctx enable s
  | .releaseSlot h core slot => Sys2Proof.Machine.execReleaseSlot h core slot s
  | .releaseCommandLocks h cmd => Sys2Proof.Machine.execReleaseCommandLocks h cmd s
  | .resetFlow h flow => Sys2Proof.Machine.execResetFlow h flow s
  | .setUpFlow h desc => Sys2Proof.Machine.execSetUpFlow h desc s
  | .setUpDomain h domain members flows => Sys2Proof.Machine.execSetUpDomain h domain members flows s
  | .equinoxArm h req => Sys2Proof.Machine.execEquinoxArm h req s
  | .equinoxDisarm h => Sys2Proof.Machine.execEquinoxDisarm h s
  | .equinoxAcknowledge h => Sys2Proof.Machine.execEquinoxAcknowledge h s
  | .setAge h die value => Sys2Proof.Machine.execSetAge h die value s
  | .setScrubPeriod h value => Sys2Proof.Machine.execSetScrubPeriod h value s
  | .setFilterSchedule h value => Sys2Proof.Machine.execSetFilterSchedule h value s
  | .setRepeatThreshold h value => Sys2Proof.Machine.execSetRepeatThreshold h value s
  | .setVigilExponent h cls value => Sys2Proof.Machine.execSetVigilExponent h cls value s
  | .migratePage h ctx va fmt => Sys2Proof.Machine.execMigratePage h ctx va fmt s
  | .readCapabilityBlock h => Sys2Proof.Machine.execReadCapabilityBlock h s
  | .readPhysicalMap h => Sys2Proof.Machine.execReadPhysicalMap h s
  | .readSensor h sensor => Sys2Proof.Machine.execReadSensor h sensor s
  | .illegalOpcode => Sys2Proof.Machine.execIllegalOpcode s
  | .fetchFault => Sys2Proof.Machine.execFetchFault s
  | .unknownMailboxOp h op => Sys2Proof.Machine.execUnknownMailboxOp h op s

end Sys2Proof.Machine
end

