-- ==== Sys2Proof/Machine/Inputs.lean ====
section
/-! DEFINITION. What reaches the module's storage from outside: bytes that others write (R411, R416), poison (R248) and bit errors
(R245, R246). -/

namespace Sys2Proof.Machine

/-! ### The codes of memory (R245, R246) -/

/-- What errors in a stored unit come to at its next read. -/
inductive Decay where
  | none | corrected | detected
  deriving DecidableEq, Repr

/-- The worst of some codewords, each given by its number of erroneous symbols, where a codeword corrects `fix` of them (log entry
94: more than it detects counts as detected). -/
def decayOf (fix : Nat) (l : List Nat) : Decay :=
  if l.any fun n => fix < n then .detected else if l.any fun n => 0 < n then .corrected else .none

/-- Erroneous symbols in each of `words` codewords: `at_` gives a bit's codeword and symbol. -/
def symbolErrors (words : Nat) (at_ : Nat → Nat × Nat) (bits : List Nat) : List Nat :=
  (List.range words).map fun w => (((bits.map at_).filter fun p => p.1 == w).map Prod.snd).eraseDups.length

/-- Bit errors in a stored granule, its bits numbered codeword by codeword (G0 to G2) or, in G3, pseudo-channel by pseudo-channel of 90
bytes (Table 10-2). -/
def granuleDecay (g : Granule) (bits : List Nat) : Decay :=
  match g with
  | .g0 => decayOf 1 (symbolErrors 4 (fun b => (b / 72, b % 72)) bits)
  | .g1 => decayOf 4 (symbolErrors 1 (fun b => (b / 576, b / 8)) bits)
  | .g2 => decayOf 8 (symbolErrors 1 (fun b => (b / 1152, b / 8)) bits)
  | .g3 => decayOf 1 (symbolErrors 90 (fun b => (b / 8 % 90, b / 720)) (bits.filter fun b => b < 5760))

/-- Bit errors in a vault or commit-window word, SEC-DED (72,64). -/
def wordDecay (bits : List Nat) : Decay := decayOf 1 (symbolErrors 1 (fun b => (b / 72, b)) bits)

/-- The errors that a unit shows, where its storage is coded so: a vault word, or a granule of a formatted frame. -/
def State.decay (s : State) (a : Nat) (bits : List Nat) : Decay :=
  if 2 ^ 56 ≤ a && a < 2 ^ 60 then wordDecay bits
  else if isDram a then
    match lookupKey (frameOf a) s.frames with
    | some g => granuleDecay g bits
    | none => .none
  else .none

/-- Bits that are wrong after some more have changed. -/
def toggled (old new : List Nat) : List Nat :=
  (old.filter fun b => !new.contains b) ++ new.eraseDups.filter fun b => !old.contains b

/-- What a unit with wrong bits shows at its next read (R246, R247). Under the poison mark a G3 granule's code still corrects, and a G0
granule or a word that is damaged no longer shows the mark's syndrome, so it reads as a new error; of G1 and G2 the manual does not say
which, a free choice (log entry 94). -/
def State.flawOf (s : State) (u : Nat) (poison : Bool) (bits : List Nat) : Option Flaw :=
  match s.decay u bits, poison with
  | .none, false => none
  | .none, true => some .poisoned
  | .corrected, false => some .correctable
  | .detected, _ => some .uncorrectable
  | .corrected, true =>
    if s.unitSize u = 512 then some .poisoned
    else if s.unitSize u = 64 || s.unitSize u = 128 then
      some (if Config.freeChoice s.tick (2 ^ 40 + u) % 2 = 0 then .poisoned else .uncorrectable)
    else some .uncorrectable

/-- Bits of a stored unit change, those of its check symbols and metadata among them; they add up with those that are wrong already. -/
def State.flip (s : State) (a : Nat) (bits : List Nat) : State :=
  let u := s.unitOf a
  let old := (lookupKey u s.marks).getD ⟨.correctable, [], false⟩
  let now := toggled old.bits bits
  match s.flawOf u old.poison now with
  | some k => { s with marks := sins u ⟨k, now, old.poison⟩ (serase u s.marks) }
  | none => { s with marks := serase u s.marks }

/-! ### Inputs -/

/-- A register of a group holds an uncorrectable error: the group halts (Table 10-1); in the walker the request ends (R223). -/
def State.registerError (s : State) (core slot : Nat) : State :=
  let g := s.groupAt core slot
  if !g.live then s
  else if g.mode = .walker then { s with cur := { s.cur with core := core, slot := slot } }.walkerTrap
  else s.haltGroup core slot false g.nextLane (s.badAt .uncorrectable 0)

/-- A peer asks for what had a sequence number of a flow, which is sent again (R417). -/
def State.sendAgain (s : State) (flow seq : Nat) : State :=
  let x := s.flowAt flow
  if x.setUp && !x.frozen then (match lookupKey seq x.sent with | some o => s.send o | none => s) else s

/-- A write from outside reaches memory beyond the module, or module DRAM through the BAR2 aperture, where no row of it is held; the host
has no key pair (R411, R229, R386). -/
def State.reaches (s : State) (a n : Nat) : Bool :=
  (List.range n).all (fun i => outlives (a + i)) || (s.inBar2 a n && (List.range n).all (fun i => isDram (a + i)) && !s.rowHeld a n 32 0)

/-- One input. -/
def State.input (s : State) : Input → State
  | .write a l =>
    if s.reaches a l.length then
      (((s.withKey none).writeCells [(a, l.length)] (cellsOf [(a, l)]) false).withKey s.cur.key)
    else s
  | .again flow seq => s.sendAgain flow seq
  | .flips a bits => s.flip a bits
  | .poison a => s.poisonRange a 1
  | .vreg core slot e =>
    let g := s.groupAt core slot
    if g.live then s.setGroupAt core slot { g with badV := g.badV ++ [e] } else s
  | .queue team q row lane =>
    match s.team? team with
    | some t => s.setTeam team { t with qbad := t.qbad ++ [(q, row, lane)] }
    | none => s
  | .acc core n => let c := s.coreAt core; s.setCore core { c with mx := c.mx.mark (n % 4) }
  | .arow core e => let c := s.coreAt core; s.setCore core { c with mx := { c.mx with bad := c.mx.bad ++ [e % 1024] } }
  | .slice core n => let c := s.coreAt core; s.setCore core { c with mx := { c.mx with bad := c.mx.bad ++ [n % 8 + 2 ^ 20] } }
  | .fn core k => let c := s.coreAt core; s.setCore core { c with fnBad := c.fnBad ++ [k] }
  | .sreg core slot => s.registerError core slot

/-- An input names units that the module has. -/
def Input.exists_ : Input → Bool
  | .vreg core slot _ => decide (core < Config.cores) && decide (slot < Config.slots)
  | .acc core _ => decide (core < Config.cores)
  | .arow core _ => decide (core < Config.cores)
  | .slice core _ => decide (core < Config.cores)
  | .fn core _ => decide (core < Config.cores)
  | .sreg core slot => decide (core < Config.cores) && decide (slot < Config.slots)
  | _ => true

/-- The inputs of a move, in their order. -/
def State.inputs (s : State) (l : List Input) : State := (l.filter Input.exists_).foldl State.input s

end Sys2Proof.Machine
end

