-- ==== Sys2Proof/Machine/Step.lean ====
section
/-! DEFINITION. One step of the module: the next move's stream issues its next word, or the next move's event happens. -/

namespace Sys2Proof.Machine

/-- The move of this step: the first planned one, or a free one (log entry 1). -/
def State.move (s : State) : Move :=
  match s.moves with
  | m :: _ => m
  | [] => nextMove s.tick

/-- The state in which the move acts: its cycles have passed, it is no longer planned, its inputs have come, and ATS invalidations whose
accesses have ended since are complete (R214). -/
def State.begin (s : State) : State :=
  { s with
    time := s.time + s.move.dt
    tick := s.tick + 1
    moves := s.moves.drop 1
    cur := { s.cur with
      late := s.move.late
      walker := s.move.walker
      unready := s.move.unready
      key := none
      stream := .scalar
      rowWait := false }
    dies := s.dies.map fun (p : Nat × Die) => (p.1, { p.2 with lag := p.2.lag + (16 - p.2.clock) * s.move.dt }) }.inputs s.move.inputs |>.serveAts

/-- The cause of a decode error in a group of some width. -/
def decodeCause (width : Nat) : DecodeError → Cause
  | .illegalOpcode => .illegalOpcode
  | .reservedField => .reservedField
  | .pairConflict => .pairConflict
  | .wrongFly d => if width ≤ d then .reservedField else .pairConflict

/-- Execute what the word decodes to. -/
def runDecoded (d : Decoded) (s : State) : Result :=
  match d with
  | .instr i => exec i s
  | .idle _ mreg => laneIdle mreg.toNat s
  | .reject .illegalOpcode => exec .illegalOpcode s
  | .reject e => rejectWord (decodeCause s.g.width e) s

/-- Fetch the word that the executing stream stands at, and execute it. A fetch that fails leaves the word to FETCH_FAULT. -/
def runWord (s : State) : Result :=
  match s.fetch with
  | (s1, .word w) => runDecoded (decodeStream s.cur.stream w) (s1.noteMask w)
  | (_, .fault _ _ _) => exec .fetchFault s
  | (s1, .protect va pa) => fetchProtected va pa s1
  | (s1, .bad c va pa) => fetchBad c va pa s1
  | (s1, .busy) => s1.fetchWaits (.miss s.streamWho.req) (.miss s.streamWho.req)
  | (s1, .held flat n) => s1.fetchWaits (.held flat n false) (.held ⟨false, false⟩ [(flat, n, false)])

/-- Take a stream's turn. -/
def runTurn (s : State) : Turn → Result
  | .word s1 => runWord s1
  | .effect i s1 => exec i s1
  | .settled s1 => .next s1
  | .nothing => .next s

/-- Point the module at a group, which reaches encrypted pages with its context's key pair; the walker uses none (R223, R229). -/
def State.atGroup (s : State) (core slot : Nat) : State :=
  let g := s.groupAt core slot
  let t := if g.mode = .walker then s.withKey none else s.asServed core g.ctx
  { t with cur := { t.cur with core := core, slot := slot } }

/-- Point the module at an SDUE, whose program does so with the launching context's. -/
def State.atSdue (s : State) (stack n : Nat) : State :=
  let s1 := { s with cur := { s.cur with stack := stack, sdue := n } }
  match s1.prog? with
  | some p => s1.asContext p.ctx
  | none => s1

/-- What still happens while the module is in reset: its next reset (R419). -/
def heldByReset : Instr → Bool
  | .moduleReset _ _ => false
  | _ => true

/-- Act. While the module is in reset nothing issues and no event but a reset happens (R419). -/
def State.act (s : State) (a : Agent) : Result :=
  match a with
  | .idle => .next s
  | .event i =>
    if !i.isEvent then .next s
    else if s.inReset && heldByReset i then .next s
    else exec i s
  | .scalar c k =>
    if Config.cores ≤ c || Config.slots ≤ k then .fault .noSuchUnit
    else if s.inReset then .next s
    else runTurn s (scalarTurn (s.atGroup c k))
  | .lane c k =>
    if Config.cores ≤ c || Config.slots ≤ k then .fault .noSuchUnit
    else if s.inReset then .next s
    else runTurn s (laneTurn (s.atGroup c k))
  | .retry c k =>
    if Config.cores ≤ c || Config.slots ≤ k then .fault .noSuchUnit
    else if s.inReset then .next s
    else runTurn s (retryTurn (s.atGroup c k))
  | .access c k n j =>
    if Config.cores ≤ c || Config.slots ≤ k then .fault .noSuchUnit
    else if s.inReset then .next s
    else .next ((s.atGroup c k).performLater n j)
  | .sdue k n =>
    if 32 ≤ k || 4 ≤ n then .fault .noSuchUnit
    else if s.inReset then .next s
    else runTurn s (sdueTurn (s.atSdue k n))

/-- One step. -/
def step (s : State) : Host.Outcome State Fault Refusal := s.begin.act s.move.who

/-- The leaf that `withFetchWord` maps: valid, user page, fetch, write and read allowed, frame 0. -/
def fetchLeaf : Word := 0xF3

/-- A group that has just been selected, standing at address 0. -/
def fetchGroup (lane : Bool) : Group :=
  { Group.init with
    st := .active
    em := widthMask 32
    run := if lane then some ⟨0, 1, [], 0⟩ else none }

/-- A near-memory program that has just started, standing at address 0. -/
def fetchProg : NmProg := ⟨0, 0, 0, 0, [], [], [], 0, [], 0, none, true, none⟩

/-- The state with an instruction placed where the next step fetches: in a group of core 0 for a scalar or a lane word, on
an SDUE of stack 0 for a near-memory word, with its page translated in the TLB, and with that stream's move next. -/
def State.withFetchWord (s : State) (nbits w : Nat) : State :=
  let n := if nbits ≤ 32 then 4 else if nbits ≤ 64 then 8 else 12
  let s1 := { s with mem := (List.range n).foldl (fun m i => sset 0 i (BitVec.ofNat 8 (w / 2 ^ (8 * i))) m) s.mem }
  let t : TlbEntry := ⟨0, 0, 16, fetchLeaf⟩
  if nbits ≤ 32 ∨ 64 < nbits then
    let c := s1.coreAt 0
    let s2 := (s1.setCore 0 { c with tlb := t :: c.tlb }).setGroupAt 0 0 (fetchGroup (64 < nbits))
    { s2 with moves := ⟨0, if nbits ≤ 32 then .scalar 0 0 else .lane 0 0, 0, false, 0, []⟩ :: s.moves }
  else
    let d := s1.dieAt 0
    let k := s1.stackAt 0
    let s2 := (s1.setDie 0 { d with tlb := t :: d.tlb }).setStack 0 { k with sdue := sins 0 fetchProg (serase 0 k.sdue) }
    { s2 with moves := ⟨0, .sdue 0 0, 0, false, 0, []⟩ :: s.moves }

end Sys2Proof.Machine
end

