-- ==== Sys2Proof/Safety.lean ====
section
/-! DEFINITION. Runs, the invariant that claims speak of, and the forms in which claims say what a word does and what it
leaves alone. -/

namespace Sys2Proof.Machine

/-- A run of steps that reaches a state without a fault or a refusal. -/
inductive Reaches : State → State → Prop where
  | here (s : State) : Reaches s s
  | next {s t u : State} (h : step s = .next t) (r : Reaches t u) : Reaches s u

/-- Memory keeps its canonical form: addresses strictly rising, and no byte listed that equals what an unlisted address
reads as. -/
def State.MemoryOk (s : State) : Prop := Memory.wf s.mem

/-- The result of a step is a next state, of which `p` holds. -/
def nextWith (r : Result) (p : State → Prop) : Prop := ∃ t, r = .next t ∧ p t

/-- Nothing but the executing group differs: every other group and every other part of the module is unchanged. -/
def onlyGroup (s t : State) : Prop :=
  t = { s with groups := t.groups }
    ∧ ∀ k, k ≠ 48 * s.cur.core + s.cur.slot → sget Group.init k t.groups = sget Group.init k s.groups

/-- What a scalar register word may change: sd, and the executing group's place (its pc, what its stream waits on, and the
stamps of its issue). Every other register, flag and part of the module is unchanged, and so is every byte of memory. -/
def scalarFrame (d : SReg) (s t : State) : Prop :=
  onlyGroup s t ∧ (∀ a, t.byteAt a = s.byteAt a)
    ∧ (∀ r, r ≠ d → t.g.sreg r = s.g.sreg r)
    ∧ t.g = { s.g with
        s := t.g.s
        spc := t.g.spc
        sWait := none
        lastIssue := s.now
        starved := none
        issued := true }

/-- The word completes: sd takes a value (s0 reads 0 whatever is written, R26), the pc goes to the next word, and nothing
else changes. -/
def scalarGives (i : Instr) (s : State) (d : SReg) (v : Word) : Prop :=
  nextWith (exec i s) fun t => t.g.sreg d = (if d = 0 then 0 else v) ∧ t.g.spc = s.g.spc + 4 ∧ scalarFrame d s t

/-- The word completes as a jump to `target` that writes no register but `d`. -/
def scalarJumps (i : Instr) (s : State) (d : SReg) (v target : Word) : Prop :=
  nextWith (exec i s) fun t => t.g.sreg d = (if d = 0 then 0 else v) ∧ t.g.spc = target ∧ scalarFrame d s t

/-- The checks that R236 makes of a scalar access, passed: no range lock covers it, a stack access lies at or above SLIM, the
address is a multiple of the size, and its page is translated (leaving the state `s1`) to a flat address in DRAM, a vault, a peer, or
host memory that the host does not refuse. -/
def scalarChecksOk (s s1 : State) (x : ScalarAcc) (flat loc : Nat) : Prop :=
  s.g.mode ≠ .walker ∧ s.rangeLocked (dieOf s.cur.core) s.g.ctx false x.addr.toNat x.n (x.kind != 0) = false
    ∧ (x.stack = true → s.g.slimS ≤ x.addr) ∧ x.addr.toNat % x.n = 0
    ∧ s.translate s.scalarWho x.kind x.addr.toNat = (s1, .ok flat loc) ∧ loc ≠ 1 ∧ (loc = 3 → Config.hostRefuses s.tick = false)

/-- The checks are passed, and nothing holds the access back: no earlier access of the group, no row of an SDUE (R139, R171). -/
def scalarAccessOk (s s1 : State) (x : ScalarAcc) (o : Order) (flat loc : Nat) : Prop :=
  scalarChecksOk s s1 x flat loc ∧ s1.mayPerform s1.g s1.g.inflight s1.g.scalarSpot o flat x.n (x.kind != 0) = true

/-- The scalar access that a load or store word makes, and the words themselves with their accesses (R285, R287). -/
def scalarAcc (s : State) (a : SReg) (z : Size) (imm : BitVec 12) (kind : Nat) : ScalarAcc :=
  ⟨s.g.sreg a + imm.signExtend 64, (match z with | .b => 1 | .h => 2 | .w => 4 | .d => 8), kind, a == 63⟩
def scalarForms (s : State) (d a b : SReg) (z : Size) (imm : BitVec 12) (op : AtomOp) (sc : BitVec 5) : List (Instr × ScalarAcc) :=
  [(.lds d a z imm, scalarAcc s a z imm 0), (.ldz d a z imm, scalarAcc s a z imm 0), (.st d a z imm, scalarAcc s a z imm 1),
   (.satomW d a b op sc, ⟨s.g.sreg a, 4, 2, a == 63⟩), (.satomD d a b op sc, ⟨s.g.sreg a, 8, 2, a == 63⟩)]

/-- The word comes to the checks of its access: a counted one finds a place in its counter (R148), and an atomic is not of a commit
task (R256). -/
def reachesChecks (s : State) (x : ScalarAcc) : Prop :=
  (x.kind ≠ 0 → s.g.full x.path = false) ∧ (x.kind = 2 → s.inCommit s.g = false)

/-- What a write of `n` bytes at a flat address may change beside the executing group: those bytes, marks and keys of their units, and
the logs of marks that they meet; on a page of a peer, the flow that carries them. -/
def writeFrame (flat n : Nat) (s t : State) : Prop :=
  (∀ p, (p < flat ∨ flat + n ≤ p) → t.byteAt p = s.byteAt p)
    ∧ t = { s with
        groups := t.groups
        mem := t.mem
        eqx := t.eqx
        marks := t.marks
        cipher := t.cipher
        tags := t.tags
        flows := t.flows
        out := t.out
        hbmStacks := t.hbmStacks
        events := t.events }
    ∧ (flowOf flat = none → t.flows = s.flows ∧ t.out = s.out)
    ∧ (s.marks = [] → t.hbmStacks = s.hbmStacks ∧ t.events = s.events)

/-- What a storing scalar word may change beside the bytes that it stores: its access joins those in flight, and its stream moves on. -/
def storeFrame (flat n : Nat) (path : Path) (s t : State) : Prop :=
  writeFrame flat n s t
    ∧ (∀ k, k ≠ 48 * s.cur.core + s.cur.slot → sget Group.init k t.groups = sget Group.init k s.groups)
    ∧ t.g = { s.g with
        s := t.g.s
        spc := s.g.spc + 4
        sWait := none
        lastIssue := s.now
        starved := none
        issued := true
        inflight := t.g.inflight }
    ∧ ∃ a : Access, a.path = path ∧ a.todo = [] ∧ t.g.inflight = s.g.inflight ++ [a]

/-- The new value that R287 gives an atomic on 32 or 64 bits. -/
def atomicNew {w : Nat} (op : AtomOp) (old v c : BitVec w) : BitVec w :=
  match op with
  | .add => old + v
  | .min => if v.slt old then v else old
  | .max => if old.slt v then v else old
  | .and => old &&& v
  | .or => old ||| v
  | .xor => old ^^^ v
  | .swap => v
  | .cas => if old = c then v else old

/-- The group is of user mode and its context has a supervisor handler: a trap enters it (R231). -/
def handled (s : State) : Prop := s.g.mode = .user ∧ handlerOf (s.descOn s.cur.core s.g.ctx) ≠ 0

/-- What a trap's entry leaves alone: the module beside the executing group, memory, the scalar, uniform and vector
registers, the masks, the sticky flags and the accesses in flight, which come before the handler. -/
def trapFrame (s t : State) : Prop :=
  onlyGroup s t ∧ (∀ a, t.byteAt a = s.byteAt a) ∧ t.g.s = s.g.s ∧ t.g.k = s.g.k ∧ t.g.v = s.g.v ∧ t.g.m = s.g.m
    ∧ t.g.flags = s.g.flags ∧ t.g.inflight = s.g.passJoin.inflight ∧ t.g.rngkey = s.g.rngkey ∧ t.g.slim = s.g.slim
    ∧ t.g.ret = s.g.ret ∧ t.g.fmt = s.g.fmt

/-- The word completes at a join: sd takes a value, the pc goes to the next word, and nothing else changes; the lane accesses so far
come before what follows (R161). -/
def joinGives (i : Instr) (s : State) (d : SReg) (v : Word) : Prop :=
  nextWith (exec i s) fun t => t.g.sreg d = (if d = 0 then 0 else v) ∧ t.g.spc = s.g.spc + 4 ∧ scalarFrame d (s.modG Group.passJoin) t

/-- The scalar word waits, unissued: what it waits on is noted, and the pc, the scalar registers and memory stay. -/
def waits (i : Instr) (s : State) (w : Wait) : Prop :=
  nextWith (exec i s) fun t => t.g.sWait = some w ∧ t.g.spc = s.g.spc ∧ t.g.s = s.g.s ∧ ∀ p, t.byteAt p = s.byteAt p

/-- What writing a control register may change: that register, and for STARVE the core. The pc goes to the next word. -/
def csrFrame (r : BitVec 12) (x : Word) (s t : State) : Prop :=
  t = { s with groups := t.groups, cores := t.cores } ∧ (r ≠ 0x100 → t.cores = s.cores)
    ∧ (∀ c, c ≠ s.cur.core → t.coreAt c = s.coreAt c)
    ∧ t.coreAt s.cur.core = { s.coreAt s.cur.core with starve := if r = 0x100 then x else (s.coreAt s.cur.core).starve }
    ∧ (∀ k, k ≠ 48 * s.cur.core + s.cur.slot → sget Group.init k t.groups = sget Group.init k s.groups)
    ∧ t.g = { s.g with
        s := t.g.s
        spc := s.g.spc + 4
        sWait := none
        lastIssue := s.now
        starved := none
        issued := true
        epcs := if r = 0x002 then x else s.g.epcs
        epcl := if r = 0x003 then x else s.g.epcl
        faultva := if r = 0x004 then x else s.g.faultva
        faultmask := if r = 0x005 then x &&& widthMask s.g.width else s.g.faultmask
        faultprog := if r = 0x006 then x else s.g.faultprog
        fmtS := if r = 0x010 then x else s.g.fmtS
        rngkeyS := if r = 0x011 then x else s.g.rngkeyS
        slimS := if r = 0x012 then x else s.g.slimS
        lq := s.g.lq ++ (if r = 0x010 then [.csr .fmt x] else if r = 0x011 then [.csr .rngkey x]
          else if r = 0x012 then [.csr .slim x] else []) }

/-- What ERET gives back (R238): user mode at EPCS, s1 to s7, EM, FMT and the stacks of the shadow; where EPCL was not rewritten the
queue, the running block and the abandoned words, the trapping lane word first, in the lanes of FAULTMASK. The rest of the group stays. -/
def comesBack (h : Shadow) (s t : State) : Prop :=
  t.g.mode = .user ∧ t.g.spc = s.g.epcs ∧ t.g.shadow = none
    ∧ (∀ r : SReg, 1 ≤ r.toNat → r.toNat ≤ 7 → t.g.sreg r = sget 0 r.toNat h.s)
    ∧ (∀ r : SReg, 7 < r.toNat → t.g.sreg r = s.g.sreg r)
    ∧ t.g.em = h.em ∧ t.g.fmt = h.fmt ∧ t.g.rstack = h.rstack ∧ t.g.ret = h.ret
    ∧ (s.g.epcl = h.epcl → t.g.lq = h.lq ∧ t.g.run = h.run ∧ t.g.lpc = h.lpc
        ∧ t.g.abandoned = (if h.laneTrap then
            [{ h.word with mask := some s.g.faultmask, prog := (s.g.faultprog.extractLsb' 0 10).toNat }] else []) ++ h.abandoned)
    ∧ (s.g.epcl ≠ h.epcl → h.laneTrap = true → ∃ w, t.g.abandoned = [w] ∧ w.lpc = s.g.epcl ∧ w.mask = some s.g.faultmask)
    ∧ t.g.v = s.g.v ∧ t.g.k = s.g.k ∧ t.g.m = s.g.m ∧ t.g.flags = s.g.flags ∧ t.g.inflight = s.g.passJoin.inflight
    ∧ t.g.waitingWords = s.g.waitingWords.map (fun w => { w with left := 0 }) ∧ t.g.windows = []

/-- ERET asks the host for the page of FAULTVA (R240): where the context enables page requests the group parks until the response, and
one request more is out or waits; else the group is back in its handler with PAGE_FAULT of kind 8. -/
def asksHost (s u t : State) : Prop :=
  (∀ p, t.byteAt p = u.byteAt p) ∧ t.g.mode = .supervisor ∧ t.g.shadow = s.g.shadow ∧ t.g.v = s.g.v
    ∧ (u.prien s.cur.core s.g.ctx = true → t.g.st = .parked ∧ t.priOut.length + t.priQueue.length = u.priOut.length + u.priQueue.length + 1
        ∧ t.g.pageReq = some ⟨if s.g.status.getLsbD 2 then .lane s.cur.core s.cur.slot else .scalar s.cur.core s.cur.slot, s.g.faultva,
            s.g.faultprog.extractLsb' 16 2, false, s.g.ctx⟩)
    ∧ (u.prien s.cur.core s.g.ctx = false → onlyGroup u t ∧ t.g.cause = 0x10 ∧ t.g.faultprog.extractLsb' 12 4 = 8
        ∧ t.g.faultprog.extractLsb' 24 2 = 0 ∧ t.g.spc = handlerOf (s.descOn s.cur.core s.g.ctx)
        ∧ t.g.em = if s.g.status.getLsbD 2 then s.g.faultmask else 1)

/-- A group whose lane stream has nothing left: no queued word or effect, and no word that waits for a consumer. -/
def lanesEmpty (g : Group) : Prop := g.idleLanes = true ∧ g.waitingWords = []

/-- The lanes of some groups as they stand after REGROUP (R47): the `q`-th lane of the team's lanes in ascending order of key, then of
group index, then of lane, comes to lane `q mod width` of the group at place `q div width`. A lane is a group's place in `l` and its number. -/
def regroupSorted (l : List (Nat × Nat × Group)) (width alloc : Nat) (after : Nat → Group) : Prop :=
  ∃ ord : List (Nat × Nat),
    ord.Perm ((List.range l.length).flatMap fun p => (List.range width).map fun i => (p, i))
    ∧ ord.Pairwise (fun x y => ∀ p q, l[x.1]? = some p → l[y.1]? = some q →
        let kx := (p.2.2.vreg p.2.1 x.2).toNat
        let ky := (q.2.2.vreg q.2.1 y.2).toNat
        kx < ky ∨ (kx = ky ∧ (p.2.2.gidx < q.2.2.gidx ∨ (p.2.2.gidx = q.2.2.gidx ∧ x.2 < y.2))))
    ∧ ∀ j i x p, j < l.length → i < width → ord[j * width + i]? = some x → l[x.1]? = some p →
        (∀ r, r < alloc → (after j).vreg r i = p.2.2.vreg r x.2)
        ∧ ∀ k, 1 ≤ k → k ≤ 15 → ((after j).mreg k).getLsbD i = (p.2.2.mreg k).getLsbD x.2

/-- An engine command has been issued: it is among the outstanding ones with its kind, pack and token, counted on ENG, its
handle is in sd, and nothing else of the group, and no byte of memory, has changed. -/
def commandIssued (kind : Nat) (pack : List Word) (d : SReg) (s t : State) : Prop :=
  (∃ c : ECmd, t.ecmds = s.ecmds ++ [c] ∧ c.kind = kind ∧ c.pack = pack ∧ c.tok = s.g.nextTok ∧ c.team = s.g.team ∧ c.gidx = s.g.gidx
      ∧ c.core = s.cur.core ∧ c.ctx = s.g.ctx ∧ c.frozen = false ∧ c.pageReq = none
      ∧ ∃ x : Access, x.path = .eng ∧ x.cmd = some c.id ∧ t.g.inflight = s.g.passJoin.inflight ++ [x])
    ∧ t.g.sreg d = (if d = 0 then 0 else BitVec.ofNat 64 (2 ^ 62 + s.g.nextTok))
    ∧ t.g.nextTok = (if s.g.nextTok = 2 ^ 21 - 1 then 1 else s.g.nextTok + 1)
    ∧ t.g.spc = s.g.spc + 4 ∧ (∀ r, r ≠ d → t.g.sreg r = s.g.sreg r) ∧ t.g.v = s.g.v ∧ t.g.status = s.g.status
    ∧ t.mem = s.mem ∧ (∀ p, t.byteAt p = s.byteAt p)
    ∧ ∀ k, k ≠ 48 * s.cur.core + s.cur.slot → sget Group.init k t.groups = sget Group.init k s.groups

/-- No other resident group has the team and index of the executing one. -/
def aloneInTeam (s : State) : Prop :=
  s.g.st ≠ .free ∧ ∀ p ∈ s.groups, p.2.team = s.g.team → p.2.gidx = s.g.gidx → p.2.st ≠ .free → p.1 = 48 * s.cur.core + s.cur.slot

/-! ### Lane words -/

/-- A lane word can execute: its decode checks pass, no register that it names waits for data, every field that names a queue
finds its rows, no element that it reads holds an error, and a queue that it pushes has room. `q` are then the team's queues after the pops, `rows` the popped rows
by field, and `pf` is INV where a broken team's queue gave NaNs. -/
def laneStart (s : State) (u : Uses) (c : Consumer) (mreg : BitVec 4) (fields : List VReg) (q : Store (List (List W32))) (rows : List (List W32))
    (pf : Flags) : Prop :=
  s.laneChecks u (c.cmask.getLsbD 1 && s.g.width == 64 && bitsOf c.route 2 3 == 7) (c.cmask.getLsbD 1 || c.cmask.getLsbD 3) = none
    ∧ s.mustWait u = false ∧ s.badLanes u fields mreg.toNat = 0
    ∧ popFields (rowsPer s.g.width) (s.teamBroken s.g.team) fields s.queues = some (q, rows, pf)
    ∧ (c.cmask.getLsbD 2 = true → (sget [] (bitsOf c.route 0 2) q).length + rowsPer s.g.width ≤ 8)

/-- What the word reads with; one that has issued and waited for its consumer draws as when it issued. -/
def laneEnv (s : State) (rows : List (List W32)) (mreg : BitVec 4) : Env :=
  ⟨s.g.withDraws s.cur.lane, s.cur.lane, rows, s.active mreg.toNat, s.nprodOf⟩

/-- What a lane word does: the new value of register r in an active lane k, what it gives A rows and queues, new values of
masks, flags, return values, and whether the launch's draw and rounding counters advance. -/
structure LaneEffect where
  reg : Nat → Nat → Option W32
  row : Nat → Option W32
  mask : Nat → Option Word
  flags : Flags
  ret : List Word
  draw : Bool
  sdraw : Bool

/-- Nothing. -/
def LaneEffect.none : LaneEffect := ⟨fun _ _ => Option.none, fun _ => Option.none, fun _ => Option.none, 0, [], false, false⟩

/-- A result for every consumer: the register vd, or the pair vd, vd + 1, where the word's consumers name the register file. -/
def destEffect (c : Consumer) (val : Nat → Word) (flags : Flags) : LaneEffect :=
  { LaneEffect.none with
    reg := fun r k =>
      if c.cmask.getLsbD 0 && r == c.vd then some ((val k).setWidth 32)
      else if c.cmask.getLsbD 0 && c.pair && r == c.vd + 1 then some ((val k >>> 32).setWidth 32)
      else Option.none
    row := fun k => some ((val k).setWidth 32)
    flags := flags }

/-- The lane word has its effect in the active lanes `act`, delivered to every consumer; the stream moves on; and nothing else
of the module changes: no other register, mask or lane, no byte of memory, no other group. -/
def laneDone (s t : State) (c : Consumer) (act : Word) (e : LaneEffect) (q : Store (List (List W32))) (pf : Flags) : Prop :=
  (∀ r k, k < 64 → t.g.vreg r k = (if act.getLsbD k then (e.reg r k).getD (s.g.vreg r k) else s.g.vreg r k))
    ∧ (∀ m, t.g.mreg m = ((e.mask m).getD (s.g.mreg m)) &&& widthMask s.g.width)
    ∧ t.g.status = s.g.status ||| (((e.flags ||| pf).setWidth 64) <<< 16)
    ∧ t.g.ret = s.g.ret ++ e.ret
    ∧ t.g.draw = (if e.draw && s.cur.lane.rng.isNone then s.g.draw + 1 else s.g.draw)
    ∧ t.g.sdraw = (if e.sdraw && s.cur.lane.rng.isNone then (s.g.sdraw + 1) % 2 ^ 31 else s.g.sdraw)
    ∧ (let base := bitsOf c.route 5 1 * 256 + 32 * bitsOf c.route 2 3
       (∀ k, k < 64 → sget 0 (base + k) (t.coreAt s.cur.core).mx.arow
          = (if c.cmask.getLsbD 1 && act.getLsbD k then (e.row k).getD (sget 0 (base + k) (s.coreAt s.cur.core).mx.arow)
             else sget 0 (base + k) (s.coreAt s.cur.core).mx.arow))
       ∧ (∀ j, (j < base ∨ base + 64 ≤ j) → sget 0 j (t.coreAt s.cur.core).mx.arow = sget 0 j (s.coreAt s.cur.core).mx.arow)
       ∧ (∀ k, k ≠ s.cur.core → t.coreAt k = s.coreAt k)
       ∧ t.coreAt s.cur.core = { s.coreAt s.cur.core with
           mx := { (s.coreAt s.cur.core).mx with arow := (t.coreAt s.cur.core).mx.arow, bad := (t.coreAt s.cur.core).mx.bad } })
    ∧ (∀ tm, s.teamOf s.g = some tm → ∃ tm', t.teamOf s.g = some tm' ∧ tm' = { tm with q := tm'.q, qbad := tm'.qbad }
        ∧ ∀ i, sget [] i tm'.q = sget [] i q ++ (if c.cmask.getLsbD 2 && i == bitsOf c.route 0 2 then
            (List.range (rowsPer s.g.width)).map fun h => (List.range 32).map fun j =>
              if act.getLsbD (32 * h + j) then (e.row (32 * h + j)).getD 0 else 0
          else []))
    ∧ (∀ k, k ≠ s.g.team → t.team? k = s.team? k)
    ∧ (s.cur.src = .stream → t.g.lpc = s.g.lpc + 12)
    ∧ (∀ a, t.byteAt a = s.byteAt a)
    ∧ t = { s with groups := t.groups, teams := t.teams, cores := t.cores }
    ∧ (∀ k, k ≠ 48 * s.cur.core + s.cur.slot → sget Group.init k t.groups = sget Group.init k s.groups)
    ∧ t.g = { s.g with
        v := t.g.v
        badV := t.g.badV
        m := t.g.m
        status := t.g.status
        ret := t.g.ret
        draw := t.g.draw
        sdraw := t.g.sdraw
        lpc := t.g.lpc
        run := t.g.run
        windows := t.g.windows
        waitingWords := t.g.waitingWords
        abandoned := t.g.abandoned
        lastIssue := s.now
        starved := none
        issued := true
        lWait := none }

/-- The word completes with its effect wherever it can execute and `ok` holds of what it reads. -/
def laneGivesIf (i : Instr) (s : State) (u : Uses) (c : Consumer) (mreg : BitVec 4) (fields : List VReg) (ok : Env → Prop)
    (f : Env → LaneEffect) : Prop :=
  ∀ q rows pf, laneStart s u c mreg fields q rows pf → ok (laneEnv s rows mreg) →
    nextWith (exec i s) fun t => laneDone s t c (s.active mreg.toNat) (f (laneEnv s rows mreg)) q pf

/-- The word completes with its effect wherever it can execute. -/
def laneGives (i : Instr) (s : State) (u : Uses) (c : Consumer) (mreg : BitVec 4) (fields : List VReg) (f : Env → LaneEffect) : Prop :=
  laneGivesIf i s u c mreg fields (fun _ => True) f

/-- Sources and destination have the width of the word's type: registers `srcs`, masks `masks`, and a value for each lane. -/
def laneValues (i : Instr) (s : State) (w : L3) (pair : Bool) (srcs : List VReg) (masks : List Nat) (val : Env → Nat → Word)
    (flags : Env → Flags) : Prop :=
  laneGives i s (L3uses w pair (srcs.map fun r => (r, pair)) masks) (L3consumer w pair) w.mreg srcs
    fun e => destEffect (L3consumer w pair) (val e) (flags e)

/-- New values of a mask register in the active lanes; every other bit of it is kept (R328). -/
def maskEffect (e : Env) (d : Nat) (p : Nat → Bool) (flags : Flags) : LaneEffect :=
  { LaneEffect.none with
    mask := fun m => if m = d then some ((e.g.mreg d &&& ~~~e.act) ||| (maskOf (e.actives.filter p) &&& e.act)) else Option.none
    flags := flags }

/-- What a control word leaves alone: every register of the group but EM, FMT and the reconvergence stack, its queues, every
byte of memory, and every other group. -/
def controlFrame (s t : State) : Prop :=
  t = { s with groups := t.groups, teams := t.teams } ∧ (∀ k, t.team? k = s.team? k)
    ∧ (∀ k, k ≠ 48 * s.cur.core + s.cur.slot → sget Group.init k t.groups = sget Group.init k s.groups)
    ∧ (∀ a, t.byteAt a = s.byteAt a) ∧ t.g.s = s.g.s ∧ t.g.v = s.g.v ∧ t.g.k = s.g.k ∧ t.g.ret = s.g.ret ∧ t.g.lq = s.g.lq
    ∧ t.g.status = s.g.status ∧ t.g.spc = s.g.spc ∧ t.g.st = s.g.st ∧ t.g.inflight = s.g.inflight

/-- What a lane memory word reads with. -/
def memEnv (s : State) (w : LM) (rs : List (List W32)) : Env := ⟨s.g.withDraws s.cur.lane, s.cur.lane, rs, s.active w.mreg.toNat, s.nprodOf⟩

/-- A lane memory word performs all its accesses: its decode checks pass, no register waits, its counter is below 63, a queue
that it names has rows, no element that it reads holds an error, nothing is forbidden in a commit task, the checks before translation
pass, every access of the active lanes lands (`good`, in the state `s1` that translating them leaves), the host refuses none, and
nothing holds one back: no earlier access of the group, no row of an SDUE. -/
def laneAccessOk (s s1 : State) (w : LM) (u : Uses) (kind : Nat) (multi : Bool) (data : List VReg)
    (rows : Env → List (List LaneAcc)) (good : List Landed) (q : Store (List (List W32))) (rs : List (List W32)) (pf : Flags) : Prop :=
  s.laneChecks u false false = none ∧ s.mustWait u = false ∧ s.g.full (lmPath w) = false
    ∧ popFields (rowsPer s.g.width) (s.teamBroken s.g.team) (data ++ [w.vo]) s.queues = some (q, rs, pf)
    ∧ s.badLanes u (data ++ [w.vo]) w.mreg.toNat = 0
    ∧ s.forbidden (lmPath w) kind = false ∧ s.accessChecks (lmPath w) kind (rows (memEnv s w rs)).flatten = none
    ∧ (if multi then (s.keepOffsets w (memEnv s w rs)).landRows (lmPath w) kind (rows (memEnv s w rs))
       else s.land (lmPath w) kind (rows (memEnv s w rs)).flatten) = (s1, .ok good false [])
    ∧ s1.overflows (lmPath w) kind good = none
    ∧ (∀ x ∈ good, x.2.2 = 3 → Config.hostRefuses s1.tick = false)
    ∧ (∀ x ∈ good, s1.mayPerform s1.g s1.g.inflight s1.g.laneSpot (lmOrder w kind multi) x.2.1 x.1.n (kind != 0) = true)
    ∧ s1.cur.late = 0

/-- The word has issued: its access is in flight on its path with the elements that wait for data, its flags are set, `nm` atomics more
are pending, the popped rows have left their queues, its stream has moved on, and nothing else of the group and of the teams and no
other group has changed. -/
def accessIssued (s t : State) (path : Path) (writes : List (Nat × W32)) (flags : Flags) (nm : Nat) (q : Store (List (List W32))) : Prop :=
  (∃ a : Access, t.g.inflight = s.g.inflight ++ [a] ∧ a.path = path ∧ a.writes = writes ∧ a.todo = [] ∧ a.bad = none ∧ a.done = false)
    ∧ (s.cur.src = .stream → t.g.lpc = s.g.lpc + 12)
    ∧ (∀ k, k ≠ 48 * s.cur.core + s.cur.slot → sget Group.init k t.groups = sget Group.init k s.groups)
    ∧ (∀ k, k ≠ s.g.team → t.team? k = s.team? k)
    ∧ (∀ tm, s.team? s.g.team = some tm → ∃ tm', t.team? s.g.team = some tm' ∧ tm' = { tm with q := q, qbad := tm'.qbad })
    ∧ t.g = { s.g with
        inflight := t.g.inflight
        status := s.g.status ||| ((flags.setWidth 64) <<< 16)
        nmPending := s.g.nmPending + nm
        lpc := t.g.lpc
        run := t.g.run
        windows := t.g.windows
        waitingWords := t.g.waitingWords
        abandoned := t.g.abandoned
        lastIssue := s.now
        starved := none
        issued := true
        lWait := none }

/-- What a storing lane word may change of the module beside its group and its team's queues: memory with its marks and keys, the
logs of marks that it meets, and on a page of a peer the flow that carries the write. -/
def laneWrites (good : List Landed) (s t : State) : Prop :=
  t = { s with
      groups := t.groups
      teams := t.teams
      mem := t.mem
      eqx := t.eqx
      marks := t.marks
      cipher := t.cipher
      tags := t.tags
      flows := t.flows
      out := t.out
      hbmStacks := t.hbmStacks
      events := t.events }
    ∧ ((∀ x ∈ good, flowOf x.2.1 = none) → t.flows = s.flows ∧ t.out = s.out)
    ∧ (s.marks = [] → t.hbmStacks = s.hbmStacks ∧ t.events = s.events)

/-- The agent that acts reads the byte as it was written: its unit of module DRAM is as the agent’s own key pair has written it, or zero
since its frame was formatted; for an agent without one, in the clear (R229). -/
def readable (s : State) (a : Nat) : Prop :=
  match s.cur.key with
  | some k => isDram a = true → s.keyedBy k (a / 128) = true
  | none => ∀ x, lookupKey (a / 128) s.cipher = some x → x = ⟨none, none⟩

/-- Accesses that share no byte. -/
def apart (l : List Landed) : Prop :=
  l.Pairwise fun x y => x.2.1 + x.1.n ≤ y.2.1 ∨ y.2.1 + y.1.n ≤ x.2.1

/-! ### Near-memory programs -/

/-- Element j of a wide register of a program, by its type (R382). -/
def wideAt (p : NmProg) (r : Nat) (t : EType) (j : Nat) : Nat :=
  ofBytes ((List.range (t.bits / 8)).map fun i => sget 0 (512 * r + j * (t.bits / 8) + i) p.w)

/-- Elements of a type in a wide register. -/
def wideCount (t : EType) : Nat := 512 / (t.bits / 8)

/-- The word completes: the executing SDUE’s program goes on at `npc`, of which `ok` holds; nothing of the module but memory with its
marks, keys and logs, a peer’s flow and what the SDUE holds differs from `base`, and no other SDUE’s program, nor another stack’s programs,
atomics and locked rows. -/
def nmGoes (i : Instr) (s base : State) (npc : Word) (ok : State → NmProg → Prop) : Prop :=
  nextWith (exec i s) fun t =>
    (∃ p', t.prog? = some p' ∧ p'.npc = npc ∧ p'.waiting = none ∧ ok t p')
      ∧ t = { base with
          hbmStacks := t.hbmStacks
          mem := t.mem
          eqx := t.eqx
          marks := t.marks
          cipher := t.cipher
          tags := t.tags
          flows := t.flows
          out := t.out
          events := t.events }
      ∧ (∀ k, k ≠ base.cur.stack → (t.stackAt k).sdue = (base.stackAt k).sdue ∧ (t.stackAt k).queue = (base.stackAt k).queue
          ∧ (t.stackAt k).atoms = (base.stackAt k).atoms ∧ (t.stackAt k).rows = (base.stackAt k).rows)
      ∧ ∀ n, n ≠ base.cur.sdue → lookupKey n (t.stackAt base.cur.stack).sdue = lookupKey n (base.stackAt base.cur.stack).sdue

/-- Memory with its marks, keys and logs is as in `base`, and nothing has left the module. -/
def quiet (base t : State) : Prop :=
  t.mem = base.mem ∧ t.marks = base.marks ∧ t.eqx = base.eqx ∧ t.cipher = base.cipher ∧ t.tags = base.tags ∧ t.flows = base.flows ∧ t.out = base.out
    ∧ t.events = base.events ∧ (∀ k, k ≠ base.cur.stack → t.stackAt k = base.stackAt k) ∧ ∀ a, t.byteAt a = base.byteAt a

/-- What a writing word leaves alone beside memory: a peer’s flow where no piece lies there, and the logs where nothing is marked. -/
def nmWrites (l : List Piece) (base t : State) : Prop :=
  ((∀ y ∈ l, flowOf y.flat = none) → t.flows = base.flows ∧ t.out = base.out)
    ∧ (base.marks = [] → t.events = base.events ∧ ∀ k, k ≠ base.cur.stack → t.stackAt k = base.stackAt k)

/-- Every wide register but `d` keeps its bytes. -/
def wideKept (p p' : NmProg) (d : Nat) : Prop := ∀ r i, r ≠ d → i < 512 → sget 0 (512 * r + i) p'.w = sget 0 (512 * r + i) p.w

/-- A word of wide registers gives element j of register d the value `val j`, for the first `n` elements, and zero after them;
its flags join the flag word; memory and the program’s other state stay. -/
def nmValues (i : Instr) (s : State) (p : NmProg) (d : Nat) (t : EType) (n : Nat) (val : Nat → Nat) (flags : Nat → Flags) : Prop :=
  nmGoes i s s (p.npc + 8) fun u q =>
    q = { p with npc := p.npc + 8, count := p.count + 1, waiting := none, w := q.w, flags := p.flags ||| Flags.join ((List.range n).map flags) }
      ∧ (∀ j, j < wideCount t → wideAt q d t j = if j < n then val j % 2 ^ t.bits else 0)
      ∧ wideKept p q d ∧ quiet s u

/-! ### Records -/

/-- Record `index` of a context is `r`: it stands at flat address `a`, 64-byte aligned, the device can reach it with the context's key
pair, no SDUE holds its row, no write is queued, and nothing in the module is marked bad. -/
def recordAt (s : State) (ctx index a : Nat) (r : BitVec 512) : Prop :=
  index < (s.ctxAt ctx).almRecords ∧ s.recordVa ctx index % 64 = 0 ∧ s.deviceFlat ctx (s.recordVa ctx index) = some a
    ∧ r = BitVec.ofNat 512 (s.readN a 64) ∧ (∀ i, i < 64 → readable (s.asContext ctx) (a + i)) ∧ s.marks = []
    ∧ s.heldFor a 64 = false ∧ s.eqx.queued = []

/-- The record at `a` after a write of its first eight bytes, the only ones written: of it `p` holds, and every other byte of
memory is as it was. -/
def recordBecomes (s t : State) (a : Nat) (p : BitVec 512 → Prop) : Prop :=
  p (BitVec.ofNat 512 (t.readN a 64)) ∧ ∀ q, (q < a ∨ a + 8 ≤ q) → t.byteAt q = s.byteAt q

/-- A record keeps every field but DEPCNT, STATE, RETRIES’ tries and CAUSE. -/
def recordKept (r q : BitVec 512) : Prop :=
  recKind q = recKind r ∧ recPrio q = recPrio r ∧ recClass q = recClass r ∧ recRetry q = recRetry r ∧ recNotify q = recNotify r
    ∧ q.extractLsb' 64 448 = r.extractLsb' 64 448

/-- No SDUE holds a row. -/
def noRows (s : State) : Prop := ∀ k ∈ s.hbmStacks, k.2.rows = []

/-- The event leaves `v`, or nothing of it where an access of the device’s own meets a held row. -/
def unlessWaits (s v t : State) : Prop := (v.cur.rowWait = s.cur.rowWait → t = v) ∧ (v.cur.rowWait ≠ s.cur.rowWait → t = s)

/-! ### The mailbox -/

/-- A command as the host writes it: header, OP, the context whose order it keeps, and the rest of its operands (R413). -/
structure MbCmd where
  hdr : MbHdr
  op : Nat
  ctx : Option Nat
  ops : MbOperands

/-- OP, context and operands of the commands (Tables 20-2 and 20-3). -/
def mbCmd (s : State) : Instr → Option MbCmd
  | .createContext h ctx d => some ⟨h, 1, some ctx, inBuffer h (toBytes 128 d.toNat)⟩
  | .releaseContext h ctx => some ⟨h, 2, some ctx, s.inArgs⟩
  | .invalidateTranslations h ctx => some ⟨h, 3, some ctx, s.inArgs⟩
  | .grantFrames h ctx _ _ _ => some ⟨h, 4, some ctx, s.inArgs⟩
  | .addPagePool h ctx _ _ _ => some ⟨h, 4, some ctx, s.inArgs⟩
  | .addSaveAreaPool h ctx _ _ _ => some ⟨h, 4, some ctx, s.inArgs⟩
  | .registerAlmanacRegion h ctx _ _ => some ⟨h, 5, some ctx, s.inArgs⟩
  | .placeBar2Window h _ => some ⟨h, 5, none, s.inArgs⟩
  | .registerAuditArray h ctx _ => some ⟨h, 5, some ctx, s.inArgs⟩
  | .registerBatchTable h ctx _ _ _ => some ⟨h, 5, some ctx, s.inArgs⟩
  | .writeScopeTable h ctx _ l => some ⟨h, 6, some ctx, inBuffer h (l.flatMap fun w => toBytes 4 w.toNat)⟩
  | .preempt h ctx _ => some ⟨h, 7, some ctx, s.inArgs⟩
  | .enableDistributorPreemption h ctx _ => some ⟨h, 7, some ctx, s.inArgs⟩
  | .releaseSlot h _ _ => some ⟨h, 8, none, s.inArgs⟩
  | .releaseCommandLocks h _ => some ⟨h, 8, none, s.inArgs⟩
  | .resetFlow h _ => some ⟨h, 8, none, s.inArgs⟩
  | .setUpFlow h d => some ⟨h, 9, none, inBuffer h (toBytes 72 d.toNat)⟩
  | .setUpDomain h _ _ _ =>
    some ⟨h, 10, none, inBuffer h ((List.range (min h.len.toNat 1024)).map fun i => Config.freeByte s.tick i)⟩
  | .equinoxArm h r => some ⟨h, 11, none, inBuffer h (toBytes 64 r.toNat)⟩
  | .equinoxDisarm h => some ⟨h, 11, none, s.inArgs⟩
  | .equinoxAcknowledge h => some ⟨h, 11, none, s.inArgs⟩
  | .setAge h _ _ => some ⟨h, 12, none, s.inArgs⟩
  | .setScrubPeriod h _ => some ⟨h, 12, none, s.inArgs⟩
  | .setFilterSchedule h _ => some ⟨h, 12, none, s.inArgs⟩
  | .setRepeatThreshold h _ => some ⟨h, 12, none, s.inArgs⟩
  | .setVigilExponent h _ _ => some ⟨h, 12, none, s.inArgs⟩
  | .migratePage h ctx _ _ => some ⟨h, 13, some ctx, s.inArgs⟩
  | .readCapabilityBlock h => some ⟨h, 14, none, s.inArgs⟩
  | .readPhysicalMap h => some ⟨h, 14, none, s.inArgs⟩
  | .readSensor h _ => some ⟨h, 14, none, s.inArgs⟩
  | .unknownMailboxOp h op => some ⟨h, op.toNat, none, s.inArgs⟩
  | _ => none

/-- The slot is free, or holds this command, taken before. -/
def MbCmd.placed (c : MbCmd) (s : State) : Prop :=
  ((s.slot c.hdr).own = false ∧ ∀ q ∈ s.inbox, q.1 ≠ c.hdr.slot % 16) 
    ∨ ((s.slot c.hdr).holds c.hdr c.op c.ctx = true ∧ ∃ q ∈ s.inbox, q.1 = c.hdr.slot % 16)

/-- It is also the command’s turn: no earlier command of its context is unfinished. -/
def MbCmd.ready (c : MbCmd) (s : State) : Prop := c.placed s ∧ s.mbBehind (c.hdr.slot % 16) c.ctx = false

/-- What stands in the slot before the controller acts: what it took before, or what the host has written now, which leaves the other
bytes of the operand buffer. -/
def MbCmd.before (c : MbCmd) (s : State) : MbResult :=
  let r := s.slot c.hdr
  if r.own then r else { r with
    args := c.ops.args
    buffer := r.over c.ops.buffer }

/-- The slot holds OP to TAG and ARGS as written; the controller has written RESULT and VALUE and cleared OWN, and where it gives something
back it has written that from the start of the operand buffer; it has written no other slot (Table 20-2). -/
def MbCmd.answered (c : MbCmd) (s t : State) (result value : Nat) (back : Option (List Byte)) : Prop :=
  lookupKey (c.hdr.slot % 16) t.mailbox
      = some ⟨BitVec.ofNat 8 c.op, c.ctx.getD 0 % 64, c.hdr.tag, (c.before s).args, false, BitVec.ofNat 8 result, BitVec.ofNat 48 value,
        (c.before s).over back⟩
    ∧ (∀ k, k ≠ c.hdr.slot % 16 → lookupKey k t.mailbox = lookupKey k s.mailbox)
    ∧ t.inbox = s.inbox.filter fun q => q.1 != c.hdr.slot % 16

/-- The command ends, answered, in a state of which `p` holds. -/
def mbEnds (i : Instr) (s : State) (result value : Nat) (back : Option (List Byte)) (p : State → Prop) : Prop :=
  ∃ c, mbCmd s i = some c ∧ (c.hdr.rz = 0 → c.ready s → nextWith (exec i s) fun t => c.answered s t result value back ∧ p t)

/-- The command cannot finish yet: the controller has taken it, and it has no effect. -/
def mbStays (i : Instr) (s : State) : Prop :=
  ∃ c, mbCmd s i = some c ∧ (c.hdr.rz = 0 → c.ready s → nextWith (exec i s) fun t => t = s.mbTake c.hdr c.op c.ctx c.ops)

/-- The command is done: RESULT 0, no event, and `p` of the state that it leaves. -/
def mbDoes (i : Instr) (s : State) (p : State → Prop) : Prop :=
  mbEnds i s 0 0 none fun t => t.events = s.events ∧ p t

/-- The command is turned away with a RESULT and an event that names its TAG, and changes nothing else. -/
def mbRefuses (i : Instr) (result : Nat) (s : State) : Prop :=
  ∃ c, mbCmd s i = some c ∧ (c.hdr.rz = 0 ∨ result ≠ 1 → c.ready s → nextWith (exec i s) fun t => c.answered s t result 0 none
    ∧ t = { s with
        mailbox := t.mailbox
        inbox := t.inbox
        events := s.events ++ [.refused c.hdr.tag c.op] })

/-- A command that only sets something: memory, groups and cores stay. -/
def mbSets (i : Instr) (s : State) (p : State → Prop) : Prop :=
  mbDoes i s fun t => t.mem = s.mem ∧ t.groups = s.groups ∧ t.cores = s.cores ∧ p t

/-- The frames of a run are zero and formatted; every other byte is as it was. -/
def framesCleared (s t : State) (frame count : Nat) (fmt : Granule) : Prop :=
  (∀ f, frame ≤ f → f < frame + count → lookupKey f t.frames = some fmt ∧ ∀ i, i < 65536 → t.byteAt (f * 65536 + i) = 0)
    ∧ ∀ a, (frameOf a < frame ∨ frame + count ≤ frameOf a) → t.byteAt a = s.byteAt a

end Sys2Proof.Machine
end

