-- ==== Sys2Proof/WellFormed.lean ====
section
/-! DEFINITION. Well-formed instructions: those whose fields satisfy the rules of their entries. -/

namespace Sys2Proof

/-- An instruction whose word, if it has one, decodes to it: every field at a value its entry accepts (R50, R55 to R59, R64
to R70, R329, R361, R376, R380). -/
def Instr.wf (i : Instr) : Bool := legal i

end Sys2Proof
end

