-- ==== Sys2Proof/Certificates/Slice0/Obligations.lean ====
section
/-! DEFINITION. The statements for the provers. Each docstring names the rules of spec/ that it formalises. -/

open Sys2Proof Sys2Proof.Machine

/-- For every well-formed instruction that has a word (every constructor that is not an event, every operand at every value its fields can hold), the decoder of its word size reads from the encoded word exactly that instruction. -/
def Obligations.EncodeDecodes : Prop :=
  ∀ i : Instr, i.wf = true → encode i ≠ .event → decodeEncoded (encode i) = some (.instr i)

/-- Whenever the scalar, the lane or the near-memory decoder reads an instruction from a word, that instruction is well-formed and its encoding is the word: no bit of a decoded word is ignored, and unused fields are zero. -/
def Obligations.DecodingLosesNoBit : Prop :=
  (∀ (w : BitVec 32) (i : Instr), decodeScalar w = .instr i → encode i = .scalar w ∧ i.wf = true)
  ∧ (∀ (w : BitVec 96) (i : Instr), decodeLane w = .instr i → encode i = .lane w ∧ i.wf = true)
  ∧ (∀ (w : BitVec 64) (i : Instr), decodeNm w = .instr i → encode i = .nm w ∧ i.wf = true)

/-- Words printed in the manual beside their assembly lines, of each word size and each format (SU, SB and SJ of Table 11-3 among them), decode to those instructions. -/
def Obligations.WordsOfTheManual : Prop :=
  decodeTableWord 32 0x00720906 = some (.divz 7 8 9)
  ∧ decodeTableWord 32 0x0441461C = some (.sel 4 5 6 7)
  ∧ decodeTableWord 32 0x24518FFF = some (.slti 5 6 0xFFF)
  ∧ decodeTableWord 32 0x40524FFC = some (.lds 5 9 .b 0xFFC)
  ∧ decodeTableWord 32 0x505248E5 = some (.satomD 5 9 8 .cas 5)
  ∧ decodeTableWord 32 0x28500013 = some (.lhi 5 0x00013)
  ∧ decodeTableWord 32 0x684157FD = some (.bcLt 4 5 0x7FD)
  ∧ decodeTableWord 32 0x63FFFFFE = some (.b 0x3FFFFFE)
  ∧ decodeTableWord 32 0x64000010 = some (.call 16)
  ∧ decodeTableWord 32 0x80200040 = some (.lissue 2 0x40)
  ∧ decodeTableWord 32 0xC8000006 = some (.mzero 2 1)
  ∧ decodeTableWord 32 0xF461E011 = some (.csrx 6 7 0x011)
  ∧ decodeTableWord 96 0x018020100500000004000002 = some (.fcmp ⟨2, 4, 5, 0, 0, 0, 0, 0, 1, 0, .f32, 0, 2⟩)
  ∧ decodeTableWord 96 0xC10283A4200000204438014F = some (.vldm ⟨40, 3, 656, 2, 0, 0, 1, 1, 1, 0, .b32, 0x14F⟩)
  ∧ decodeTableWord 96 0xF0001810008041040901_4060 = some (.pairFmulF32 ⟨⟨8, 1, 2, 0⟩, some (.iadd, ⟨9, 5, 6, 0⟩), 0, 0⟩)
  ∧ decodeTableWord 64 0x14040001BD800000 = some (.nfma ⟨0, 1, 0, 0, .f32, 1, 0xBD800000⟩)
  ∧ decodeTableWord 64 0x38000010_0000FFFC = some (.nloopStep ⟨0, 0, 0, .f32, 16, 0, 0xFFFC⟩)
  ∧ decodeTableWord 64 0x4400000000000005 = some (.nsignal ⟨0, 0, .f32, 0, 5⟩)

/-- Scalar op6 values, lane op10 values and near-memory op6 values outside the maps are ILLEGAL_OPCODE; a non-zero unused field is RESERVED_FIELD; a listed op7 in the slot of the other class is PAIR_CONFLICT. Each is shown on one word. -/
def Obligations.UndefinedWordsRejected : Prop :=
  decodeScalar 0xFFFFFFFF = .reject .illegalOpcode
  ∧ decodeScalar (0x0441461C ||| 1) = .reject .illegalOpcode
  ∧ decodeScalar (0x84000000 ||| 1) = .reject .reservedField
  ∧ decodeScalar 0x18410FC3 = .reject .reservedField
  ∧ decodeLane (0x00B : BitVec 96) = .reject .reservedField
  ∧ decodeLane ((0x00B : BitVec 10) ++ (0 : BitVec 86)) = .reject .illegalOpcode
  ∧ decodePair ((0xF : BitVec 4) ++ (0 : BitVec 10) ++ (0x10 : BitVec 7) ++ (0 : BitVec 34) ++ (0x40 : BitVec 7) ++ (0 : BitVec 34)) = .reject .illegalOpcode
  ∧ decodePair ((0xF : BitVec 4) ++ (0 : BitVec 10) ++ (0x41 : BitVec 7) ++ (0 : BitVec 34) ++ (0x02 : BitVec 7) ++ (0 : BitVec 34)) = .reject .pairConflict
  ∧ decodeNm 0xFC00000000000000 = .reject .illegalOpcode
  ∧ decodeNm 0x4000000000000001 = .reject .reservedField

/-- After reset TIME is 0, no group has a launch: a slot’s state is FREE, s0 to s63, EM, STATUS and the trap registers CAUSE, EPCS, EPCL, FAULTVA, FAULTMASK and FAULTPROG read 0 (what a slot holds before any launch is the model’s choice, log entry 5), FMT is 0x200; STARVE is 0x1000 (R196); AGE is 2^16 on each die and each clock stands at full speed; the scrub period is 24, the REPEAT threshold 16; no context, team, grid, flow, domain, frame or cut exists, and no mark, lock, queue entry, event or translation (for what the manual gives no reset value, the model’s choice, log entry 3). That an unlisted byte of memory reads 0, and that reset lists none, is the model’s choice (log entry 2). -/
def Obligations.ResetState : Prop :=
  State.reset.time = 0
  ∧ (∀ c k, (State.reset.groupAt c k).st = .free ∧ (∀ r, (State.reset.groupAt c k).sreg r = 0)
      ∧ (State.reset.groupAt c k).em = 0 ∧ (State.reset.groupAt c k).status = 0 ∧ (State.reset.groupAt c k).cause = 0
      ∧ (State.reset.groupAt c k).epcs = 0 ∧ (State.reset.groupAt c k).epcl = 0 ∧ (State.reset.groupAt c k).faultva = 0
      ∧ (State.reset.groupAt c k).faultmask = 0 ∧ (State.reset.groupAt c k).faultprog = 0
      ∧ (State.reset.groupAt c k).fmt = 0x200 ∧ (State.reset.groupAt c k).mode = .user)
  ∧ (∀ c, (State.reset.coreAt c).starve = 0x1000 ∧ (State.reset.coreAt c).walk = none ∧ (State.reset.coreAt c).tlb = [])
  ∧ (∀ d, (State.reset.dieAt d).age = 65536 ∧ (State.reset.dieAt d).clock = 16 ∧ (State.reset.dieAt d).sag = false
      ∧ (State.reset.dieAt d).tlb = [] ∧ (State.reset.dieAt d).locks = [] ∧ ∀ n, (State.reset.dieAt d).queue n = [])
  ∧ State.reset.scrubPeriod = 24 ∧ State.reset.repeatAt = 16
  ∧ (∀ c, (State.reset.ctxAt c).created = false) ∧ (∀ f, (State.reset.flowAt f).setUp = false)
  ∧ State.reset.domains = [] ∧ State.reset.frames = [] ∧ State.reset.marks = []
  ∧ State.reset.events = [] ∧ State.reset.mem = []
  ∧ State.reset.teams = [] ∧ State.reset.grids = [] ∧ State.reset.eqx.st = .idle ∧ State.reset.inReset = false
  ∧ ∀ a, State.reset.byteAt a = 0

/-- The reset state satisfies the invariant that memory keeps its canonical form. That memory is a list in one canonical form over one space of flat addresses, and that an unlisted byte reads 0, are the model’s choices (log entries 2 and 14). -/
def Obligations.ResetMemoryCanonical : Prop :=
  State.reset.MemoryOk

/-- No instruction word and no event of the opcode table stops the machine: exec answers a next state for each of them in every state. Where an entry raises an exception, that is the exception’s entry. That an event whose conditions do not hold does nothing is the model’s choice (log entry 15). -/
def Obligations.ExecAlwaysAnswers : Prop :=
  ∀ (i : Instr) (s : State), ∃ t, exec i s = .next t

/-- A step never refuses, and it faults exactly when the move names a core from 2048 up, a slot from 48 up, a stack from 32 up or an SDUE from 4 up (Table 0-1, R17, R378). -/
def Obligations.StepStopsOnlyForAbsentUnits : Prop :=
  ∀ s : State, (∀ r, step s ≠ .refused r) ∧
    ((∃ f, step s = .fault f) ↔
      match s.move.who with
      | .scalar c k | .lane c k | .retry c k | .access c k _ _ => 2048 ≤ c ∨ 48 ≤ k
      | .sdue k n => 32 ≤ k ∨ 4 ≤ n
      | .event _ | .idle => False)

/-- When the move is a stream of a unit that the module has, not in reset, and that stream may issue (a group ACTIVE whose class lets it and which is not draining, and before which no other ACTIVE group of the core with a ready word goes; a lane block not at its end and no abandoned word before it; an SDUE whose program has started and waits for no page), and the bytes fetched at its pc decode to an instruction, the step is exec of that instruction at the state in which the move’s cycles have passed and that stream executes. Where an ACTIVE group of the core with a ready word is older, or is starved and the executing one is not, the word does not issue in that cycle. -/
def Obligations.StepRunsTheDecodedWord : Prop :=
  (∀ (s s2 : State) (c k w : Nat) (i : Instr), s.move.who = .scalar c k → c < 2048 → k < 48 → s.inReset = false →
    let s0 := s.begin.atGroup c k
    let s1 : State := { s0 with cur := { s0.cur with stream := .scalar, src := .stream, mreg := 0 } }
    s0.mayIssue = true → s0.g.exiting = false → s0.g.stopped = false → s0.g.awaitsAtomic = false → s0.goesFirst s0.scalarReady = true →
    s1.fetch = (s2, .word w) → decodeBits 32 w = .instr i →
    step s = exec i (s2.noteMask w))
  ∧ (∀ (s : State) (c k j : Nat), s.move.who = .scalar c k → c < 2048 → k < 48 → s.inReset = false → j < 47 → j ≠ k →
    let s0 := s.begin.atGroup c k
    let older := s0.groupAt c j
    older.st = .active → s0.cur.unready.getLsbD j = false → s0.classLets older = true → s0.scalarReady older = true →
    ((older.starved ≠ none ∧ s0.g.starved = none) ∨ (older.starved = none ∧ s0.g.starved = none ∧ older.age < s0.g.age)) →
    step s = .next s.begin)
  ∧ (∀ (s s2 : State) (c k w : Nat) (i : Instr) (b : Block), s.move.who = .lane c k → c < 2048 → k < 48 → s.inReset = false →
    let s0 := s.begin.atGroup c k
    s0.mayIssue = true → s0.goesFirst s0.laneWordReady = true →
    s0.g.stopped = false → s0.g.abandoned = [] → s0.g.run = some b → s0.g.lpc ≠ b.stop →
    ((s0.setG s0.g).atLane (s0.g.wordAt s0.g.lpc b.k) .stream).fetch = (s2, .word w) →
    decodeBits 96 w = .instr i →
    step s = exec i (s2.noteMask w))
  ∧ (∀ (s s2 : State) (k n w : Nat) (i : Instr) (p : NmProg), s.move.who = .sdue k n → k < 32 → n < 4 → s.inReset = false →
    let s0 := s.begin.atSdue k n
    s0.prog? = some p → p.pageReq = none → p.loaded = true → p.count < 2 ^ 32 →
    ({ s0 with cur := { s0.cur with stream := .sdue, mreg := 0 } } : State).fetch = (s2, .word w) →
    decodeBits 64 w = .instr i →
    step s = exec i (s2.noteMask w))

/-- When a word does not straddle a 64 KiB page, its page is translated, no SDUE holds its row, its bytes carry no mark and the host does not refuse the access, fetching it gives the little-endian number of its bytes at the translated address, as the group’s key pair shows them; otherwise a failing translation makes the fetch fail at that byte. The walker’s words are read at their physical addresses. That a fetch from a tier page reads it directly, as from any other location, and that the walker’s words lie at physical addresses modulo 2^52, are the model’s choices (log entries 11 and 12). -/
def Obligations.FetchReadsTheWord : Prop :=
  ∀ (s s1 : State) (flat loc : Nat), s.cur.stream = .scalar →
    (s.g.mode = .walker → s.fetch = (s, .word (s.readN (s.g.spc.toNat % 2 ^ 52) 4)))
    ∧ (s.g.mode ≠ .walker → s.g.spc.toNat % 65536 ≤ 65532 →
        (s.translate s.streamWho 3 s.g.spc.toNat = (s1, .ok flat loc) → s1.heldFor flat 4 = false → (loc = 3 → Config.hostRefuses s.tick = false) →
          s1.checkRead flat 4 = (s1, none) →
          s.fetch = (s1, .word ((s1.seen flat).toNat + 256 * (s1.seen (flat + 1)).toNat + 65536 * (s1.seen (flat + 2)).toNat
            + 16777216 * (s1.seen (flat + 3)).toNat)))
        ∧ ∀ k l, s.translate s.streamWho 3 s.g.spc.toNat = (s1, .fault k l) → s.fetch = (s1, .fault k l s.g.spc.toNat))

/-- A scalar or lane word that decodes to no instruction takes the trap of its cause (ILLEGAL_OPCODE, RESERVED_FIELD, PAIR_CONFLICT); a near-memory word ends the SDUE’s program with that cause. Where the fetch fails translation or permission, FETCH_FAULT is taken in that stream with FAULTVA the first failing byte, FAULTPROG holding the kind, the level and access kind 3, and FAULTMASK 0 for the scalar stream. -/
def Obligations.RejectedAndFailedWords : Prop :=
  (∀ (s : State) (e : DecodeError),
    (s.cur.stream = .scalar → runDecoded (.reject e) s = .next (s.trapEntry false (decodeCause s.g.width e) ⟨none, 0, 0⟩)
      ∧ exec .illegalOpcode s = .next (s.trapEntry false .illegalOpcode ⟨none, 0, 0⟩))
    ∧ (s.cur.stream = .lane → runDecoded (.reject e) s = s.laneReject (decodeCause s.g.width e) s.cur.mreg
      ∧ exec .illegalOpcode s = s.laneReject .illegalOpcode s.cur.mreg)
    ∧ (s.cur.stream = .sdue → runDecoded (.reject e) s = .next (s.progFail (decodeCause s.g.width e).code)
      ∧ exec .illegalOpcode s = .next (s.progFail 0x01)))
  ∧ (∀ (s s1 : State) (k l va : Nat), s.fetch = (s1, .fault k l va) →
    (s.cur.stream = .scalar → exec .fetchFault s = .next (s1.trapEntry false .fetchFault ⟨some (BitVec.ofNat 64 va), 0, faultProg k l 3 0 0⟩))
    ∧ (s.cur.stream = .lane →
        exec .fetchFault s = .next (s1.trapEntry true .fetchFault ⟨some (BitVec.ofNat 64 va), s1.active 0, faultProg k l 3 0 0⟩))
    ∧ (s.cur.stream = .sdue → exec .fetchFault s = .next (s1.progFault k 0 va)))

/-- For every state and operands, each of the 23 three-register ALU words answers a next state in which sd holds the value of Table 11-1 (0 where sd is s0), the pc is the next word, every other register, flag, special register and byte of memory is unchanged. -/
def Obligations.ScalarThreeRegisterResults : Prop :=
  ∀ (s : State) (d a b : SReg),
    let x := s.g.sreg a
    let y := s.g.sreg b
    let n := (y &&& 63).toNat
    scalarGives (.add d a b) s d (x + y) ∧ scalarGives (.sub d a b) s d (x - y)
    ∧ scalarGives (.mul d a b) s d (BitVec.ofNat 64 (x.toNat * y.toNat))
    ∧ scalarGives (.mulh d a b) s d (((x.signExtend 128) * (y.signExtend 128)).extractLsb' 64 64)
    ∧ scalarGives (.mulhz d a b) s d (((x.setWidth 128) * (y.setWidth 128)).extractLsb' 64 64)
    ∧ scalarGives (.div d a b) s d (if y = 0 then 0xFFFFFFFFFFFFFFFF else x.sdiv y)
    ∧ scalarGives (.divz d a b) s d (if y = 0 then 0xFFFFFFFFFFFFFFFF else x / y)
    ∧ scalarGives (.rem d a b) s d (if y = 0 then x else x.srem y)
    ∧ scalarGives (.remz d a b) s d (if y = 0 then x else x % y)
    ∧ scalarGives (.and d a b) s d (x &&& y) ∧ scalarGives (.or d a b) s d (x ||| y)
    ∧ scalarGives (.xor d a b) s d (x ^^^ y) ∧ scalarGives (.andn d a b) s d (x &&& ~~~y)
    ∧ scalarGives (.shl d a b) s d (x <<< n) ∧ scalarGives (.shr d a b) s d (x >>> n)
    ∧ scalarGives (.sar d a b) s d (x.sshiftRight n)
    ∧ scalarGives (.rotr d a b) s d ((x >>> n) ||| (x <<< (64 - n)))
    ∧ scalarGives (.min d a b) s d (if y.slt x then y else x) ∧ scalarGives (.max d a b) s d (if x.slt y then y else x)
    ∧ scalarGives (.minz d a b) s d (if y.ult x then y else x) ∧ scalarGives (.maxz d a b) s d (if x.ult y then y else x)
    ∧ scalarGives (.slt d a b) s d (if x.toInt < y.toInt then 1 else 0)
    ∧ scalarGives (.sltz d a b) s d (if x.toNat < y.toNat then 1 else 0)

/-- CLZ, POPC, the extensions (R281), SEL (R282), the immediate words (R283), LHI and PCHI (R284) answer a next state with the stated value in sd and nothing else changed. CLZ is stated by the bit it finds, POPC by the sum of the bits. MOVK (R292) writes kN from sa and nothing else. -/
def Obligations.ScalarOneSourceResults : Prop :=
  ∀ (s : State) (d a b c : SReg) (i : BitVec 12) (n : BitVec 6) (j : BitVec 20) (k : BitVec 4),
    let x := s.g.sreg a
    scalarGives (.clz d a) s d (BitVec.ofNat 64 ((List.range 64).filter fun p => x.toNat < 2 ^ p).length)
    ∧ scalarGives (.popc d a) s d (BitVec.ofNat 64 ((List.range 64).map fun p => (x.getLsbD p).toNat).sum)
    ∧ scalarGives (.sextB d a) s d ((x.extractLsb' 0 8).signExtend 64) ∧ scalarGives (.sextH d a) s d ((x.extractLsb' 0 16).signExtend 64)
    ∧ scalarGives (.sextW d a) s d ((x.extractLsb' 0 32).signExtend 64)
    ∧ scalarGives (.zextB d a) s d (x &&& 0xFF) ∧ scalarGives (.zextH d a) s d (x &&& 0xFFFF)
    ∧ scalarGives (.zextW d a) s d (x &&& 0xFFFFFFFF)
    ∧ scalarGives (.sel d a b c) s d (if s.g.sreg c = 0 then s.g.sreg b else x)
    ∧ scalarGives (.addi d a i) s d (x + i.signExtend 64) ∧ scalarGives (.andi d a i) s d (x &&& i.signExtend 64)
    ∧ scalarGives (.ori d a i) s d (x ||| i.signExtend 64) ∧ scalarGives (.xori d a i) s d (x ^^^ i.signExtend 64)
    ∧ scalarGives (.slti d a i) s d (if x.toInt < i.toInt then 1 else 0)
    ∧ scalarGives (.shli d a n) s d (x <<< n.toNat) ∧ scalarGives (.shri d a n) s d (x >>> n.toNat)
    ∧ scalarGives (.sari d a n) s d (x.sshiftRight n.toNat)
    ∧ scalarGives (.lhi d j) s d (j.signExtend 64 <<< 12) ∧ scalarGives (.pchi d j) s d (s.g.spc + (j.signExtend 64 <<< 12))
    ∧ nextWith (exec (.movk k a) s) fun t =>
        sget 0 k.toNat t.g.k = x ∧ (∀ q, q ≠ k.toNat → sget 0 q t.g.k = sget 0 q s.g.k) ∧ t.g.lq = s.g.lq
          ∧ t.g.spc = s.g.spc + 4 ∧ onlyGroup s t ∧ (∀ p, t.byteAt p = s.byteAt p) ∧ (∀ r, t.g.sreg r = s.g.sreg r)
          ∧ t.g.status = s.g.status

/-- B, CALL and the six conditional branches go to the word at pc + 4 × the sign-extended offset where their condition holds and to the next word where it does not; CALL and CALLR write the return address to s62, CALLR after it has read sa; CALLR, RET and JR whose target is a multiple of 4 go there, and any other target is MISALIGNED at the jump, which is not taken (the trap’s return address is the jump’s own). No other register, flag or byte changes. -/
def Obligations.BranchesAndCalls : Prop :=
  ∀ (s : State) (a b : SReg) (off : BitVec 11) (far : BitVec 26),
    let x := s.g.sreg a
    let y := s.g.sreg b
    let pc := s.g.spc
    let near := pc + (off.signExtend 64) * 4
    let goes (taken : Bool) := if taken then near else pc + 4
    scalarJumps (.b far) s 0 0 (pc + (far.signExtend 64) * 4)
    ∧ scalarJumps (.call far) s 62 (pc + 4) (pc + (far.signExtend 64) * 4)
    ∧ scalarJumps (.bcEq a b off) s 0 0 (goes (x == y)) ∧ scalarJumps (.bcNe a b off) s 0 0 (goes (x != y))
    ∧ scalarJumps (.bcLt a b off) s 0 0 (goes (decide (x.toInt < y.toInt)))
    ∧ scalarJumps (.bcGe a b off) s 0 0 (goes (decide (y.toInt ≤ x.toInt)))
    ∧ scalarJumps (.bcLtz a b off) s 0 0 (goes (decide (x.toNat < y.toNat)))
    ∧ scalarJumps (.bcGez a b off) s 0 0 (goes (decide (y.toNat ≤ x.toNat)))
    ∧ (4 ∣ x.toNat → scalarJumps (.jr a) s 0 0 x ∧ scalarJumps (.callr a) s 62 (pc + 4) x)
    ∧ (4 ∣ (s.g.sreg 62).toNat → scalarJumps .ret s 0 0 (s.g.sreg 62))
    ∧ (¬ 4 ∣ x.toNat → ∀ i ∈ [Instr.jr a, .callr a], exec i s = .next (s.trapEntry false .misaligned ⟨none, 0, 0⟩))
    ∧ (¬ 4 ∣ (s.g.sreg 62).toNat → exec .ret s = .next (s.trapEntry false .misaligned ⟨none, 0, 0⟩))

/-- For every size, a scalar load whose checks pass, which nothing holds back and whose bytes carry no error mark answers a next state: sd holds the little-endian value of the bytes at the address, as the group reads them (its team’s commit window over memory), sign-extended by LDS and zero-extended by LDZ; nothing changes but sd and the stream’s place, and for an audited task the input signature (noteReads). Where a byte carries bad data the group is HALTED and sd keeps its value. That the window words of a commit task are checked where its loads read them is the model’s choice (log entry 35). -/
def Obligations.ScalarLoadResults : Prop :=
  ∀ (s s1 s2 : State) (d a : SReg) (z : Size) (imm : BitVec 12) (flat loc : Nat) (c : Cause),
    let x := scalarAcc s a z imm 0
    let from_ := s1.sources s1.g.team x.addr.toNat flat x.n
    scalarAccessOk s s1 x ⟨false, false⟩ flat loc →
    (s1.checkAt from_ = (s2, none) →
      let v := BitVec.ofNat 64 (ofBytes (s2.loadBytes (s2.windowOf s2.g) x.addr.toNat flat x.n))
      let s3 := s2.noteReads s2.g [(x.addr.toNat, flat, x.n)]
      nextWith (exec (.ldz d a z imm) s) (fun t => t.g.sreg d = (if d = 0 then 0 else v) ∧ t.g.spc = s3.g.spc + 4 ∧ scalarFrame d s3 t)
      ∧ nextWith (exec (.lds d a z imm) s) fun t =>
          t.g.sreg d = (if d = 0 then 0 else (v.extractLsb' 0 (8 * x.n)).signExtend 64) ∧ t.g.spc = s3.g.spc + 4 ∧ scalarFrame d s3 t)
    ∧ (s1.checkAt from_ = (s2, some c) → ∀ i ∈ [Instr.lds d a z imm, .ldz d a z imm],
        nextWith (exec i s) fun t => t.g.st = .halted ∧ t.g.cause = BitVec.ofNat 64 c.code ∧ t.g.s = s1.g.s ∧ t.mem = s.mem)

/-- Outside a commit window, a scalar store whose checks pass and whose path counter is below 63 answers a next state. Where nothing holds it back, byte i of the stored bytes is bits 8i to 8i+7 of sd; every byte outside them reads as before, every register is unchanged, and the access counts on GLB, or STK where sa is s63. Where an earlier access holds it back, or the move leaves it outstanding, every byte reads as before and the access stands in flight with its bytes. That the store may perform at its issue or later is the model’s choice among the orders that the manual allows (log entry 13). In a commit task, a scalar store with sa other than s63 whose line fits leaves every byte of memory as it was and its bytes in the team’s window, where the group’s loads find them; one whose line does not fit traps with COMMIT_OVERFLOW at that line. -/
def Obligations.ScalarStoreResults : Prop :=
  (
    ∀ (s s1 : State) (d a : SReg) (z : Size) (imm : BitVec 12) (flat loc : Nat),
      let x := scalarAcc s a z imm 1
      let path : Path := if a = 63 then .stk else .glb
      scalarChecksOk s s1 x flat loc → s.g.full path = false → (a = 63 ∨ s1.inCommit s1.g = false) →
      (scalarAccessOk s s1 x ⟨false, false⟩ flat loc → s.cur.late = 0 →
        nextWith (exec (.st d a z imm) s) fun t =>
          (∀ i, i < x.n → t.byteAt (flat + i) = (s1.g.sreg d).extractLsb' (8 * i) 8)
            ∧ (∀ r, t.g.sreg r = s1.g.sreg r) ∧ t.g.status = s1.g.status ∧ storeFrame flat x.n path s1 t)
      ∧ (s.cur.late.getLsbD 0 = true ∨ s1.mayPerform s1.g s1.g.inflight s1.g.scalarSpot ⟨false, false⟩ flat x.n true = false →
        nextWith (exec (.st d a z imm) s) fun t =>
          (∀ p, t.byteAt p = s1.byteAt p) ∧ onlyGroup s1 t ∧ (∀ r, t.g.sreg r = s1.g.sreg r) ∧ t.g.status = s1.g.status
            ∧ t.g.spc = s1.g.spc + 4
            ∧ ∃ o : Access, o.path = path ∧ t.g.inflight = s1.g.inflight ++ [o]
              ∧ o.todo = [⟨0, 0, x.addr.toNat, flat, x.n, .store (toBytes x.n (s1.g.sreg d).toNat), 0⟩]))
  ∧ (
    ∀ (s s1 : State) (d a : SReg) (z : Size) (imm : BitVec 12) (flat loc : Nat) (tm : Team),
      let x := scalarAcc s a z imm 1
      scalarAccessOk s s1 x ⟨false, false⟩ flat loc → s.g.full .glb = false → a ≠ 63 → s1.inCommit s1.g = true →
      s1.team? s1.g.team = some tm →
      (overflowLine tm.commit (s1.windowRoom s1.g) [(x.addr.toNat, x.n)] = none →
        nextWith (exec (.st d a z imm) s) fun t => (∀ p, t.byteAt p = s1.byteAt p) ∧ (∀ r, t.g.sreg r = s1.g.sreg r)
          ∧ (s1.marks = [] → t = { s1 with groups := t.groups, teams := t.teams })
          ∧ (∀ k, k ≠ s1.g.team → t.team? k = s1.team? k)
          ∧ ∃ tm', t.team? s1.g.team = some tm' ∧ tm' = { tm with commit := tm'.commit }
            ∧ ∀ i, i < x.n → windowByte tm'.commit (x.addr.toNat + i) = some ((s1.g.sreg d).extractLsb' (8 * i) 8))
      ∧ ∀ l, overflowLine tm.commit (s1.windowRoom s1.g) [(x.addr.toNat, x.n)] = some l →
          exec (.st d a z imm) s = .next (s1.trapEntry false .commitOverflow ⟨some (BitVec.ofNat 64 l), 0, 0⟩))

/-- An atomic whose checks pass, which nothing holds back and whose bytes carry no error mark, outside a commit task, answers a next state in which the 4 or 8 bytes at the address hold the value that R287 gives for its operation (CAS compares with sd and writes sb), sd holds the old value sign-extended, every other byte and register is unchanged and the access counts on its path. At bad data the group is HALTED and memory keeps its value. That the atomic performs at its issue where nothing holds it back is the model’s choice among the orders that the manual allows (log entry 13). An access that stands in flight performs on its own: while an earlier access of the group, a row of an SDUE or the range lock of another group’s command holds it back nothing changes; then a store writes its bytes and no other; a scalar atomic of either size writes the new value and gives its register the old one; a lane atomic writes the new value, raises its flags and has the old one come back where it returns; a load takes the bytes as they then are, through the team’s window or from the vault alone, to be delivered with its data. It is outstanding no more. Bad data halts a group that still lives where the access returns data, and is kept for the access’s completion where it does not; no byte changes then. Which move lets it perform is the model’s choice among the orders that the manual allows (log entry 13). -/
def Obligations.ScalarAtomicResults : Prop :=
  (
    ∀ (s s1 s2 : State) (d a b : SReg) (op : AtomOp) (sc : BitVec 5) (flat loc : Nat) (c : Cause),
      let path : Path := if a = 63 then .stk else .glb
      let o : Order := ⟨true, true⟩
      s.inCommit s.g = false → s.g.full path = false → s.cur.late = 0 →
      (scalarAccessOk s s1 ⟨s.g.sreg a, 4, 2, a == 63⟩ o flat loc → s1.checkRead flat 4 = (s2, none) →
        let old := BitVec.ofNat 32 (s2.seenN flat 4)
        let new := atomicNew op old ((s2.g.sreg b).extractLsb' 0 32) ((s2.g.sreg d).extractLsb' 0 32)
        nextWith (exec (.satomW d a b op sc) s) fun t =>
          (∀ i, i < 4 → t.byteAt (flat + i) = new.extractLsb' (8 * i) 8) ∧ t.g.sreg d = (if d = 0 then 0 else old.signExtend 64)
            ∧ (∀ r, r ≠ d → t.g.sreg r = s2.g.sreg r) ∧ storeFrame flat 4 path s2 t)
      ∧ (scalarAccessOk s s1 ⟨s.g.sreg a, 8, 2, a == 63⟩ o flat loc → s1.checkRead flat 8 = (s2, none) →
        let old := BitVec.ofNat 64 (s2.seenN flat 8)
        let new := atomicNew op old (s2.g.sreg b) (s2.g.sreg d)
        nextWith (exec (.satomD d a b op sc) s) fun t =>
          (∀ i, i < 8 → t.byteAt (flat + i) = new.extractLsb' (8 * i) 8) ∧ t.g.sreg d = (if d = 0 then 0 else old)
            ∧ (∀ r, r ≠ d → t.g.sreg r = s2.g.sreg r) ∧ storeFrame flat 8 path s2 t)
      ∧ ∀ p ∈ [(Instr.satomW d a b op sc, 4), (.satomD d a b op sc, 8)],
        scalarAccessOk s s1 ⟨s.g.sreg a, p.2, 2, a == 63⟩ o flat loc → s1.checkRead flat p.2 = (s2, some c) →
        nextWith (exec p.1 s) fun t => t.g.st = .halted ∧ t.g.cause = BitVec.ofNat 64 c.code ∧ t.g.s = s1.g.s ∧ t.mem = s.mem)
  ∧ (
    ∀ (s : State) (n j : Nat) (a : Access) (x : Todo), s.g.inflight[n]? = some a → a.todo[j]? = some x →
      let free := !s.todoLocked a x && s.mayPerform s.g (s.g.inflight.take n) a.spot a.order x.flat x.n x.act.writes
      let u := s.performLater n j
      (free = false → u = s)
      ∧ (∀ l, free = true → x.act = .store l → l.length = x.n →
          (∀ i, i < x.n → u.byteAt (x.flat + i) = l.getD i 0) ∧ writeFrame x.flat x.n s u
            ∧ u.g = { s.g with inflight := u.g.inflight }
            ∧ u.g.inflight[n]? = some { a with todo := a.todo.eraseIdx j, arrived := a.arrived || !a.lane })
      ∧ (∀ ty r k s1, free = true → x.act = .load ty r k → s.checkAt (s.todoSources a.path x) = (s1, none) →
          let b := s1.loadBytes (if a.path = .vlt then [] else s1.windowOf s1.g) x.va x.flat x.n
          (∀ p, u.byteAt p = s.byteAt p) ∧ u.g = { s.g with inflight := u.g.inflight }
            ∧ u.g.inflight[n]? = some { a with
                writes := a.writes ++ loadElems ty r k x.lane b
                todo := a.todo.eraseIdx j
                arrived := a.arrived || !a.lane })
      ∧ (∀ op n v c d s1, free = true → x.act = .satom op n v c d → n = 4 ∨ n = 8 → s.checkRead x.flat n = (s1, none) →
          let old := BitVec.ofNat (8 * n) (s1.seenN x.flat n)
          (∀ i, i < n → u.byteAt (x.flat + i) = (atomicNew op old (v.setWidth _) (c.setWidth _)).extractLsb' (8 * i) 8)
            ∧ (∀ p, (p < x.flat ∨ x.flat + n ≤ p) → u.byteAt p = s.byteAt p)
            ∧ u.g.sreg d = (if d = 0 then 0 else old.signExtend 64) ∧ ∀ r, r ≠ d → u.g.sreg r = s.g.sreg r)
      ∧ (∀ op ty ftz v c f d s1, free = true → x.act = .rmw op ty ftz v c f d → s.checkAt (s.todoSources a.path x) = (s1, none) →
          let old := BitVec.ofNat 32 (s1.seenN x.flat 4)
          let new := atomNew op ty ftz old v c
          (∀ i, i < 4 → u.byteAt (x.flat + i) = new.1.extractLsb' (8 * i) 8)
            ∧ (∀ p, (p < x.flat ∨ x.flat + 4 ≤ p) → u.byteAt p = s.byteAt p)
            ∧ u.g = { (s.g.raise new.2).raise f with inflight := u.g.inflight }
            ∧ u.g.inflight[n]? = some { a with
                writes := a.writes ++ (match d with | some k => [(k, old)] | none => [])
                todo := a.todo.eraseIdx j
                arrived := a.arrived || !a.lane })
      ∧ (∀ s1 c, free = true → (∀ l, x.act ≠ .store l) → (∀ op n v c d, x.act = .satom op n v c d → n = x.n) →
          s.checkAt (match x.act with | .satom _ _ _ _ _ => addrs x.flat x.n | _ => s.todoSources a.path x) = (s1, some c) →
          (∀ p, u.byteAt p = s.byteAt p)
            ∧ (x.act.returns = true → s.g.live = true → u.g.st = .halted ∧ u.g.cause = BitVec.ofNat 64 c.code)
            ∧ (x.act.returns = false → (u.g.inflight[n]?.bind Access.bad).isSome ∧ u.g = { s.g with inflight := u.g.inflight })))

/-- For LDS, LDZ, ST, SATOM.W and SATOM.D: RANGE_LOCK comes first, at the lowest address that a lock covers, then STACK_LIMIT for a stack access below SLIM, then MISALIGNED, then the fault of the translation as PAGE_FAULT with its kind and level; each names its address in FAULTVA and stores nothing. PROTECTION freezes the group instead, as does a page that the host refuses. An access to a tier page sets the tier-miss bit and completes without data. A counted access waits while its counter is full, and an atomic of a commit task is COMMIT_FORBIDDEN. That COMMIT_FORBIDDEN goes before the checks of the address is the model’s choice (log entry 113). -/
def Obligations.ScalarAccessTraps : Prop :=
  ∀ (s s1 : State) (d a b : SReg) (z : Size) (imm : BitVec 12) (op : AtomOp) (sc : BitVec 5) (pa k l flat : Nat), s.g.mode ≠ .walker →
    ∀ p ∈ scalarForms s d a b z imm op sc,
    let x := p.2
    let v := x.addr.toNat
    let lock := s.lockAddr (dieOf s.cur.core) s.g.ctx false v x.n (x.kind != 0)
    (x.kind = 2 → s.inCommit s.g = true → exec p.1 s = s.trapS .commitForbidden)
    ∧ (x.kind ≠ 0 → (x.kind = 2 → s.inCommit s.g = false) → s.g.full x.path = true →
        nextWith (exec p.1 s) fun t => t.g.sWait = some (.stall (.counter x.path)) ∧ t.g.spc = s.g.spc ∧ t.g.s = s.g.s ∧ ∀ q, t.byteAt q = s.byteAt q)
    ∧ (reachesChecks s x →
      (lock = some l → exec p.1 s = .next (s.trapEntry false .rangeLock ⟨some (BitVec.ofNat 64 l), 0, 0⟩) ∧ v ≤ l ∧ l < v + x.n
          ∧ ∀ m, v ≤ m → m < l → s.rangeLocked (dieOf s.cur.core) s.g.ctx false m 1 (x.kind != 0) = false)
      ∧ (lock = none → x.stack = true → x.addr < s.g.slimS → exec p.1 s = .next (s.trapEntry false .stackLimit ⟨some x.addr, 0, 0⟩))
      ∧ (lock = none → (x.stack = true → s.g.slimS ≤ x.addr) → v % x.n ≠ 0 →
          exec p.1 s = .next (s.trapEntry false .misaligned ⟨some x.addr, 0, 0⟩))
      ∧ (lock = none → (x.stack = true → s.g.slimS ≤ x.addr) → v % x.n = 0 →
          (s.translate s.scalarWho x.kind v = (s1, .fault k l) →
            exec p.1 s = .next (s1.trapEntry false .pageFault ⟨some x.addr, 0, faultProg k l x.kind (if x.stack then 2 else 1) 0⟩))
          ∧ (s.translate s.scalarWho x.kind v = (s1, .protect pa) → s1.g.mode ≠ .walker →
            exec p.1 s = .next (s1.freezeGroup s1.cur.core s1.cur.slot x.kind x.addr (BitVec.ofNat 64 pa)))
          ∧ (s.translate s.scalarWho x.kind v = (s1, .ok flat 3) → Config.hostRefuses s.tick = true → s1.g.mode ≠ .walker →
            exec p.1 s = .next (s1.freezeGroup s1.cur.core s1.cur.slot x.kind x.addr (BitVec.ofNat 64 flat)))
          ∧ (s.translate s.scalarWho x.kind v = (s1, .ok flat 1) →
            nextWith (exec p.1 s) fun t => t.g.status = s1.g.status ||| 0x1000000 ∧ t.g.spc = s1.g.spc + 4
              ∧ t.g.count x.path = s1.g.count x.path + (if x.kind = 0 then 0 else 1)
              ∧ (∀ r, t.g.sreg r = s1.g.sreg r) ∧ ∀ q, t.byteAt q = s1.byteAt q)))

/-- SEL writes sa to sd where sc is not zero and sb otherwise, and nothing else changes; its word has op6 0x01, sd, sa, sb, sc in fn8[7:2] and zero in fn8[1:0]; a word of op6 0x01 whose fn8[1:0] is not zero is ILLEGAL_OPCODE; the word of the rule’s example is sel s4, s5, s6, s7. -/
def Obligations.SelWhole : Prop :=
  (∀ (s : State) (d a b c : SReg), scalarGives (.sel d a b c) s d (if s.g.sreg c ≠ 0 then s.g.sreg a else s.g.sreg b))
  ∧ (∀ d a b c : SReg, encode (.sel d a b c) = .scalar ((0x01 : BitVec 6) ++ d ++ a ++ b ++ c ++ (0 : BitVec 2))
      ∧ decodeScalar ((0x01 : BitVec 6) ++ d ++ a ++ b ++ c ++ (0 : BitVec 2)) = .instr (.sel d a b c))
  ∧ (∀ w : BitVec 32, w.extractLsb' 26 6 = 0x01 → w.extractLsb' 0 2 ≠ 0 → decodeScalar w = .reject .illegalOpcode)
  ∧ (∀ s : State, s.cur.stream = .scalar → runDecoded (.reject .illegalOpcode) s = .next (s.trapEntry false .illegalOpcode ⟨none, 0, 0⟩))
  ∧ decodeTableWord 32 0x0441461C = some (.sel 4 5 6 7)

/-- s0 reads zero and writes to it are discarded; CALL and CALLR put the return address in s62; a load, store or atomic by s63 below SLIM traps with STACK_LIMIT while one through another register, with its other checks passed, completes there: it meets no such bound; apart from s0 every scalar register can be written and read: ADD shows it for every choice of registers. That loads of a commit task check the window words that they read is the model’s choice (log entry 35). -/
def Obligations.ScalarRegisterUses : Prop :=
  (∀ (g : Group) (v : Word), g.sreg 0 = 0 ∧ g.setS 0 v = g)
  ∧ (∀ (g : Group) (d : SReg) (v : Word), d ≠ 0 → (g.setS d v).sreg d = v)
  ∧ (∀ (s : State) (far : BitVec 26) (a : SReg),
      nextWith (exec (.call far) s) (fun t => t.g.sreg 62 = s.g.spc + 4)
      ∧ (4 ∣ (s.g.sreg a).toNat → nextWith (exec (.callr a) s) fun t => t.g.sreg 62 = s.g.spc + 4 ∧ t.g.spc = s.g.sreg a))
  ∧ (∀ (s : State) (d b : SReg) (z : Size) (imm : BitVec 12) (op : AtomOp) (sc : BitVec 5), s.g.mode ≠ .walker →
      ∀ p ∈ scalarForms s d 63 b z imm op sc, reachesChecks s p.2 → p.2.addr < s.g.slimS →
      s.rangeLocked (dieOf s.cur.core) s.g.ctx false p.2.addr.toNat p.2.n (p.2.kind != 0) = false →
      exec p.1 s = .next (s.trapEntry false .stackLimit ⟨some p.2.addr, 0, 0⟩))
  ∧ (∀ (s s1 s2 : State) (d a b : SReg) (z : Size) (imm : BitVec 12) (op : AtomOp) (sc : BitVec 5) (flat loc : Nat), a ≠ 63 →
      ∀ p ∈ scalarForms s d a b z imm op sc, reachesChecks s p.2 → p.2.addr < s.g.slimS → s.cur.late = 0 → s1.inCommit s1.g = false →
      scalarAccessOk s s1 p.2 (if p.2.kind = 2 then ⟨true, true⟩ else ⟨false, false⟩) flat loc →
      (p.2.kind ≠ 1 → s1.checkAt (if p.2.kind = 0 then s1.sources s1.g.team p.2.addr.toNat flat p.2.n else addrs flat p.2.n) = (s2, none)) →
      nextWith (exec p.1 s) fun t => t.g.spc = s.g.spc + 4 ∧ t.g.cause = s.g.cause ∧ t.g.mode = s.g.mode ∧ t.g.st = s.g.st)
  ∧ (∀ (s : State) (d a b : SReg), scalarGives (.add d a b) s d (s.g.sreg a + s.g.sreg b))

/-- A trap of a user-mode group whose context has a handler writes CAUSE, EPCS, EPCL, FAULTVA, FAULTMASK and FAULTPROG and the stream bit of STATUS; saves s1 to s7, EM, FMT, the reconvergence stack, the return slot, the lane queue and the abandoned words in the shadow; empties the lane queue and closes the lookahead windows; enters supervisor mode at HANDLER with EM 1 for a scalar trap and FAULTMASK for a lane trap. Memory, every register, the flags and the in-flight accesses stay. TRAP raises SOFTWARE with FAULTVA the value of sa, BKPT raises BREAKPOINT: each answers the state of the trap’s entry in the scalar stream, with FAULTMASK and FAULTPROG 0. BKPT names no address: its FAULTVA is the free value of log entry 7. -/
def Obligations.TrapEntry : Prop :=
  (
    ∀ (s : State) (lane : Bool) (c : Cause) (va mask prog : Word), handled s →
      (c = .commitOverflow → s.inReplay s.g = false) →
      let t := s.trapEntry lane c ⟨some va, mask, prog⟩
      t.g.cause = BitVec.ofNat 64 c.code ∧ t.g.epcs = s.g.spc ∧ t.g.epcl = (if lane then s.cur.lane.lpc else s.g.nextLane)
        ∧ t.g.faultva = va ∧ t.g.faultmask = mask &&& widthMask s.g.width ∧ t.g.faultprog = prog
        ∧ t.g.status.getLsbD 2 = lane
        ∧ t.g.mode = .supervisor ∧ t.g.spc = handlerOf (s.descOn s.cur.core s.g.ctx)
        ∧ t.g.em = (if lane then mask &&& widthMask s.g.width else 1)
        ∧ t.g.lq = [] ∧ t.g.run = none ∧ t.g.rstack = [] ∧ t.g.abandoned = [] ∧ t.g.waitingWords = [] ∧ t.g.windows = []
        ∧ (∃ h, t.g.shadow = some h ∧ (∀ r, 1 ≤ r → r ≤ 7 → sget 0 r h.s = sget 0 r s.g.s) ∧ h.em = s.g.em ∧ h.fmt = s.g.fmt
            ∧ h.rstack = s.g.rstack ∧ h.ret = s.g.ret ∧ h.lq = s.g.lq ∧ h.run = s.g.run ∧ h.laneTrap = lane
            ∧ (lane = false → h.lpc = s.g.lpc ∧ h.abandoned = (s.g.waitingWords ++ s.g.abandoned).map LaneWord.closed))
        ∧ trapFrame s t)
  ∧ (
    ∀ (s : State) (a : SReg),
      exec (.trap a) s = .next (s.trapEntry false .software ⟨some (s.g.sreg a), 0, 0⟩)
      ∧ exec .bkpt s = .next (s.trapEntry false .breakpoint ⟨some (Config.freeFaultVa s.tick), 0, 0⟩)
      ∧ (handled s → nextWith (exec (.trap a) s) (fun t => t.g.cause = 0x38 ∧ t.g.faultva = s.g.sreg a ∧ t.g.epcs = s.g.spc
            ∧ t.g.spc = handlerOf (s.descOn s.cur.core s.g.ctx) ∧ t.g.mode = .supervisor)
          ∧ nextWith (exec .bkpt s) fun t => t.g.cause = 0x39 ∧ t.g.epcs = s.g.spc
            ∧ t.g.spc = handlerOf (s.descOn s.cur.core s.g.ctx) ∧ t.g.mode = .supervisor))

/-- A trap raised in supervisor mode, and a handled trap in a context whose HANDLER is 0, leave the group EXITED with the trap counted as its fault (cause and TIME), memory unchanged; GEXIT in supervisor mode ends the group with the trap that the handler could not resume counted as a fault, by its cause. The TIME that the fault of a GEXIT takes is not part of this. -/
def Obligations.TrapsThatEndTheGroup : Prop :=
  (∀ (s : State) (lane : Bool) (c : Cause) (i : TrapInfo), s.g.mode ≠ .walker →
    (s.g.mode = .supervisor ∨ handlerOf (s.descOn s.cur.core s.g.ctx) = 0) →
    let t := s.trapEntry lane c i
    t.g.st = .exited ∧ t.g.fault = some (s.time, BitVec.ofNat 8 c.code) ∧ t.g.cause = BitVec.ofNat 64 c.code
      ∧ (∀ a, t.byteAt a = s.byteAt a) ∧ t.g.s = s.g.s ∧ t.g.v = s.g.v)
  ∧ ∀ s : State, s.g.mode = .supervisor → s.g.joined = true →
      nextWith (exec .gexit s) fun t => t.g.exiting = true ∧ (∃ tm, t.g.fault = some (tm, s.g.cause.extractLsb' 0 8))
        ∧ ∀ (core slot : Nat) (u : State), u.groupAt core slot = t.g → u.drained core t.g = true → t.g.live = true →
            t.g.nmPoison = false →
            nextWith (exec (.groupExitComplete core slot) u) fun v =>
              (v.groupAt core slot).st = .exited ∧ (v.groupAt core slot).fault = t.g.fault

/-- In supervisor mode, with FAULTPROG.REQ 0, EPCS a multiple of 4 and the handler’s lane words issued, ERET answers a next state: user mode at EPCS with s1 to s7, EM, FMT, the reconvergence stack and the return slot as the trap saved them; where EPCL was not rewritten the queue, the running block and the abandoned words return too, the trapping lane word first, to be performed again in the lanes of FAULTMASK. A word of the handler that waits for a queue goes on waiting (log entry 97). Other scalar registers, vector registers, flags and memory stay. Which word a rewritten EPCL stands for, and that handler words waiting for a consumer go on, are the model’s choices (log entries 65 and 97). In user mode ERET is PROTECTION: the group freezes and a freeze record is written. With FAULTPROG.REQ 1 the page of FAULTVA is served by first touch and the group returns as with REQ 0; where no frame is left, and with REQ 2, the host is asked for the page (R240). Until the handler’s lane words have issued ERET waits. With FAULTPROG.REQ 3 the group is EXITED with its cause as its fault. With EPCS not a multiple of 4 the return traps with MISALIGNED, which in supervisor mode ends the group. That REQ 3 counts the trap as a fault at the TIME of the ERET, and that ERET waits for the handler’s lane words, are the model’s choices (log entries 90 and 65); so is which first touch asks the host (log entry 108). -/
def Obligations.ExceptionReturn : Prop :=
  (
    ∀ (s : State) (h : Shadow), s.g.mode = .supervisor → s.g.faultprog.extractLsb' 24 2 = 0 → s.g.epcs.extractLsb' 0 2 = 0 →
      s.g.joined = true → s.g.shadow = some h → (∀ p ∈ h.s, 1 ≤ p.1 ∧ p.1 ≤ 7) → swf (0 : Word) h.s = true →
      nextWith (exec .eret s) fun t => comesBack h s t ∧ onlyGroup s t ∧ ∀ a, t.byteAt a = s.byteAt a)
  ∧ (
    ∀ s : State,
      (s.g.mode = .user → nextWith (exec .eret s) fun t => t.g.st = .frozen ∧ t.g.cause = 0x12 ∧ t.events.length = s.events.length + 1)
      ∧ (s.g.mode = .supervisor → s.g.faultprog.extractLsb' 24 2 = 3 →
          nextWith (exec .eret s) fun t => t.g.st = .exited ∧ t.g.fault = some (s.time, s.g.cause.extractLsb' 0 8))
      ∧ (s.g.mode = .supervisor → s.g.faultprog.extractLsb' 24 2 ≠ 3 → s.g.epcs.extractLsb' 0 2 ≠ 0 →
          nextWith (exec .eret s) fun t => t.g.st = .exited ∧ t.g.fault = some (s.time, 0x08))
      ∧ (s.g.mode = .supervisor → s.g.faultprog.extractLsb' 24 2 ≠ 3 → s.g.epcs.extractLsb' 0 2 = 0 → s.g.joined = false →
          waits .eret s (.stall .join))
      ∧ ∀ (h : Shadow) (s1 : State) (x : Touch), s.g.mode = .supervisor → s.g.epcs.extractLsb' 0 2 = 0 → s.g.joined = true →
          s.g.shadow = some h → (∀ p ∈ h.s, 1 ≤ p.1 ∧ p.1 ≤ 7) → swf (0 : Word) h.s = true →
          let s0 := s.modG Group.passJoin
          (s.g.faultprog.extractLsb' 24 2 = 1 → s0.firstTouch s.g.ctx s.cur.core (dieOf s.cur.core) s.g.faultva.toNat = (s1, x) →
            (x ≠ .noFrame → nextWith (exec .eret s) fun t => comesBack h s t ∧ onlyGroup s1 t ∧ ∀ a, t.byteAt a = s1.byteAt a)
            ∧ (x = .noFrame → nextWith (exec .eret s) (asksHost s s1)))
          ∧ (s.g.faultprog.extractLsb' 24 2 = 2 → nextWith (exec .eret s) (asksHost s s0)))

/-- ERET at once after a trap’s entry, the handler having changed nothing, gives the scalar registers, EM, FMT, the stacks, the lane queue and the mode that the group had, at the pc that it had; lane words that had not retired issue again. -/
def Obligations.TrapThenReturn : Prop :=
  ∀ (s : State) (c : Cause) (va : Word), handled s → (c = .commitOverflow → s.inReplay s.g = false) →
    swf (0 : Word) s.g.s = true → s.g.spc.extractLsb' 0 2 = 0 →
    nextWith (exec .eret (s.trapEntry false c ⟨some va, 0, 0⟩)) fun t =>
      (∀ r, t.g.sreg r = s.g.sreg r) ∧ t.g.em = s.g.em ∧ t.g.fmt = s.g.fmt ∧ t.g.rstack = s.g.rstack ∧ t.g.ret = s.g.ret
        ∧ t.g.lq = s.g.lq ∧ t.g.run = s.g.run ∧ t.g.lpc = s.g.lpc ∧ t.g.abandoned = (s.g.waitingWords ++ s.g.abandoned).map LaneWord.closed
        ∧ t.g.mode = .user ∧ t.g.spc = s.g.spc

/-- CSRR reads the register that its number names and CSRX reads it before it writes. A read of STATUS clears its tier-miss bit alone. CSRW writes EPCS, EPCL, FAULTVA, FAULTMASK (below the width), FAULTPROG; FMT, RNGKEY and SLIM take effect in scalar order at once and in lane order at their place in the queue; STARVE is the core’s; a register marked RO keeps its value. In every case, for CSRW and for CSRX, the pc moves to the next word and no other register, flag or byte changes. That CSRX of STATUS leaves the tier-miss bit is the model’s choice (log entry 65). A number not in Table 1-6 traps with RESERVED_FIELD; a register marked supervisor accessed in user mode is PROTECTION: the group freezes; a write that a field or register rule refuses (FMT by R96, STARVE outside 1024 to 65536) traps with RESERVED_FIELD and leaves the register. So does, by the model’s choice of log entry 65, a write that sets a reserved-zero bit of CAUSE or FAULTPROG. The registers of user mode are read and written in every mode. -/
def Obligations.ControlRegisters : Prop :=
  (
    ∀ (s : State) (d a : SReg) (r : BitVec 12), s.g.mode = .supervisor →
      let x := s.g.sreg a
      (csrKnown r = true →
        nextWith (exec (.csrr d r) s) fun t => t.g.sreg d = (if d = 0 then 0 else s.csrRead r) ∧ t.g.spc = s.g.spc + 4
          ∧ t.g.status = (if r = 0 then s.g.status &&& ~~~0x1000000 else s.g.status)
          ∧ (∀ q, q ≠ d → t.g.sreg q = s.g.sreg q) ∧ onlyGroup s t ∧ ∀ p, t.byteAt p = s.byteAt p)
      ∧ (csrKnown r = true → csrRefuses r x = false →
          (nextWith (exec (.csrw a r) s) fun t => t.g.s = s.g.s ∧ csrFrame r x s t ∧ ∀ p, t.byteAt p = s.byteAt p)
          ∧ nextWith (exec (.csrx d a r) s) fun t => t.g.sreg d = (if d = 0 then 0 else s.csrRead r) ∧ (∀ q, q ≠ d → t.g.sreg q = s.g.sreg q)
            ∧ csrFrame r x s t ∧ ∀ p, t.byteAt p = s.byteAt p)
      ∧ (s.csrRead 0x000 = s.g.status ∧ s.csrRead 0x001 = s.g.cause ∧ s.csrRead 0x002 = s.g.epcs ∧ s.csrRead 0x003 = s.g.epcl
          ∧ s.csrRead 0x004 = s.g.faultva ∧ s.csrRead 0x005 = s.g.faultmask ∧ s.csrRead 0x006 = s.g.faultprog
          ∧ s.csrRead 0x010 = s.g.fmtS ∧ s.csrRead 0x011 = s.g.rngkeyS ∧ s.csrRead 0x012 = s.g.slimS ∧ s.csrRead 0x013 = s.g.cls
          ∧ s.csrRead 0x014 = s.g.auditclass ∧ s.csrRead 0x020 = BitVec.ofNat 64 s.time
          ∧ s.csrRead 0x100 = (s.coreAt s.cur.core).starve ∧ s.csrRead 0x101 = s.g.ctxid))
  ∧ (
    ∀ (s : State) (d a : SReg) (r : BitVec 12),
      (r.toNat ∉ [0x000, 0x001, 0x002, 0x003, 0x004, 0x005, 0x006, 0x010, 0x011, 0x012, 0x013, 0x014, 0x020, 0x100, 0x101] →
        exec (.csrr d r) s = s.trapS .reservedField ∧ exec (.csrw a r) s = s.trapS .reservedField ∧ exec (.csrx d a r) s = s.trapS .reservedField)
      ∧ (r.toNat ∈ [0x001, 0x002, 0x003, 0x004, 0x005, 0x006, 0x100, 0x101] → s.g.mode = .user →
          nextWith (exec (.csrr d r) s) (fun t => t.g.st = .frozen ∧ t.g.s = s.g.s ∧ t.g.cause = 0x12)
          ∧ nextWith (exec (.csrw a r) s) fun t => t.g.st = .frozen ∧ t.g.epcs = s.g.epcs ∧ t.g.faultprog = s.g.faultprog)
      ∧ (r.toNat ∈ [0x000, 0x010, 0x011, 0x012, 0x013, 0x014, 0x020] →
          (nextWith (exec (.csrr d r) s) fun t => t.g.sreg d = (if d = 0 then 0 else s.csrRead r) ∧ t.g.spc = s.g.spc + 4)
          ∧ (csrRefuses r (s.g.sreg a) = false →
            (nextWith (exec (.csrw a r) s) fun t => t.g.s = s.g.s ∧ csrFrame r (s.g.sreg a) s t)
            ∧ nextWith (exec (.csrx d a r) s) fun t => t.g.sreg d = (if d = 0 then 0 else s.csrRead r) ∧ (∀ q, q ≠ d → t.g.sreg q = s.g.sreg q)
              ∧ csrFrame r (s.g.sreg a) s t))
      ∧ (r = 0x010 → (s.g.sreg a).extractLsb' 0 3 = 7 → exec (.csrw a r) s = s.trapS .reservedField)
      ∧ (r = 0x100 → s.g.mode = .supervisor → ((s.g.sreg a).toNat < 1024 ∨ 65536 < (s.g.sreg a).toNat) →
          exec (.csrw a r) s = s.trapS .reservedField)
      ∧ (r = 0x001 → s.g.mode = .supervisor → (s.g.sreg a).toNat = 256 → exec (.csrw a r) s = s.trapS .reservedField)
      ∧ (csrRefuses r (s.g.sreg a) = true → (s.g.mode = .supervisor ∨ r = 0x010) → csrKnown r = true →
          exec (.csrw a r) s = s.trapS .reservedField ∧ exec (.csrx d a r) s = s.trapS .reservedField))

/-- SETFMT and RNGSEED change the scalar-order value at once and queue the lane-order effect; reserved FMT values trap. At the queue’s head the effect takes place: FMT, RNGKEY or SLIM takes the value, RNGSEED sets the key and the draw index, and a queued function register switch, once the reads that the group has issued have taken their values (R174), writes the image to its bank and register for the group’s context on the core. FNFENCE completes once no switch of the group is queued, and waits before. That FNFENCE in a handler looks at the live lane queue alone is the model’s choice (log entry 87). FLOAD, with its 1024 bytes translated in one page, aligned, unlocked, free of bad data and held back by nothing, of a bank that the context owns, queues the switch with the image read; an image that R115 rejects traps with FLOAD_REJECT naming its offset; a bank not owned traps with FN_EMPTY; a misaligned address traps; a range lock traps first, at the lowest address that it covers; bad data halts the group. The order of the checks, and that words of a commit window are checked where FLOAD reads them, are the model’s choices (log entries 66 and 35). -/
def Obligations.QueuedScalarEffects : Prop :=
  (
    ∀ (s : State) (a b : SReg) (r : List LqItem) (v : Word) (i : BitVec 31) (bank fn : Nat) (img : BitVec 8192),
      (fmtOk (s.g.sreg a) = true → nextWith (exec (.setfmt a) s) fun t => t.g.fmtS = s.g.sreg a ∧ t.g.fmt = s.g.fmt
          ∧ t.g.lq = s.g.lq ++ [.csr .fmt (s.g.sreg a)] ∧ t.g.spc = s.g.spc + 4 ∧ t.g.s = s.g.s ∧ onlyGroup s t)
      ∧ (fmtOk (s.g.sreg a) = false → exec (.setfmt a) s = s.trapS .reservedField)
      ∧ (nextWith (exec (.rngseed a b) s) fun t => t.g.rngkeyS = s.g.sreg a ∧ t.g.rngkey = s.g.rngkey ∧ t.g.draw = s.g.draw
          ∧ t.g.lq = s.g.lq ++ [.rngseed (s.g.sreg a) ((s.g.sreg b).extractLsb' 0 31)] ∧ t.g.spc = s.g.spc + 4 ∧ t.g.s = s.g.s ∧ onlyGroup s t)
      ∧ (s.g.lq = .csr .fmt v :: r → nextWith (exec .laneQueueScalarEffect s) fun t => t.g = { s.g with lq := r, fmt := v } ∧ onlyGroup s t)
      ∧ (s.g.lq = .csr .rngkey v :: r → nextWith (exec .laneQueueScalarEffect s) fun t => t.g = { s.g with lq := r, rngkey := v } ∧ onlyGroup s t)
      ∧ (s.g.lq = .csr .slim v :: r → nextWith (exec .laneQueueScalarEffect s) fun t => t.g = { s.g with lq := r, slim := v } ∧ onlyGroup s t)
      ∧ (s.g.lq = .rngseed v i :: r → nextWith (exec .laneQueueScalarEffect s) fun t =>
          t.g = { s.g with lq := r, rngkey := v, draw := i } ∧ onlyGroup s t)
      ∧ (s.g.lq = .fswitch bank fn img :: r → s.g.readsDone = false → exec .functionRegisterSwitch s = .next s)
      ∧ (s.g.lq = .fswitch bank fn img :: r → s.g.readsDone = true → nextWith (exec .functionRegisterSwitch s) fun t => t.g = { s.g with lq := r }
          ∧ sget 0 ((s.g.ctx * 2 + bank) * 16 + fn) (t.coreAt s.cur.core).fn = img
          ∧ (∀ k, k ≠ (s.g.ctx * 2 + bank) * 16 + fn → sget 0 k (t.coreAt s.cur.core).fn = sget 0 k (s.coreAt s.cur.core).fn)
          ∧ ∀ p, t.byteAt p = s.byteAt p)
      ∧ ((∀ x ∈ s.g.lq, ∀ y z w, x ≠ .fswitch y z w) → scalarGives .fnfence s 0 0)
      ∧ (LqItem.fswitch bank fn img ∈ s.g.lq → waits .fnfence s (.stall .switch)))
  ∧ (
    ∀ (s s2 : State) (bank : Bool) (fn : BitVec 4) (a : SReg) (flat l : Nat) (c : Cause),
      let va := (s.g.sreg a).toNat
      let lock := s.lockAddr (dieOf s.cur.core) s.g.ctx false va 1024 false
      (lock = some l → exec (.fload bank fn a) s = .next (s.trapEntry false .rangeLock ⟨some (BitVec.ofNat 64 l), 0, 0⟩))
      ∧ (lock = none → va % 64 ≠ 0 → exec (.fload bank fn a) s = .next (s.trapEntry false .misaligned ⟨some (BitVec.ofNat 64 va), 0, 0⟩))
      ∧ (lock = none → va % 64 = 0 → s.ownsBank s.g.ctx bank = false → exec (.fload bank fn a) s = s.trapS .fnEmpty)
      ∧ (lock = none → va % 64 = 0 → s.ownsBank s.g.ctx bank = true → va % 65536 ≤ 64512 → pagesOf [va, va + 1023] = [va / 65536] →
          (∃ loc, s.translate s.scalarWho 0 va = (s, .ok flat loc) ∧ (loc = 3 → Config.hostRefuses s.tick = false)) →
          s.mayPerform s.g s.g.inflight s.g.scalarSpot ⟨false, false⟩ flat 1024 false = true →
          (s.checkAt (s.sources s.g.team va flat 1024) = (s, none) →
            let img := BitVec.ofNat 8192 (ofBytes (s.loadBytes (s.windowOf s.g) va flat 1024))
            let s1 := s.noteReads s.g [(va, flat, 1024)]
            (imageReject img = none → nextWith (exec (.fload bank fn a) s) fun t =>
              t.g.lq = s1.g.lq ++ [.fswitch (if bank then 1 else 0) fn.toNat img] ∧ t.g.spc = s1.g.spc + 4 ∧ t.g.s = s1.g.s ∧ onlyGroup s1 t
                ∧ ∀ p, t.byteAt p = s.byteAt p)
            ∧ ∀ off, imageReject img = some off →
              exec (.fload bank fn a) s = .next (s.trapEntry false .floadReject ⟨some (BitVec.ofNat 64 va), 0, BitVec.ofNat 64 off⟩))
          ∧ (s.checkAt (s.sources s.g.team va flat 1024) = (s2, some c) → s.g.mode ≠ .walker →
            nextWith (exec (.fload bank fn a) s) fun t => t.g.st = .halted ∧ t.g.cause = BitVec.ofNat 64 c.code ∧ t.g.lq = s.g.lq)))

/-- LISSUE appends an entry of n + 1 words at the lane section’s base plus 12 × blk20 with a copy of k0 to k15, and stalls while 64 entries are queued or running; a later MOVK does not change the copy. LQWAIT completes when every queued lane word has issued and the queue is empty, and waits otherwise. SPOP takes the oldest value of the return slot; with an empty slot it waits, and traps with ILLEGAL_WAIT when no lane word is left that could fill it. That only lane blocks take one of the 64 entries is the model’s choice (log entry 91). -/
def Obligations.LaneQueueWords : Prop :=
  ∀ (s : State) (n : BitVec 6) (blk : BitVec 20) (d a : SReg) (k : BitVec 4) (v : Word) (rest : List Word),
    let busy := (s.g.lq.filter fun i => match i with | .block _ => true | _ => false).length + (if s.g.settle.run.isSome then 1 else 0)
    (busy < 64 → nextWith (exec (.lissue n blk) s) fun t => t.g.spc = s.g.spc + 4 ∧ t.g.s = s.g.s ∧ t.g.k = s.g.k ∧ onlyGroup s t
        ∧ (∀ p, t.byteAt p = s.byteAt p)
        ∧ ∃ id, t.g.lq = s.g.lq ++ [.block ⟨s.laneBase + BitVec.ofNat 64 (12 * blk.toNat), n.toNat + 1, s.g.k, id⟩])
    ∧ (64 ≤ busy → waits (.lissue n blk) s (.stall .queue) ∧ nextWith (exec (.lissue n blk) s) fun t => t.g.lq = s.g.lq)
    ∧ (nextWith (exec (.movk k a) s) fun t => t.g.lq = s.g.lq)
    ∧ (s.g.idleLanes = true → joinGives .lqwait s 0 0)
    ∧ (s.g.idleLanes = false → waits .lqwait s .lanes)
    ∧ (s.g.ret = v :: rest → nextWith (exec (.spop d) s) fun t => t.g.sreg d = (if d = 0 then 0 else v) ∧ t.g.ret = rest
        ∧ t.g.spc = s.g.spc + 4 ∧ (∀ r, r ≠ d → t.g.sreg r = s.g.sreg r) ∧ onlyGroup s t)
    ∧ (s.g.ret = [] → s.g.joined = true → exec (.spop d) s = s.trapS .illegalWait)
    ∧ (s.g.ret = [] → s.g.joined = false → waits (.spop d) s .spop)

/-- TLBFILL in walker mode ends the walk of its core: the walker’s group waits again and no walk is left. The checks of the leaf that it hands over come in the order of R224: an invalid one, a malformed one, a pointer and a first-touch one leave their fault kind with the level for the requester; a frame that the context does not own freezes it; a permission that lacks leaves its kind; a leaf that passes is installed in the last-level TLB of the die and, for a group, in the core’s L1 TLB. A bit above the level is RESERVED_FIELD, and in user and in supervisor mode TLBFILL is PROTECTION: the group freezes. TLBINV in supervisor mode removes from every TLB of the module, of cores and of dies, the translations of its context, all of them or those of one address, and no other; it completes, the pc at the next word, when no access in flight went through them, those that it removed while it waited among them, and waits before; in user mode it is PROTECTION. -/
def Obligations.TranslationWords : Prop :=
  ∀ (s : State) (a b : SReg) (r : WalkReq),
    let e := s.g.sreg b
    let lev := (s.g.sreg a).toNat
    let bits := pageBits lev e
    let bad := s.malformed r.ctx (s.descFor s.cur.core r.ctx) e lev
    let owned := pteLoc e < 2 → s.owned r.ctx (pteFrame e) (2 ^ (bits - 16)) = true
    let va := if s.g.sreg b = 1 then none else some (s.g.sreg a).toNat
    let old := match s.g.sWait with | some (.inv l) => l | _ => []
    let pages := old ++ (s.tlbPages s.g.ctx va).filter fun p => !old.contains p
    let busy := ((s.modG Group.passJoin).dropTlb s.g.ctx va).throughPages s.g.ctx pages
    (s.g.mode = .walker → lev < 4 → (s.coreAt s.cur.core).walk = some r → pteV e = true → pteLeaf e = true → bad = false → owned →
      notPermitted e r.kind.toNat r.user = none →
      ∃ t, exec (.tlbfill a b) s = .next t ∧ t.g.st = .waiting ∧ (t.coreAt s.cur.core).walk = none
        ∧ (⟨r.ctx, r.va.toNat / 2 ^ bits * 2 ^ bits, bits, e⟩ : TlbEntry) ∈ (t.dieAt (s.tlbDie ⟨r.who, s.cur.core, r.ctx, r.user⟩)).tlb
        ∧ (isGroupReq r.who = true → (⟨r.ctx, r.va.toNat / 2 ^ bits * 2 ^ bits, bits, e⟩ : TlbEntry) ∈ (t.coreAt s.cur.core).tlb)
        ∧ ∀ p, t.byteAt p = s.byteAt p)
    ∧ (s.g.mode = .supervisor → (s.g.sreg b).toNat < 2 → s.g.joined = true →
      (busy = false → ∃ t, exec (.tlbinv a b) s = .next t ∧ t.g.spc = s.g.spc + 4 ∧ t.g.sWait = none)
      ∧ (busy = true → ∃ t, exec (.tlbinv a b) s = .next t ∧ t.g.spc = s.g.spc ∧ t.g.sWait = some (.inv pages))
      ∧ ∃ t, exec (.tlbinv a b) s = .next t ∧ t.g.s = s.g.s ∧ (∀ p, t.byteAt p = s.byteAt p)
        ∧ (∀ c x, x ∈ (t.coreAt c).tlb ↔ x ∈ (s.coreAt c).tlb ∧ ¬(x.ctx = s.g.ctx ∧ ∀ v, va = some v → x.hits s.g.ctx v = true))
        ∧ (∀ c x, x ∈ (t.dieAt c).tlb ↔ x ∈ (s.dieAt c).tlb ∧ ¬(x.ctx = s.g.ctx ∧ ∀ v, va = some v → x.hits s.g.ctx v = true)))
    ∧ (s.g.mode = .walker → lev < 4 → (s.coreAt s.cur.core).walk = some r →
      let s1 := (s.modG fun g => { g.issue s.now with st := .waiting }).setCore s.cur.core { s.coreAt s.cur.core with walk := none }
      let ends (k l : Nat) : Prop :=
        exec (.tlbfill a b) s = .next (s1.setCore s.cur.core { s1.coreAt s.cur.core with verdict := some (r, k, l) })
      (pteV e = false → pteFt e = false → ends 0 lev)
      ∧ ((pteV e = true ∨ pteFt e = true) → bad = true → ends 7 lev)
      ∧ (bad = false → pteV e = true → pteLeaf e = false → ends 7 lev)
      ∧ (bad = false → pteV e = false → pteFt e = true → ends 1 lev)
      ∧ (bad = false → pteV e = true → pteLeaf e = true →
          (¬ owned → exec (.tlbfill a b) s = .next (s1.freezeRequester r (BitVec.ofNat 64 (pteFrame e * 65536))))
          ∧ (owned → ∀ k, notPermitted e r.kind.toNat r.user = some k → ends k (if bits = 26 then 1 else 0))))
    ∧ (s.g.mode = .walker → 4 ≤ lev → exec (.tlbfill a b) s = s.trapS .reservedField)
    ∧ (s.g.mode = .walker → lev < 4 → (s.coreAt s.cur.core).walk = none →
        nextWith (exec (.tlbfill a b) s) fun t => t.g.st = .waiting ∧ t.cores = s.cores ∧ t.dies = s.dies)
    ∧ (s.g.mode ≠ .walker → nextWith (exec (.tlbfill a b) s) fun t => t.g.st = .frozen ∧ t.g.cause = 0x12 ∧ t.cores = s.cores ∧ t.dies = s.dies)
    ∧ (s.g.mode = .user → nextWith (exec (.tlbinv a b) s) fun t => t.g.st = .frozen ∧ t.g.cause = 0x12 ∧ t.cores = s.cores ∧ t.dies = s.dies)
    ∧ (s.g.mode = .supervisor → 2 ≤ (s.g.sreg b).toNat → exec (.tlbinv a b) s = s.trapS .reservedField)
    ∧ (s.g.mode = .supervisor → (s.g.sreg b).toNat < 2 → s.g.joined = false → waits (.tlbinv a b) s (.stall .join))

/-- A fence of each kind and scope completes once every queued lane word has issued and every access of the group has performed, and waits before; WAITP completes where the path’s counter is at most sa, and waits above. YIELD goes on at once where no other group could enter; otherwise its group is PENDING at the next word with a new age stamp and its starvation flag, and the group that the scheduler picks among the others takes its place. SLEEP of 0 goes on; of n cycles it waits until they have passed, WAITING once the lane stream has nothing left, and its expiry makes the group PENDING at the next word. WAITG writes a known handle’s status, waits with a deadline of now plus a finite timeout, writes TIMEOUT at once for a timeout of 0 and at its expiry; an illegal blocking wait and its own handle are ILLEGAL_WAIT, and a bad one RESERVED_FIELD. A WAITG on a record installs the translation of its page, and stalls while an SDUE holds the record’s row. Each word that is a join waits until it has joined. -/
def Obligations.FencesAndWaits : Prop :=
  ∀ (s : State) (sc : BitVec 5) (p : Path) (d a b : SReg) (st core slot : Nat) (h : Word),
    let x := s.handle s.g (s.g.sreg a)
    let s0 := s.modG Group.passJoin
    let s1 := s0.lookUp s.g.ctx (s.g.sreg a)
    (s.g.joined = true → s.g.performed = true → joinGives (.fence sc) s 0 0 ∧ joinGives (.fenceAcq sc) s 0 0 ∧ joinGives (.fenceRel sc) s 0 0)
    ∧ (s.g.joined = true → s.g.performed = false → ∀ i ∈ [Instr.fence sc, .fenceAcq sc, .fenceRel sc], waits i s (.stall .fence))
    ∧ (s.g.joined = false → ∀ i ∈ [Instr.fence sc, .fenceAcq sc, .fenceRel sc, .waitp p a, .waitg d a b], waits i s (.stall .join))
    ∧ (s.g.joined = true → (s.g.inflight.filter fun x => x.path == p).length ≤ (s.g.sreg a).toNat → joinGives (.waitp p a) s 0 0)
    ∧ (s.g.joined = true → (s.g.sreg a).toNat < (s.g.inflight.filter fun x => x.path == p).length →
        waits (.waitp p a) s (.path p (s.g.sreg a).toNat)
        ∧ (s.g.st = .active → lanesEmpty s.g → nextWith (exec (.waitp p a) s) fun t => t.g.st = .waiting))
    ∧ (s.entrantOf (· != s.cur.slot) s.cur.core (8 - s.used s.cur.core + s.g.places) = none →
        nextWith (exec .yield s) fun t => onlyGroup s t ∧ t.mem = s.mem
          ∧ t.g = { s.g with spc := s.g.spc + 4, sWait := none, lastIssue := s.now, issued := true })
    ∧ (∀ k, s.entrantOf (· != s.cur.slot) s.cur.core (8 - s.used s.cur.core + s.g.places) = some k →
        let g := { s.g with spc := s.g.spc + 4, sWait := none, issued := true, st := .pending, age := s.time, lastIssue := s.now }
        let u := s.setG g
        k ≠ s.cur.slot ∧ nextWith (exec .yield s) fun t => t = u.setGroupAt s.cur.core k { s.groupAt s.cur.core k with st := .active })
    ∧ (s.g.sreg a = 0 → scalarGives (.sleep a) s 0 0)
    ∧ (s.g.sreg a ≠ 0 → s.g.sWait = none → nextWith (exec (.sleep a) s) fun t => t.g.sWait = some .sleep ∧ t.g.spc = s.g.spc ∧ t.g.s = s.g.s
        ∧ t.g.deadline = some (s.now + min (s.g.sreg a).toNat 0xFFFFFFFF) ∧ (s.g.st = .active → lanesEmpty s.g → t.g.st = .waiting))
    ∧ (∀ n, s.g.sreg a ≠ 0 → s.g.sWait = some .sleep → s.g.deadline = some n → n ≤ s.now →
        nextWith (exec (.sleep a) s) fun t => t.g.spc = s.g.spc + 4 ∧ t.g.sWait = none ∧ t.g.deadline = none ∧ t.g.s = s.g.s)
    ∧ ((s.groupAt core slot).sWait = some .sleep → (∃ x, (s.groupAt core slot).deadline = some x ∧ x ≤ s.cycles core) →
        (s.groupAt core slot).st = .waiting →
        nextWith (exec (.sleepExpiry core slot) s) fun t => (t.groupAt core slot).st = .pending
          ∧ (t.groupAt core slot).spc = (s.groupAt core slot).spc + 4 ∧ (t.groupAt core slot).sWait = none)
    ∧ (s.g.joined = true → s.handleHeld s.g.ctx (s.g.sreg a) = true → ∃ r, waits (.waitg d a b) s (.stall r))
    ∧ (s.g.joined = true → s.handleHeld s.g.ctx (s.g.sreg a) = false → handleLegal s.g.cls x = true →
        (x.status = some st → nextWith (exec (.waitg d a b) s) fun t => t.g.sreg d = (if d = 0 then 0 else BitVec.ofNat 64 st)
          ∧ t.g.spc = s.g.spc + 4 ∧ scalarFrame d (s1.modG fun g => { g with deadline := none }) t)
        ∧ (x.status = none → s.g.sreg b = 0 →
            nextWith (exec (.waitg d a b) s) fun t => t.g.sreg d = (if d = 0 then 0 else 1) ∧ t.g.spc = s.g.spc + 4 ∧ ∀ r, r ≠ d → t.g.sreg r = s.g.sreg r)
        ∧ (x.status = none → s.g.sreg b ≠ 0 → s.g.sWait = none → waits (.waitg d a b) s (.handle (s.g.sreg a) d)
            ∧ nextWith (exec (.waitg d a b) s) fun t =>
              t.g.deadline = (if s.g.sreg b = BitVec.allOnes 64 then none else some (s.now + (s.g.sreg b).toNat))
                ∧ (s.g.st = .active → lanesEmpty s.g → t.g.st = .waiting)))
    ∧ (s.g.joined = true → x = .own → exec (.waitg d a b) s = s1.trapS .illegalWait)
    ∧ (s.g.joined = true → x = .bad → exec (.waitg d a b) s = s1.trapS .reservedField)
    ∧ (s.g.joined = true → s.handleHeld s.g.ctx (s.g.sreg a) = false → x ≠ .bad → handleLegal s.g.cls x = false → s.g.sreg b ≠ 0 → exec (.waitg d a b) s = s1.trapS .illegalWait)
    ∧ ((s.groupAt core slot).sWait = some (.handle h d) → (∃ x, (s.groupAt core slot).deadline = some x ∧ x ≤ s.cycles core) →
        (s.groupAt core slot).st = .waiting → (s.handle (s.groupAt core slot) h).status = none →
        nextWith (exec (.waitgTimeout core slot) s) fun t => (t.groupAt core slot).sreg d = (if d = 0 then 0 else 1)
          ∧ (t.groupAt core slot).spc = (s.groupAt core slot).spc + 4 ∧ (t.groupAt core slot).st = .pending)

/-- At a join, for a group of a team: BAR arrives in the team’s current phase; where every other group of the team has arrived or ended it completes at once, the phase advances, and sd takes 1 where a group of the team is HALTED or FROZEN and 0 otherwise; else it waits with its arrival noted, WAITING once its lane stream has nothing left. BARARRIVE notes the arrival, writes 0 to sd and goes on. BARWAIT completes with the status once its arrival’s phase has ended, and waits before. BAR and BARARRIVE, whose arrival is a release (R296), wait until the group’s accesses have performed. A group that no team record names is alone at its barrier. A second arrival, or BARWAIT without one, is ILLEGAL_WAIT. Each word waits until it has joined. -/
def Obligations.TeamBarrier : Prop :=
  ∀ (s : State) (d : SReg) (ph i : Nat) (tm : Team),
    let s0 := s.modG Group.passJoin
    let b := s.barrierOf s.g.team tm
    let status : Word := if s.teamBroken s.g.team then 1 else 0
    (s.g.joined = false → ∀ i ∈ [Instr.bar d, .bararrive d, .barwait d], waits i s (.stall .join))
    ∧ (s.g.joined = true → s.g.performed = false → ∀ i ∈ [Instr.bar d, .bararrive d], waits i s (.stall .fence))
    ∧ (s.g.joined = true →
      (s.g.performed = true → s.g.barPhase = none → s.teamOf s.g = some tm →
        ((∀ i, i < tm.ngroups → i = s.g.gidx ∨ i ∈ b.arrived ∨ s.endedIn s.g.team i = true) →
          nextWith (exec (.bar d) s) fun t => t.g.sreg d = (if d = 0 then 0 else status) ∧ t.g.spc = s.g.spc + 4 ∧ t.g.barPhase = none
            ∧ (∀ r, r ≠ d → t.g.sreg r = s.g.sreg r) ∧ t.team? s.g.team = some { tm with bar := ⟨b.phase + 1, []⟩ } ∧ ∀ p, t.byteAt p = s.byteAt p)
        ∧ (i < tm.ngroups → i ≠ s.g.gidx → i ∉ b.arrived → s.endedIn s.g.team i = false →
          waits (.bar d) s .barrier ∧ nextWith (exec (.bar d) s) fun t => t.g.barPhase = some b.phase ∧ t.g.barWaits = true
            ∧ t.team? s.g.team = some { tm with bar := ⟨b.phase, b.arrived ++ [s.g.gidx]⟩ } ∧ (s.g.st = .active → lanesEmpty s.g → t.g.st = .waiting))
        ∧ nextWith (exec (.bararrive d) s) fun t => t.g.sreg d = 0 ∧ t.g.spc = s.g.spc + 4 ∧ t.g.barPhase = some b.phase
            ∧ (∀ r, r ≠ d → t.g.sreg r = s.g.sreg r)
            ∧ t.team? s.g.team = some { tm with bar := ⟨b.phase, b.arrived ++ [s.g.gidx]⟩ } ∧ ∀ p, t.byteAt p = s.byteAt p)
      ∧ (s.g.performed = true → s.g.barPhase = none → s.teamOf s.g = none →
          (nextWith (exec (.bar d) s) fun t => t.g.sreg d = (if d = 0 then 0 else status) ∧ t.g.spc = s.g.spc + 4 ∧ t.g.barPhase = none)
          ∧ nextWith (exec (.bararrive d) s) fun t => t.g.sreg d = 0 ∧ t.g.spc = s.g.spc + 4 ∧ t.g.barPhase = some 0)
      ∧ (s.g.performed = true → s.g.barPhase.isSome → exec (.bararrive d) s = s0.trapS .illegalWait ∧ (s.g.barWaits = false → exec (.bar d) s = s0.trapS .illegalWait))
      ∧ (s.g.barPhase = none → exec (.barwait d) s = s0.trapS .illegalWait)
      ∧ (s.g.barPhase = some ph → s.teamOf s.g = some tm → ph < b.phase →
          ∀ i ∈ [Instr.barwait d] ++ (if s.g.barWaits && s.g.performed then [.bar d] else []),
          nextWith (exec i s) fun t => t.g.spc = s.g.spc + 4 ∧ t.g.barPhase = none
            ∧ t.g.sreg d = (if d = 0 then 0 else status) ∧ (∀ r, r ≠ d → t.g.sreg r = s.g.sreg r) ∧ ∀ p, t.byteAt p = s.byteAt p)
      ∧ (s.g.barPhase = some ph → s.teamOf s.g = some tm → b.phase ≤ ph → waits (.barwait d) s .barrier))

/-- At a join, for a group of a team whose every group has arrived at REGROUP, is alike in width and allocation and has nothing outstanding, with empty reconvergence stacks and key registers inside the allocation, REGROUP permutes the lanes of the whole team: all registers and masks of the allocation move together, in ascending order of key, then of group index, then of lane; every group’s EM becomes all its lanes and its pc the next word, and the rendezvous begins anew. While a group has not arrived, or has something outstanding, it waits with its arrival noted, and a team with a HALTED or FROZEN group traps with ILLEGAL_WAIT. A group that no team record names is alone. A key register outside the allocation traps with REG_OUT_OF_BLOCK, a non-empty stack with ILLEGAL_WAIT, and a number of 640 or more with RESERVED_FIELD. -/
def Obligations.RegroupSortsLanes : Prop :=
  ∀ (s : State) (v : VReg) (tm : Team) (c : Cause),
    let key := s.g.gidx * 1024 + v.toNat
    let s0 := s.modG Group.passJoin
    let arrived := if tm.regroup.arrived.contains key then tm.regroup.arrived else tm.regroup.arrived ++ [key]
    let s1 := s0.setTeam s.g.team { tm with regroup := ⟨tm.regroup.phase, arrived⟩ }
    let l := s1.regroupers s.g.team arrived
    let full := s0.allArrived s.g.team tm (arrived.map fun x => x / 1024)
    let calm := l.all fun p => p.2.2.quiet
    (640 ≤ v.toNat → exec (.regroup v) s = s.trapS .reservedField)
    ∧ (v.toNat < 640 → s.g.joined = false → waits (.regroup v) s (.stall .join))
    ∧ (v.toNat < 640 → s.g.joined = true → s.teamOf s.g = some tm →
      (s.teamBroken s.g.team = true → exec (.regroup v) s = .next (regroupTrap .illegalWait s.g.team l s1))
      ∧ (s.teamBroken s.g.team = false → full = false ∨ calm = false → waits (.regroup v) s .regroup
          ∧ nextWith (exec (.regroup v) s) fun t => t.team? s.g.team = some { tm with regroup := ⟨tm.regroup.phase, arrived⟩ })
      ∧ (s.teamBroken s.g.team = false → full = true → calm = true → regroupFails l = some c →
          exec (.regroup v) s = .next (regroupTrap c s.g.team l s1))
      ∧ ∀ width alloc, s.teamBroken s.g.team = false → full = true → calm = true → width ≤ 64 → (l.map Prod.fst).Nodup →
          (∀ p ∈ l, p.2.2.width = width ∧ p.2.2.alloc = alloc ∧ p.2.1 < alloc ∧ p.2.2.rstack = []) →
          nextWith (exec (.regroup v) s) fun t =>
            t.team? s.g.team = some { tm with regroup := ⟨tm.regroup.phase + 1, []⟩ } ∧ (∀ p, t.byteAt p = s.byteAt p)
            ∧ (∀ k, k ∉ l.map Prod.fst → sget Group.init k t.groups = sget Group.init k s0.groups)
            ∧ (∀ p ∈ l, let g := sget Group.init p.1 t.groups
                g.spc = p.2.2.spc + 4 ∧ g.em = widthMask width ∧ g.s = p.2.2.s ∧ g.k = p.2.2.k ∧ g.status = p.2.2.status ∧ g.sWait = none)
            ∧ regroupSorted l width alloc fun j => match l[j]? with | some p => sget Group.init p.1 t.groups | none => Group.init)
    ∧ (v.toNat < 640 → s.g.joined = true → s.teamOf s.g = none → s.teamBroken s.g.team = false → s.g.quiet = true → s.g.width ≤ 64 →
      (s.g.alloc ≤ v.toNat → nextWith (exec (.regroup v) s) fun t => t.groups = (s0.trapEntry false .regOutOfBlock TrapInfo.none).groups)
      ∧ (v.toNat < s.g.alloc → s.g.rstack ≠ [] →
          nextWith (exec (.regroup v) s) fun t => t.groups = (s0.trapEntry false .illegalWait TrapInfo.none).groups)
      ∧ (v.toNat < s.g.alloc → s.g.rstack = [] →
          nextWith (exec (.regroup v) s) fun t => t.g.spc = s.g.spc + 4 ∧ t.g.em = widthMask s.g.width ∧ t.g.s = s.g.s ∧ onlyGroup s t
            ∧ (∀ p, t.byteAt p = s.byteAt p) ∧ regroupSorted [(0, v.toNat, s.g)] s.g.width s.g.alloc fun _ => t.g))

/-- At a join: RACQ of a block within the budget takes free rows that read zero; where no aligned block is free the core compacts its file, once no load or assist keeps it, and RACQ takes rows of the compacted file; while there are none it waits, the file compacted. With a block held it is RESERVED_FIELD and above the budget REG_OUT_OF_BLOCK. RREL frees the block, and waits for loads into it. GEXIT marks the group as leaving, in supervisor mode with the trap as its fault at the TIME of the GEXIT (the model’s choice, log entry 90); once it has drained, it ends EXITED with its block freed. TRETIRE leaves likewise and stops every live sibling. TLAUNCH of a record of the context, once the group’s accesses have performed, decrements that record’s counter and returns its index, unless an SDUE holds a row that this meets, for which it waits; a misaligned record address traps, one outside the region, below or past it, is PROTECTION, and in a commit task it is COMMIT_FORBIDDEN. That TRETIRE stops its siblings at once, and in which order TLAUNCH makes its checks, are the model’s choices (log entries 21 and 65). -/
def Obligations.BlocksExitAndLaunch : Prop :=
  ∀ (s : State) (n : Rows) (d a : SReg) (rows : List Nat) (core slot : Nat) (tm : Team),
    let s0 := s.modG Group.passJoin
    let has (t : State) (moved : Bool) : Prop :=
      t.g.ext = n.count ∧ t.g.extRows = rows ∧ t.g.spc = s.g.spc + 4 ∧ t.g.s = s.g.s ∧ (moved = false → onlyGroup s t)
        ∧ (∀ r i, 128 ≤ r → i < 64 → t.g.vreg r i = 0) ∧ (∀ r i, r < 128 → i < 64 → t.g.vreg r i = s.g.vreg r i) ∧ ∀ p, t.byteAt p = s.byteAt p
    (s.g.joined = false → ∀ i ∈ [Instr.racq n, .rrel, .gexit, .tretire], waits i s (.stall .join))
    ∧ (s.g.joined = true →
      (s.g.ext = 0 → n.count ≤ s.budget s.g → allocRows (s.rowsUsed s.cur.core) n.count s.g.places = some rows →
        nextWith (exec (.racq n) s) fun t => has t false)
      ∧ (s.g.ext = 0 → n.count ≤ s.budget s.g → allocRows (s.rowsUsed s.cur.core) n.count s.g.places = none →
          (s0.canCompact s.cur.core = false → waits (.racq n) s (.rows n.count))
          ∧ (s0.canCompact s.cur.core = true → s.cur.slot < 47 →
            (allocRows ((s0.compact s.cur.core).rowsUsed s.cur.core) n.count s.g.places = some rows → nextWith (exec (.racq n) s) fun t => has t true)
            ∧ (allocRows ((s0.compact s.cur.core).rowsUsed s.cur.core) n.count s.g.places = none → waits (.racq n) s (.rows n.count)
              ∧ nextWith (exec (.racq n) s) fun t => ∀ c j, (t.groupAt c j).extRows = ((s0.compact s.cur.core).groupAt c j).extRows
                ∧ (t.groupAt c j).baseRows = ((s0.compact s.cur.core).groupAt c j).baseRows)))
      ∧ (s.g.ext ≠ 0 → exec (.racq n) s = s0.trapS .reservedField)
      ∧ (s.g.ext = 0 → s.budget s.g < n.count → exec (.racq n) s = s0.trapS .regOutOfBlock)
      ∧ (s.g.ext = 0 → exec .rrel s = s0.trapS .reservedField)
      ∧ (s.g.ext ≠ 0 → s.g.extLoads = true → waits .rrel s (.stall .ext))
      ∧ (s.g.ext ≠ 0 → s.g.extLoads = false → nextWith (exec .rrel s) fun t => t.g.ext = 0 ∧ t.g.extRows = [] ∧ t.g.spc = s.g.spc + 4
          ∧ t.g.s = s.g.s ∧ onlyGroup s t ∧ ∀ r i, r < 128 → i < 64 → t.g.vreg r i = s.g.vreg r i)
      ∧ (nextWith (exec .gexit s) fun t => t.g.exiting = true ∧ t.g.st = s.g.st ∧ t.g.s = s.g.s ∧ ∀ p, t.byteAt p = s.byteAt p)
      ∧ (s.g.mode = .supervisor → ∀ i ∈ [Instr.gexit, .tretire], nextWith (exec i s) fun t => t.g.fault = some (s.time, s.g.cause.extractLsb' 0 8))
      ∧ (nextWith (exec .tretire s) fun t => t.g.exiting = true ∧ t.g.st = s.g.st ∧ t.g.s = s.g.s ∧ ∀ p, t.byteAt p = s.byteAt p)
      ∧ (s.teamOf s.g = some tm → nextWith (exec .tretire s) fun t =>
          ∀ c k, (s.groupAt c k).team = s.g.team → (s.groupAt c k).gidx ≠ s.g.gidx → (s.groupAt c k).live = true →
            (t.groupAt c k).stopped = true ∧ (t.groupAt c k).lq = [] ∧ (t.groupAt c k).run = none))
    ∧ (let g := s.groupAt core slot
       (g.exiting = true ∨ g.stopped = true) → g.live = true → s.drained core g = true → g.nmPoison = false →
        nextWith (exec (.groupExitComplete core slot) s) fun t => (t.groupAt core slot).st = .exited ∧ (t.groupAt core slot).ext = 0
          ∧ (t.groupAt core slot).ret = [] ∧ (t.groupAt core slot).s = g.s ∧ (t.groupAt core slot).status = g.status
          ∧ ∀ p, t.byteAt p = s.byteAt p)
    ∧ (let va := (s.g.sreg a).toNat
       let base := (s.ctxAt s.g.ctx).almBase.toNat
       let len := (s.ctxAt s.g.ctx).almRecords
       (va % 64 ≠ 0 → exec (.tlaunch d a) s = s.trapS .misaligned)
       ∧ (va % 64 = 0 → (va < base ∨ len ≤ (va - base) / 64) → s.g.mode ≠ .walker → nextWith (exec (.tlaunch d a) s) fun t => t.g.st = .frozen)
       ∧ (va % 64 = 0 → base ≤ va → (va - base) / 64 < len →
          (s.inCommit s.g = true → exec (.tlaunch d a) s = s.trapS .commitForbidden)
          ∧ (s.inCommit s.g = false → s.g.joined = false → waits (.tlaunch d a) s (.stall .join))
          ∧ (s.inCommit s.g = false → s.g.joined = true → s.g.performed = false → waits (.tlaunch d a) s (.stall .fence))
          ∧ (s.inCommit s.g = false → s.g.joined = true → s.g.performed = true →
            let i := (va - base) / 64
            let u := s0.decrement s.g.ctx i
            (u.cur.rowWait = false → exec (.tlaunch d a) s = .next (u.writeNext d (BitVec.ofNat 64 i)))
            ∧ (u.cur.rowWait = true → s.cur.rowWait = false → nextWith (exec (.tlaunch d a) s) fun t =>
                (∃ f, t.g.sWait = some (.stall (.held f 64 true))) ∧ t.g.spc = s.g.spc ∧ t.g.s = s.g.s ∧ t.mem = s.mem))))

/-- GROUP_SWAP puts the entrant into a vacant place of the active set; the entrant is PENDING, its class lets it issue and it fits; where a group is flagged it is the oldest flagged one, and else no group that could enter is older. STARVATION_FLAG flags a PENDING group that has not issued for STARVE cycles; FORCED_SWAP makes the oldest group flagged for STARVE cycles ACTIVE where no vacated place fits it; DEPENDENCE_RESOLVED returns a WAITING group whose dependence has resolved, or whose lane stream can issue, to PENDING with a new age stamp. COMPACTION, where a RACQ waits for rows that are not free, moves the register blocks: the largest first and among equals the lowest, each to the lowest free row that is a multiple of its size, leaving the groups that it does not move; it changes no register’s value, and every group that it moves has parked. -/
def Obligations.CoreScheduler : Prop :=
  ∀ (s : State) (core slot k v : Nat),
    let g := s.groupAt core slot
    let pend := (s.coreGroups core).filter fun p => p.2.st == .pending && s.classLets p.2
    (s.entrant core (8 - s.used core) = some k → nextWith (exec (.groupSwap core) s) fun t =>
        t.groupAt core k = { s.groupAt core k with st := .active } ∧ t.mem = s.mem)
    ∧ (s.entrant core (8 - s.used core) = none → exec (.groupSwap core) s = .next s)
    ∧ (s.entrant core v = some k → (k, s.groupAt core k) ∈ pend ∧ (s.groupAt core k).places ≤ v
        ∧ (∀ p ∈ pend, p.2.starved.isSome → (s.groupAt core k).starved.isSome ∧ (s.groupAt core k).flaggedAt ≤ p.2.flaggedAt)
        ∧ ((s.groupAt core k).starved = none → ∀ p ∈ pend, p.2.places ≤ v → (s.groupAt core k).age ≤ p.2.age))
    ∧ (g.st = .pending → g.starved = none → g.lastIssue + (s.coreAt core).starve.toNat ≤ s.cycles core →
        nextWith (exec (.starvationFlag core slot) s) fun t => t.groupAt core slot = { g with starved := some (s.cycles core) } ∧ t.mem = s.mem)
    ∧ (oldest Group.flaggedAt ((s.coreGroups core).filter fun p => p.2.st == .pending && p.2.starved.isSome) = some (k, s.groupAt core k) →
        (s.groupAt core k).flaggedAt + (s.coreAt core).starve.toNat ≤ s.cycles core →
        (8 < s.used core + (s.groupAt core k).places → nextWith (exec (.forcedSwap core) s) fun t => (t.groupAt core k).st = .active ∧ t.mem = s.mem)
        ∧ (s.used core + (s.groupAt core k).places ≤ 8 → exec (.forcedSwap core) s = .next s))
    ∧ (g.st = .waiting → g.mode ≠ .walker → (s.scalarStuck core g = false ∨ s.laneReady core g = true) →
        nextWith (exec (.dependenceResolved core slot) s) fun t =>
          t.groupAt core slot = { g with st := .pending, age := s.time, lastIssue := s.cycles core } ∧ t.mem = s.mem)
    ∧ (s.rowsWanted core = false ∨ s.canCompact core = false → exec (.compaction core) s = .next s)
    ∧ (s.rowsWanted core = true → s.canCompact core = true →
        let placed := placeBlocks (((s.coreGroups core).filter fun p => p.2.pinned).flatMap fun p => (blocksOf p).map fun b => (b.row, b.size))
          (blockOrder (((s.coreGroups core).filter fun p => !p.2.pinned).flatMap blocksOf))
        nextWith (exec (.compaction core) s) fun t => t.mem = s.mem
          ∧ (∀ c j, (t.groupAt c j).v = (s.groupAt c j).v ∧ (t.groupAt c j).s = (s.groupAt c j).s ∧ (t.groupAt c j).m = (s.groupAt c j).m
            ∧ (t.groupAt c j).k = (s.groupAt c j).k ∧ (t.groupAt c j).ext = (s.groupAt c j).ext)
          ∧ ∀ j, j < 47 → (s.groupAt core j).pinned = false →
              (t.groupAt core j).baseRows = movedRows placed j false ∧ (t.groupAt core j).extRows = movedRows placed j true
                ∧ (t.groupAt core j).st ≠ .active ∧ (t.groupAt core j).waitingWords = [])
    ∧ (∀ (used : List (Nat × Nat)) (b : RowBlock) (r : List RowBlock) (x : Nat), lowestFree used b.size = some x → 0 < b.size →
        (∃ rest, placeBlocks used (b :: r) = (b, x) :: rest) ∧ x % b.size = 0 ∧ (∀ u ∈ used, overlap x b.size u.1 u.2 = false)
          ∧ ∀ y, y < x → y % b.size = 0 → ∃ u ∈ used, overlap y b.size u.1 u.2 = true)

/-- A matrix command of a group whose team holds the unit, at a join, with its accesses performed, no switch of an FLOAD queued and fewer than sixteen commands out, a well-formed pack whose operands lie in the window, an accumulator not reserved and room for its locks, completes: it goes into the core’s queue with its pack, stream, accumulator, batch, FMT and RNGKEY; the accumulators, memory and registers are unchanged and the pc moves on. A full queue and locks without room make it wait; each failed check has its own end. MFENCE returns the number of the batch that it closes. MWAIT of a closed batch completes when no command of it is outstanding or faulted and waits while one is outstanding; where one has faulted it raises the first fault in issue order, once: bad data halts the group, PROTECTION freezes it, anything else traps with what ended the command; of an open batch it is ILLEGAL_WAIT. Without the unit each is PROTECTION. A pack in the quad of s0 is RESERVED_FIELD and one in a register that is no multiple of 4 MISALIGNED, before every other check. The key under which a stochastic MSTORE draws, and which alignments are checked for an operand that is not used, are the model’s choices (log entries 89 and 67). -/
def Obligations.MatrixIssue : Prop :=
  ∀ (s : State) (a d : SReg) (acc : BitVec 2) (stream : BitVec 3),
    let submitted (kind : Nat) (pack : List Word) (st ac : Nat) (t : State) : Prop :=
      (∃ m : MCmd, (t.coreAt s.cur.core).mcmds = (s.coreAt s.cur.core).mcmds ++ [m] ∧ m.kind = kind ∧ m.pack = pack ∧ m.stream = st
        ∧ m.acc = ac ∧ m.team = s.g.team ∧ m.gidx = s.g.gidx ∧ m.batch = s.g.nextBatch ∧ m.fmt = s.g.fmtS
        ∧ m.rngkey = s.g.rngkeyS ∧ m.sdraw = s.g.sdraw ∧ m.fault = none)
      ∧ (t.coreAt s.cur.core).mx = (s.coreAt s.cur.core).mx ∧ t.g.spc = s.g.spc + 4 ∧ t.g.s = s.g.s ∧ ∀ p, t.byteAt p = s.byteAt p
    let s0 := s.modG Group.passJoin
    let issues (i : Instr) (kind : Nat) (pack : List Word) (st ac : Nat) (ops : List Operand) (reserved misaligned : Bool) : Prop :=
      (reserved = true → exec i s = s0.trapS .reservedField)
      ∧ (reserved = false → misaligned = true → exec i s = s0.trapS .misaligned)
      ∧ (reserved = false → misaligned = false → overruns s.vaultWindow.2 ops = true → exec i s = s0.trapS .scratchBounds)
      ∧ (reserved = false → misaligned = false → overruns s.vaultWindow.2 ops = false →
          (s.accReserved s.cur.core ac = true → exec i s = s0.protection 0 0 0)
          ∧ (s.accReserved s.cur.core ac = false → s.lockRoom (mxLocks s ops) = false → waits i s (.stall (.locks (mxLocks s ops))))
          ∧ (s.accReserved s.cur.core ac = false → s.lockRoom (mxLocks s ops) = true → nextWith (exec i s) (submitted kind pack st ac)))
    (s.holdsMatrix = true → a ≠ 0 → a.toNat % 4 = 0 → ∀ i ∈ [Instr.mloop a, .mstore a, .mzero acc stream],
        (s.g.joined = false → waits i s (.stall .join))
        ∧ (s.g.joined = true → s.g.performed = false ∨ s.g.lq.any LqItem.isSwitch = true → waits i s (.stall .command))
        ∧ (s.g.joined = true → s.g.performed = true → s.g.lq.any LqItem.isSwitch = false → 16 ≤ s.mxOut s.cur.core → waits i s (.stall .matrix)))
    ∧ (s.holdsMatrix = true → s.g.joined = true → s.g.performed = true → s.g.lq.any LqItem.isSwitch = false → s.mxOut s.cur.core < 16 →
      (a ≠ 0 → a.toNat % 4 = 0 →
        let p := (List.range 4).map (s.g.quad a)
        let x := loopPack p
        let y := storePack p
        issues (.mloop a) 0 p x.stream x.acc (loopOperands (mformat s.g.fmtS) x) (loopReserved p) (loopMisaligned x)
        ∧ issues (.mstore a) 1 p y.stream y.acc (storeOperands y) (storeReserved p) (storeMisaligned y))
      ∧ issues (.mzero acc stream) 2 [] stream.toNat acc.toNat [] false false)
    ∧ (s.holdsMatrix = true →
        (nextWith (exec (.mfence d) s) fun t => t.g.sreg d = (if d = 0 then 0 else BitVec.ofNat 64 s.g.nextBatch)
          ∧ t.g.nextBatch = s.g.nextBatch + 1 ∧ t.g.spc = s.g.spc + 4 ∧ (∀ r, r ≠ d → t.g.sreg r = s.g.sreg r) ∧ onlyGroup s t)
        ∧ ((s.g.sreg a).toNat < s.g.nextBatch → s.batchBusy s.cur.core s.g (s.g.sreg a).toNat = false → s.mxFaults (s.g.sreg a).toNat = [] →
            scalarGives (.mwait a) s 0 0)
        ∧ (∀ e rest, (s.g.sreg a).toNat < s.g.nextBatch → s.batchBusy s.cur.core s.g (s.g.sreg a).toNat = false → s.g.mode ≠ .walker →
            s.mxFaults (s.g.sreg a).toNat = e :: rest →
            let u := s.dropFaults (s.g.sreg a).toNat
            u.mxFaults (s.g.sreg a).toNat = []
            ∧ (e.cause = .poison ∨ e.cause = .uncorrectable → nextWith (exec (.mwait a) s) fun t =>
                t.g.st = .halted ∧ t.g.cause = BitVec.ofNat 64 e.cause.code ∧ t.cores = u.cores ∧ t.mem = s.mem)
            ∧ (e.cause = .protection → nextWith (exec (.mwait a) s) fun t => t.g.st = .frozen ∧ t.g.cause = 0x12 ∧ t.cores = u.cores ∧ t.mem = s.mem)
            ∧ (e.cause ≠ .poison → e.cause ≠ .uncorrectable → e.cause ≠ .protection →
                exec (.mwait a) s = .next (u.trapEntry false e.cause ⟨some e.va, 0, e.prog⟩)))
        ∧ ((s.g.sreg a).toNat < s.g.nextBatch → s.batchBusy s.cur.core s.g (s.g.sreg a).toNat = true →
            waits (.mwait a) s (.batch (s.g.sreg a).toNat))
        ∧ (s.g.nextBatch ≤ (s.g.sreg a).toNat → exec (.mwait a) s = s.trapS .illegalWait))
    ∧ (s.holdsMatrix = false → s.g.mode ≠ .walker → a ≠ 0 → a.toNat % 4 = 0 →
        ∀ i ∈ [Instr.mloop a, .mstore a, .mzero acc stream, .mfence d, .mwait a],
        nextWith (exec i s) fun t => t.g.st = .frozen ∧ t.g.s = s.g.s)
    ∧ (∀ i ∈ [Instr.mloop a, .mstore a], (a = 0 → exec i s = s.trapS .reservedField)
        ∧ (a.toNat % 4 ≠ 0 → exec i s = s.trapS .misaligned))

/-- A command of the queue that has not ended, waits for no page and is not held by an earlier command performs and leaves the queue with its locks. MZERO leaves +0 in every element of its accumulator, the poison mark clear and every other accumulator as it was. An MLOOP of one K-step whose operands read without a fault or bad data leaves in every element (m, n) of its accumulator the K-block of the 32 values of row m of A and column n of B and the old element, +0 with ZERO, and every other accumulator as it was; a K-block with a NaN among its products, or with infinities of both signs, is the canonical NaN. An MLOOP of more steps and an MSTORE leave the state that their steps or rows reach. An MSTORE of an unscaled format in the vault window leaves, where its rounding draws nothing, element n of row r converted by the format’s rounding at its place. That the command performs as a whole at its completion event is the model’s choice (log entry 9). -/
def Obligations.MatrixCommandCompletes : Prop :=
  ∀ (s t : State) (core cmd : Nat) (m : MCmd) (before after : List MCmd),
    (s.coreAt core).mcmds = before ++ m :: after → m.id = cmd → m.kind ≤ 2 → (∀ x ∈ before, x.id ≠ cmd) → (∀ x ∈ after, x.id ≠ cmd) →
    m.fault = none → m.pageReq = none → mxBlocked m before = false → s.atomsBefore m.team m.gidx m.id = false →
    let v := match s.team? m.team with | some y => (dieOf core, y.base) | none => (dieOf core, 0)
    let x : MxWho := ⟨⟨.command m.id, core, m.ctx, m.user⟩, m.team, v, s.windowOf { Group.init with team := m.team }⟩
    let s0 := s.asServed core m.ctx
    let f := mformat m.fmt
    let ftz := fmtFtz m.fmt
    let mx := (s.coreAt core).mx
    let left (u : State) : Prop := (∀ y ∈ (u.coreAt core).mcmds, y.id ≠ cmd) ∧ ∀ k y, y ∈ (u.dieAt k).locks → y.cmd ≠ cmd
    (m.kind = 2 → m.acc < 4 → nextWith (exec (.matrixCommandComplete core cmd) s) fun u =>
        (∀ i, i < 16384 → (u.coreAt core).mx.accGet m.acc i = 0) ∧ (u.coreAt core).mx.poison.getLsbD m.acc = false
        ∧ (∀ k i, k ≠ m.acc → i < 16384 → (u.coreAt core).mx.accGet k i = mx.accGet k i)
        ∧ (u.coreAt core).mcmds = before ++ after ∧ ∀ p, u.byteAt p = s.byteAt p)
    ∧ (m.kind = 0 → loopRun x core m s0 = .ok (t, none) →
        nextWith (exec (.matrixCommandComplete core cmd) s) fun u => u.mem = t.mem ∧ (u.coreAt core).mx = (t.coreAt core).mx ∧ left u)
    ∧ (let p := loopPack m.pack
       ∀ q1 q2 rows side codes bside, m.kind = 0 → p.ksteps = 1 → p.holdb = false → p.acc < 4 → p.stream < 8 → codes.length ≤ 65536 →
        rows.length = 32 → loopA x f p mx 0 ⟨s0, none, []⟩ = .ok (q1, rows, side) → loopB x f p 0 q1 = .ok (q2, codes, bside) → q2.bad = none →
        nextWith (exec (.matrixCommandComplete core cmd) s) fun u => left u ∧ u.mem = s.mem
          ∧ (∀ r n, r < 32 → n < 512 →
              let old := if p.zero then FVal.zero false else readF .f32 ftz (mx.accGet p.acc (512 * r + n)).toNat
              let pairs := (List.range 32).map fun k =>
                (f.value ftz (codeAt f.bits (byteOf (rows.getD r [])) k) (sideOf side r),
                 f.value ftz (codeAt f.bits (byteOf codes) (512 * k + n)) (bside.getD n 0))
              (u.coreAt core).mx.accGet p.acc (512 * r + n) = (kblock ftz pairs old).1)
          ∧ ∀ k i, k ≠ p.acc → k < 4 → i < 16384 → (u.coreAt core).mx.accGet k i = mx.accGet k i)
    ∧ (∀ (pairs : List (FVal × FVal)) (old : FVal),
        let ps := pairs.map fun p => (fMul p.1 p.2).1
        (FVal.qnan ∈ ps → (kblock ftz pairs old).1 = 0x7FC00000)
        ∧ (FVal.inf true ∈ ps → FVal.inf false ∈ ps → (kblock ftz pairs old).1 = 0x7FC00000 ∧ (kblock ftz pairs old).2 &&& Flags.inv = Flags.inv))
    ∧ (m.kind = 1 → storeRun x core m s0 = .ok (t, none) →
        (nextWith (exec (.matrixCommandComplete core cmd) s) fun u => u.mem = t.mem ∧ (u.coreAt core).mx = (t.coreAt core).mx ∧ left u)
        ∧ (let p := storePack m.pack
           let bits := storeBits p
           p.dsp = true → storeScaled p = false → 64 * bits ≤ p.dstride → p.dbase + 32 * p.dstride < 2 ^ 64 → fmtRnd m.fmt ≠ 4 →
           nextWith (exec (.matrixCommandComplete core cmd) s) fun u =>
             ∀ r n i, r < 32 → n < 512 → i < bits / 8 →
               let w := (finish (storeType p) ⟨convRnd m.fmt 0, some (fmtNsat m.fmt), 0, 0, ftz⟩ (readF .f32 ftz (mx.accGet p.acc (512 * r + n)).toNat)).bits
               u.byteAt (vaultFlat v.1 (v.2 + (p.dbase + r * p.dstride + n * (bits / 8) + i))) = BitVec.ofNat 8 (w / 2 ^ (8 * i))))

/-- BFQPOST of a nonzero identifier and an aligned row, outside a commit task, with its group’s accesses performed and room in the die’s queue, enters the row and returns the group’s next ticket; a full queue makes it wait. With 31 rows of the identifier queued, the 32nd starts a batch of all of them; so does BATCH_FORM_TIMEOUT 2048 cycles after the oldest row, with those there are. BFQPOST of a misaligned row is MISALIGNED and one of a commit task COMMIT_FORBIDDEN. BATCH_COMPLETE of a batch without a registration writes 512 NaNs 128 bytes past each row, and the row’s ticket is done; of one with a registered B it leaves in the row of the registered accumulator, and writes 128 bytes past the row, the K-blocks of the row’s 32 values and each column of the registered slice; a row or a slice with bad data ends the row unwritten, poisons the accumulator and leaves its cause in the ticket. BFQWAIT waits for its ticket, completes at once where the row’s ticket is already done, raises what ended the row, and is ILLEGAL_WAIT for no ticket of the group. That a batch performs as a whole at its completion event, and what becomes of a row with a fault, are the model’s choices (log entries 9 and 69). -/
def Obligations.BatchForming : Prop :=
  ∀ (s : State) (d a b : SReg) (die batch n flat : Nat) (wid : Word) (r : PostRow) (rest : List PostRow) (pc : Piece),
    (let x := s.dieAt (dieOf s.cur.core)
     s.g.sreg a ≠ 0 → (s.g.sreg b).toNat % 128 = 0 → s.inCommit s.g = false →
      (1024 ≤ x.posts.length → waits (.bfqpost d a b) s (.stall .posts))
      ∧ (x.posts.length < 1024 → s.g.performed = false → waits (.bfqpost d a b) s (.stall .performed))
      ∧ (x.posts.length < 1024 → s.g.performed = true →
      ((x.posts.filter fun y => y.wid == s.g.sreg a).length < 31 →
      nextWith (exec (.bfqpost d a b) s) fun t => t.g.sreg d = (if d = 0 then 0 else BitVec.ofNat 64 s.g.nextTicket)
        ∧ t.g.tickets = s.g.tickets ++ [(s.g.nextTicket, none)] ∧ t.g.spc = s.g.spc + 4 ∧ (∀ q, q ≠ d → t.g.sreg q = s.g.sreg q)
        ∧ (∃ y : PostRow, (t.dieAt (dieOf s.cur.core)).posts = x.posts ++ [y] ∧ y.wid = s.g.sreg a ∧ y.addr = s.g.sreg b
            ∧ y.ticket = s.g.nextTicket) ∧ ∀ p, t.byteAt p = s.byteAt p)
      ∧ ((x.posts.filter fun y => y.wid == s.g.sreg a).length = 31 → x.regs = [] →
        nextWith (exec (.bfqpost d a b) s) fun t => t.g.sreg d = (if d = 0 then 0 else BitVec.ofNat 64 s.g.nextTicket) ∧ t.g.spc = s.g.spc + 4
          ∧ (∀ y ∈ (t.dieAt (dieOf s.cur.core)).posts, y.wid ≠ s.g.sreg a)
          ∧ ∃ y : PostRow, y.wid = s.g.sreg a ∧ y.addr = s.g.sreg b ∧ y.ticket = s.g.nextTicket
            ∧ (t.dieAt (dieOf s.cur.core)).batches
              = x.batches ++ [⟨s.nextCmd, (x.posts.filter fun y => y.wid == s.g.sreg a) ++ [y], none, none⟩])))
    ∧ (s.g.sreg a = 0 → exec (.bfqpost d a b) s = s.trapS .reservedField)
    ∧ (s.g.sreg a ≠ 0 → (s.g.sreg b).toNat % 128 ≠ 0 → exec (.bfqpost d a b) s = .next (s.trapEntry false .misaligned ⟨some (s.g.sreg b), 0, 0⟩))
    ∧ (s.g.sreg a ≠ 0 → (s.g.sreg b).toNat % 128 = 0 → s.inCommit s.g = true → exec (.bfqpost d a b) s = s.trapS .commitForbidden)
    ∧ ((s.g.tickets.find? fun t => t.1 == (s.g.sreg a).toNat) = some (n, none) →
        waits (.bfqwait a) s (.ticket (s.g.sreg a).toNat))
    ∧ ((s.g.tickets.find? fun t => t.1 == (s.g.sreg a).toNat) = some (n, some none) →
        nextWith (exec (.bfqwait a) s) fun t => t.g.spc = s.g.spc + 4 ∧ t.g.s = s.g.s ∧ (∀ y ∈ t.g.tickets, y.1 ≠ (s.g.sreg a).toNat) ∧ onlyGroup s t)
    ∧ (∀ v w, (s.g.tickets.find? fun t => t.1 == (s.g.sreg a).toNat) = some (n, some (some ⟨.pageFault, v, w⟩)) →
        nextWith (exec (.bfqwait a) s) fun t => t.groups = ((s.modG fun g =>
          { g with tickets := g.tickets.filter fun t => t.1 != (s.g.sreg a).toNat }).trapEntry false .pageFault ⟨some v, 0, w⟩).groups)
    ∧ ((s.g.tickets.find? fun t => t.1 == (s.g.sreg a).toNat) = none → exec (.bfqwait a) s = s.trapS .illegalWait)
    ∧ (((s.dieAt die).posts.filter fun y => y.wid == wid) = r :: rest → r.time + 2048 ≤ s.dieCycles die →
        (s.dieAt die).regs = [] → nextWith (exec (.batchFormTimeout die wid) s) fun t =>
          (t.dieAt die).batches = (s.dieAt die).batches ++ [⟨s.nextCmd, r :: rest, none, none⟩]
            ∧ (∀ y ∈ (t.dieAt die).posts, y.wid ≠ wid) ∧ ∀ p, t.byteAt p = s.byteAt p)
    ∧ ((s.dieAt die).batches = [⟨batch, [r], none, none⟩] → r.settled = false →
        mxLand (rowWho batch r) false 1 (r.addr.toNat + 128) 2048 (s.asServed r.core r.ctx) = .ok (s.asServed r.core r.ctx, [pc]) → pc.flat = flat → pc.n = 2048 →
        nextWith (exec (.batchComplete die batch) s) fun t => (t.dieAt die).batches = []
          ∧ (∀ k, s.findGroup r.team r.gidx = some k → ∀ x ∈ (sget Group.init k t.groups).tickets, x.1 = r.ticket → x.2 = some none)
          ∧ ∀ i, i < 2048 → t.byteAt (flat + i) = if i % 4 = 3 then 0x7F else if i % 4 = 2 then 0xC0 else 0)
    ∧ ∀ (reg : Registration) (bytes : List Byte) (bad : Option Cause) (c : Cause),
        (s.dieAt die).batches = [⟨batch, [r], some reg, none⟩] → r.settled = false → r.row = some (bytes, bad) →
        s.batchHeld ⟨batch, [r], some reg, none⟩ = false →
        let f := mformat reg.fmt
        let ftz := fmtFtz reg.fmt
        let sl := keptSlice reg.slice
        let s2 := (rowCompute reg 0 bytes (s.asServed r.core r.ctx)).1
        let pairs (k : Nat) := (List.range 32).map fun i =>
          (f.value ftz (codeAt f.bits (byteOf bytes) i) (sideOf bytes 32), f.value ftz (codeAt f.bits sl.1 (512 * i + k)) (sl.2 k))
        let mx := (s.coreAt reg.core).mx
        let ended (e : Option Ended) (t : State) : Prop := (t.dieAt die).batches = [] ∧ (∀ m ∈ (t.coreAt reg.core).mcmds, m.id ≠ batch)
          ∧ ∀ k, s.findGroup r.team r.gidx = some k → ∀ x ∈ (sget Group.init k t.groups).tickets, x.1 = r.ticket → x.2 = some e
        (worse bad reg.bad = none → mxLand (rowWho batch r) false 1 (r.addr.toNat + 128) 2048 s2 = .ok (s2, [pc]) → pc.flat = flat → pc.n = 2048 →
          nextWith (exec (.batchComplete die batch) s) fun t => ended none t
            ∧ (∀ k, k < 512 → (t.coreAt reg.core).mx.accGet reg.acc k = (kblock ftz (pairs k) (.zero false)).1
                ∧ ∀ i, i < 4 → t.byteAt (flat + (4 * k + i)) = ((kblock ftz (pairs k) (.zero false)).1).extractLsb' (8 * i) 8)
            ∧ (∀ k i, k ≠ reg.acc ∨ 512 ≤ i → i < 16384 → (t.coreAt reg.core).mx.accGet k i = mx.accGet k i)
            ∧ ∀ p, (p < flat ∨ flat + 2048 ≤ p) → t.byteAt p = s.byteAt p)
        ∧ (worse bad reg.bad = some c → nextWith (exec (.batchComplete die batch) s) fun t => ended (some ⟨c, 0, 0⟩) t
            ∧ (t.coreAt reg.core).mx = { mx with poison := mx.poison ||| BitVec.ofNat 4 (2 ^ reg.acc) } ∧ t.mem = s.mem)

/-- At a join, with its group’s accesses performed, no switch of an FLOAD queued, fewer than 63 commands on ENG, a pack with its reserved bits 0 and its operands aligned, inside the window and without overlap, outside a commit task where the command writes global memory, and with room for its range locks, each command is issued: its handle 2^62 + token goes to sd and memory is unchanged. A COPY of length 0 has the status DONE at once, and an MCAST with a receiver that is not there the status REFUSED. A bad pack traps with RESERVED_FIELD, MISALIGNED, SCRATCH_BOUNDS or COMMIT_FORBIDDEN. A GATHER with ROWBYTES 0 is RESERVED_FIELD, one with 1 to 3 MISALIGNED. Until it has joined, while an access has not performed or a switch is queued, while the counter is full, and while a lock table has no room the word waits, with nothing issued. A pack in the quad of s0 is RESERVED_FIELD and one in a register that is no multiple of 4 MISALIGNED, before every other check. How a command waits in its engine’s queue, and what the journal holds, are the model’s choices where the manual is silent (log entries 71 and 72). Outside a commit task: JRNL_ADD of a nonzero node at an aligned address appends an entry with its context, node, address and increment to the die’s journal; JRNL_COMMIT of a node enters the engines’ queue at a join and counts on ENG; JRNL_DROP removes every entry of the context and node from every journal. Memory and registers stay. A zero node is RESERVED_FIELD, an unaligned address MISALIGNED, and a commit task COMMIT_FORBIDDEN; a full journal stalls the word. -/
def Obligations.EngineIssue : Prop :=
  (
    ∀ (s : State) (d a : SReg) (rs : List (Nat × Nat × Nat)),
      let p := (List.range 4).map (s.g.quad a)
      let own := s.g.teamIndex
      let grid := s.g.team / 2 ^ 32
      let size := s.vaultWindow.2
      let f := p.getD 3 0
      let s0 := s.modG Group.passJoin;
      (∀ i ∈ [Instr.copy d a, .gather d a, .mcast d a, .coll d a, .nmlaunch d a], (a = 0 → exec i s = s.trapS .reservedField)
        ∧ (a.toNat % 4 ≠ 0 → exec i s = s.trapS .misaligned)) ∧
      (a ≠ 0 → a.toNat % 4 = 0 → ∀ i ∈ [Instr.copy d a, .gather d a, .mcast d a, .coll d a, .nmlaunch d a],
        (s.g.joined = false → waits i s (.stall .join))
        ∧ (s.g.joined = true → s.g.performed = false ∨ s.g.lq.any LqItem.isSwitch = true → waits i s (.stall .command))
        ∧ (s.g.joined = true → s.g.performed = true → s.g.lq.any LqItem.isSwitch = false → s.g.full .eng = true → waits i s (.stall (.counter .eng))
            ∧ nextWith (exec i s) fun t => t.ecmds = s.ecmds ∧ t.dies = s.dies)) ∧
      (a ≠ 0 → a.toNat % 4 = 0 → s.g.joined = true → s.g.performed = true → s.g.lq.any LqItem.isSwitch = false → s.g.full .eng = false →
      (let x := copyPack p
       let beyond := (x.ssp && x.steam == own && size < x.src + x.len) || (x.dsp && x.dteam == own && size < x.dst + x.len)
       let locks := s.operandLock grid x.ssp x.steam x.src x.len false ++ s.operandLock grid x.dsp x.dteam x.dst x.len true
       let reserved := bitsOf f 34 30 != 0 || x.overlaps own
       let odd := x.src % 4 != 0 || x.dst % 4 != 0 || x.len % 4 != 0
       (reserved = true → exec (.copy d a) s = s0.trapS .reservedField)
       ∧ (reserved = false → odd = true → exec (.copy d a) s = s0.trapS .misaligned)
       ∧ (reserved = false → odd = false → beyond = true → exec (.copy d a) s = s0.trapS .scratchBounds)
       ∧ (reserved = false → odd = false → beyond = false → s.inCommit s.g = true → x.dsp = false → exec (.copy d a) s = s0.trapS .commitForbidden)
       ∧ (reserved = false → odd = false → beyond = false → (s.inCommit s.g = false ∨ x.dsp = true) →
          (s.lockRoom locks = false → waits (.copy d a) s (.stall (.locks locks)) ∧ nextWith (exec (.copy d a) s) fun t => t.ecmds = s.ecmds ∧ t.dies = s.dies)
          ∧ (s.lockRoom locks = true →
              (x.len ≠ 0 → nextWith (exec (.copy d a) s) (commandIssued 1 p d s))
              ∧ (x.len = 0 → aloneInTeam s → s.g.nextTok ≠ 0 → nextWith (exec (.copy d a) s) fun t =>
                  (s.g.nextTok, 0) ∈ t.g.tokDone ∧ t.g.sreg d = (if d = 0 then 0 else BitVec.ofNat 64 (2 ^ 62 + s.g.nextTok))
                    ∧ t.g.spc = s.g.spc + 4 ∧ t.mem = s.mem ∧ t.ecmds = s.ecmds.filter fun c => c.id != s.nextCmd))))
      ∧ (let x := gatherPack p
         (x.row = 0 → exec (.gather d a) s = s0.trapS .reservedField)
         ∧ (bitsOf (p.getD 2 0) 22 10 = 0 → x.row ∈ [1, 2, 3] → exec (.gather d a) s = s0.trapS .misaligned)
         ∧ (bitsOf (p.getD 2 0) 22 10 = 0 → x.row ≠ 0 → x.idx % 4 = 0 → x.table % 4 = 0 → x.dst % 4 = 0 → x.row % 4 = 0 →
          (x.isp = true → x.idx + 4 * x.count ≤ size) → (x.dsp = true → x.dst + x.count * x.row ≤ size) →
          (s.inCommit s.g = false ∨ x.dsp = true) →
          s.lockRoom (s.operandLock grid x.isp own x.idx (4 * x.count) false ++ s.operandLock grid x.dsp own x.dst (x.count * x.row) true) = true →
          nextWith (exec (.gather d a) s) (commandIssued 2 p d s)))
      ∧ (let x := mcastPack p
         bitsOf f 32 32 = 0 → x.len % 4 = 0 → ((x.first ≤ own ∧ own < x.first + x.count) → x.off + x.len ≤ size) →
          (s.receivers grid x = some rs → (x.len ≠ 0 →
              s.lockRoom (⟨false, x.src, x.len, false, dieOf s.cur.core⟩ :: rs.map fun r => ⟨true, r.2.2 + x.off, x.len, true, r.2.1⟩) = true) →
            nextWith (exec (.mcast d a) s) (commandIssued 3 p d s))
          ∧ (s.receivers grid x = none → aloneInTeam s → s.g.nextTok ≠ 0 → nextWith (exec (.mcast d a) s) fun t =>
              (s.g.nextTok, 3) ∈ t.g.tokDone ∧ t.g.sreg d = (if d = 0 then 0 else BitVec.ofNat 64 (2 ^ 62 + s.g.nextTok))
                ∧ t.g.spc = s.g.spc + 4 ∧ t.mem = s.mem ∧ t.teams = s.teams))
      ∧ (let x := collPack p
         bitsOf (p.getD 2 0) 32 32 = 0 → x.count ≠ 0 → x.op ≤ 3 → bitsOf f 51 4 ∈ [0x0, 0x2, 0x8, 0xC] → bitsOf f 55 9 = 0 →
          (s.inCommit s.g = true → exec (.coll d a) s = s0.trapS .commitForbidden)
          ∧ (s.inCommit s.g = false →
              s.lockRoom [⟨false, x.src, x.bytes, false, dieOf s.cur.core⟩, ⟨false, x.dst, x.outBytes (s.domainSize x.domain), true, dieOf s.cur.core⟩] = true →
              nextWith (exec (.coll d a) s) (commandIssued 4 p d s)))
      ∧ (let sel := p.getD 2 0
         bitsOf sel 8 56 = 0 → p.getD 3 0 = 0 → (p.getD 0 0).toNat % 8 = 0 → (p.getD 1 0).toNat % 8 = 0 → s.inCommit s.g = false →
          (sel.getLsbD 7 = true → bitsOf sel 0 7 = 0 → nextWith (exec (.nmlaunch d a) s) (commandIssued 5 p d s))
          ∧ (sel.getLsbD 7 = false → s.cap.hbmStacks.getLsbD (bitsOf sel 0 5) = true →
              nextWith (exec (.nmlaunch d a) s) fun t => commandIssued 5 p d s t
                ∧ ∃ q : NmProg, (t.stackAt (bitsOf sel 0 5)).queue = (s.stackAt (bitsOf sel 0 5)).queue ++ [(bitsOf sel 5 2, q)]
                  ∧ q.npc = p.getD 0 0 ∧ q.arg = p.getD 1 0 ∧ q.cmd = s.nextCmd))))
  ∧ (
    ∀ (s : State) (a b : SReg),
      let die := dieOf s.cur.core
      let node : W32 := (s.g.sreg b).setWidth 32
      let w := s.g.sreg a
      let s0 := s.modG Group.passJoin
      (node = 0 → exec (.jrnlAdd a b) s = s.trapS .reservedField)
      ∧ (node ≠ 0 → w.toNat % 4 ≠ 0 → exec (.jrnlAdd a b) s = s.trapScalar .misaligned (some w) 0)
      ∧ (node ≠ 0 → w.toNat % 4 = 0 → s.inCommit s.g = true → exec (.jrnlAdd a b) s = s.trapS .commitForbidden)
      ∧ (node ≠ 0 → w.toNat % 4 = 0 → s.inCommit s.g = false → 65536 ≤ (s.dieAt die).journal.length → waits (.jrnlAdd a b) s (.stall .journal))
      ∧ (node ≠ 0 → w.toNat % 4 = 0 → s.inCommit s.g = false → (s.dieAt die).journal.length < 65536 →
          nextWith (exec (.jrnlAdd a b) s) fun t =>
            (t.dieAt die).journal = (s.dieAt die).journal ++ [⟨s.g.ctx, node, w, (s.g.sreg b).extractLsb' 32 32⟩]
              ∧ t.g.spc = s.g.spc + 4 ∧ t.g.s = s.g.s ∧ ∀ p, t.byteAt p = s.byteAt p)
      ∧ (s.g.joined = false → waits (.jrnlCommit a) s (.stall .join))
      ∧ (s.g.joined = true → s.g.performed = false ∨ s.g.lq.any LqItem.isSwitch = true → waits (.jrnlCommit a) s (.stall .command))
      ∧ (s.g.joined = true → s.g.performed = true → s.g.lq.any LqItem.isSwitch = false → s.g.full .eng = true → waits (.jrnlCommit a) s (.stall (.counter .eng)))
      ∧ (s.g.joined = true → s.g.performed = true → s.g.lq.any LqItem.isSwitch = false → s.g.full .eng = false →
          (w.setWidth 32 = (0 : W32) → exec (.jrnlCommit a) s = s0.trapS .reservedField)
          ∧ (w.setWidth 32 ≠ (0 : W32) → bitsOf w 32 32 = 0 → s.inCommit s.g = true → exec (.jrnlCommit a) s = s0.trapS .commitForbidden)
          ∧ (w.setWidth 32 ≠ (0 : W32) → bitsOf w 32 32 = 0 → s.inCommit s.g = false → nextWith (exec (.jrnlCommit a) s) fun t =>
              t.g.spc = s.g.spc + 4 ∧ t.g.s = s.g.s ∧ t.mem = s.mem
                ∧ ∃ c : ECmd, t.ecmds = s.ecmds ++ [c] ∧ c.kind = 6 ∧ c.pack = [w] ∧ c.ctx = s.g.ctx
                  ∧ ∃ x : Access, x.path = .eng ∧ x.cmd = some c.id ∧ t.g.inflight = s.g.passJoin.inflight ++ [x]))
      ∧ (w.setWidth 32 ≠ (0 : W32) → bitsOf w 32 32 = 0 → s.inCommit s.g = false → nextWith (exec (.jrnlDrop a) s) fun t =>
          (∀ k, ∀ e ∈ (t.dieAt k).journal, e.ctx ≠ s.g.ctx ∨ e.node ≠ w.setWidth 32)
            ∧ (∀ k e, e ∈ (s.dieAt k).journal → (e.ctx ≠ s.g.ctx ∨ e.node ≠ w.setWidth 32) → e ∈ (t.dieAt k).journal)
            ∧ t.g.spc = s.g.spc + 4 ∧ t.g.s = s.g.s ∧ t.mem = s.mem)
      ∧ ((w.setWidth 32 = (0 : W32) ∨ bitsOf w 32 32 ≠ 0) → exec (.jrnlDrop a) s = s.trapS .reservedField))

/-- An outstanding command that is not frozen, waits for no page and has no earlier NMATOM of its group before it performs; it is then no longer outstanding, and none of its range locks remains. With no row locked, no byte marked or encrypted, no cut under way and the command’s grid not audited, a COPY between the windows of two teams, a GATHER of one row and an MCAST to one receiver leave the source’s bytes at the destination, every other byte as it was, and the status DONE; the multicast releases its reference. A COPY whose window is gone and a collective whose domain is not set up are FAILED; a GATHER of no row, an MCAST of no byte and a journal commit without entries change no byte. A journal commit of one entry adds the entry’s increment to its counter and removes the entry, or skips it where the counter’s page has a fault. A group keeps the status of a command that is one of its 1024 issued last. A sum of one element with one other member is written at the destination, and the domain’s step count advances. That a command performs as a whole at its completion event is the model’s choice (log entry 9). -/
def Obligations.EngineCommandsComplete : Prop :=
  ∀ (s : State) (c : ECmd) (cmd das dad sb db ssz dsz a b d die : Nat) (dom : Domain) (el : W32) (tm : Team) (je : JEntry),
    (s.ecmds.find? fun x => x.id == cmd) = some c → c.frozen = false → c.pageReq = none →
    s.atomsBefore c.team c.gidx c.id = false → c.recIndex = none →
    let done (t : State) : Prop := (∀ y ∈ t.ecmds, y.id ≠ c.id) ∧ ∀ k, ∀ y ∈ (t.dieAt k).locks, y.cmd ≠ c.id
    let told (st : Nat) (t : State) : Prop :=
      ∀ k, s.findGroup c.team c.gidx = some k → c.tok ≠ 0 → (sget Group.init k s.groups).recent c.tok = true → (c.tok, st) ∈ (sget Group.init k t.groups).tokDone
    let w : Who := ⟨.command c.id, c.core, c.ctx, c.user⟩
    let s0 := s.asServed c.core c.ctx
    let plain : Prop := s.hbmStacks = [] ∧ s.marks = [] ∧ s.cipher = [] ∧ s.encOn = false ∧ s0.cur.key = none ∧ s.eqx.snap = []
      ∧ ∀ y g, s.team? c.team = some y → s.grid? y.grid = some g → descAud g.desc = false
    let same (t : State) : Prop := ∀ q, t.byteAt q = s.byteAt q
    (c.kind = 1 → (let x := copyPack c.pack
        x.ssp = true → x.dsp = true → s.teamWindow c.grid x.steam = some (das, sb, ssz) → s.teamWindow c.grid x.dteam = some (dad, db, dsz) →
        x.src + x.len ≤ ssz → x.dst + x.len ≤ dsz → x.len < 2 ^ 26 → x.src < 2 ^ 26 → x.dst < 2 ^ 26 → sb + ssz ≤ 2 ^ 26 → db + dsz ≤ 2 ^ 26 →
        das < 8 → dad < 8 →
        (das ≠ dad ∨ overlap (sb + x.src) x.len (db + x.dst) x.len = false) → plain →
        nextWith (exec (.engineCommandComplete cmd) s) fun t => done t ∧ told 0 t
          ∧ (∀ i, i < x.len → t.byteAt (vaultFlat dad (db + x.dst + i)) = s.byteAt (vaultFlat das (sb + x.src + i)))
          ∧ ∀ q, (q < vaultFlat dad (db + x.dst) ∨ vaultFlat dad (db + x.dst + x.len) ≤ q) → t.byteAt q = s.byteAt q))
    ∧ (c.kind = 1 → (copyPack c.pack).ssp = true → s.teamWindow c.grid (copyPack c.pack).steam = none →
        nextWith (exec (.engineCommandComplete cmd) s) fun t => done t ∧ told 2 t ∧ same t)
    ∧ (c.kind = 2 → (gatherPack c.pack).count = 0 → (gatherPack c.pack).isp = false → (gatherPack c.pack).dsp = false →
        nextWith (exec (.engineCommandComplete cmd) s) fun t => done t ∧ told 0 t ∧ same t)
    ∧ (c.kind = 3 → (mcastPack c.pack).len = 0 → nextWith (exec (.engineCommandComplete cmd) s) fun t => done t ∧ told 0 t ∧ same t)
    ∧ (c.kind = 4 → lookupKey (collPack c.pack).domain s.domains = none →
        nextWith (exec (.engineCommandComplete cmd) s) fun t => done t ∧ told 2 t ∧ same t)
    ∧ (c.kind = 5 → exec (.engineCommandComplete cmd) s = .next s0)
    ∧ (c.kind = 6 → s.journalOf c.ctx ((c.pack.getD 0 0).setWidth 32) = [] →
        nextWith (exec (.engineCommandComplete cmd) s) fun t => done t ∧ same t)
    ∧ (c.kind = 6 → s.journalOf c.ctx ((c.pack.getD 0 0).setWidth 32) = [(die, je)] →
        let applied (t : State) : Prop := done t ∧ ∀ k, ∀ y ∈ (t.dieAt k).journal, y.ctx ≠ c.ctx ∨ y.node ≠ (c.pack.getD 0 0).setWidth 32
        (s0.translate w 2 je.addr.toNat = (s0, .ok a 0) → plain → nextWith (exec (.engineCommandComplete cmd) s) fun t => applied t
            ∧ t.readN a 4 = (s.readN a 4 + je.inc.toNat) % 2 ^ 32 ∧ ∀ q, (q < a ∨ a + 4 ≤ q) → t.byteAt q = s.byteAt q)
        ∧ (∀ k l, k ≠ 1 → s0.translate w 2 je.addr.toNat = (s0, .fault k l) → nextWith (exec (.engineCommandComplete cmd) s) fun t => applied t ∧ same t))
    ∧ (c.kind = 2 → (let x := gatherPack c.pack
        let row := x.table + s.readN a 4 * x.row
        x.isp = false → x.dsp = false → x.count = 1 → 4 ≤ x.row → x.idx % 65536 ≤ 65532 → row < 2 ^ 56 → row % 65536 + x.row ≤ 65536 →
        x.dst % 65536 + x.row ≤ 65536 → s0.translate w 0 x.idx = (s0, .ok a 0) → s0.translate w 0 row = (s0, .ok b 0) →
        s0.translate w 1 x.dst = (s0, .ok d 0) → plain →
        nextWith (exec (.engineCommandComplete cmd) s) fun t => done t ∧ told 0 t
          ∧ (∀ i, i < x.row → t.byteAt (d + i) = s.byteAt (b + i)) ∧ ∀ q, (q < d ∨ d + x.row ≤ q) → t.byteAt q = s.byteAt q))
    ∧ (c.kind = 3 → (let x := mcastPack c.pack
        x.count = 1 → x.len ≠ 0 → x.src % 65536 + x.len ≤ 65536 → s.teamWindow c.grid x.first = some (dad, db, dsz) →
        s0.translate w 0 x.src = (s0, .ok a 0) → plain → s.team? (teamKey c.grid x.first) = some tm →
        nextWith (exec (.engineCommandComplete cmd) s) fun t => done t ∧ told 0 t
          ∧ (∀ i, i < x.len → t.byteAt (vaultFlat dad (db + x.off) + i) = s.byteAt (a + i))
          ∧ (∀ q, (q < vaultFlat dad (db + x.off) ∨ vaultFlat dad (db + x.off) + x.len ≤ q) → t.byteAt q = s.byteAt q)
          ∧ t.team? (teamKey c.grid x.first) = some { tm with mcast := tm.mcast - 1 }))
    ∧ (c.kind = 4 → (let x := collPack c.pack
        lookupKey x.domain s.domains = some dom → dom.members.length = 2 → x.step = dom.steps + 1 →
        x.count = 1 → x.op = 0 → x.ty = .s32 → x.src % 65536 ≤ 65532 → x.dst % 65536 ≤ 65532 →
        s0.translate w 0 x.src = (s0, .ok a 0) → s0.translate w 1 x.dst = (s0, .ok b 0) → plain → s.eqx.st = .idle →
        nextWith (exec (.collectiveStepComplete cmd [⟨[el], []⟩]) s) fun t => done t ∧ told 0 t
          ∧ t.readN b 4 = (s.readN a 4 + el.toNat) % 2 ^ 32
          ∧ (∀ q, (q < b ∨ b + 4 ≤ q) → t.byteAt q = s.byteAt q)
          ∧ lookupKey x.domain t.domains = some { dom with steps := dom.steps + 1 }))

/-- Wherever it can execute, each of IADD to MOVI writes in every active lane the value of its rule, to every consumer that it names, and changes nothing else. For 32-bit register operands without modifiers and clamp the values are: the sum, difference and low product modulo 2^32, the high half of the signed product, the smaller and the larger signed value; AND, OR, XOR; shifts by the low five bits of vb; the field of BFX and BFI; the count of ones and of leading zeros; the bits in reverse; the selected operand; the operand itself; MOVI’s immediate by type. -/
def Obligations.LaneIntegerResults : Prop :=
  ∀ (s : State) (w : L3),
    let p := w.ty.is64
    let int2 (i : Instr) (f : Int → Int → Int) : Prop :=
      laneValues i s w p [w.va, w.vb] [] (fun e k => intResult w (f (e.isrc w 0 w.va k) (e.isrc w 1 w.vb k))) fun _ => 0
    let bit2 (i : Instr) (f : Word → Word → Word) : Prop :=
      laneValues i s w p [w.va, w.vb] [] (fun e k => f (wd (e.rdB w.ty 0 w.va k)) (wd (e.rdB w.ty 1 w.vb k))) fun _ => 0
    let shift (i : Instr) (f : Nat → Nat → Word) : Prop :=
      laneGives i s (L3uses w p [(w.va, p), (w.vb, false)] []) (L3consumer w p) w.mreg [w.va, w.vb] fun e =>
        destEffect (L3consumer w p) (fun k => f (e.rdB w.ty 0 w.va k) ((e.src 1 w.vb false k).toNat % w.ty.bits)) 0
    let count (i : Instr) (f : Nat → Nat) : Prop :=
      laneGives i s (L3uses w false [(w.va, p)] []) (L3consumer w false) w.mreg [w.va] fun e =>
        destEffect (L3consumer w false) (fun k => wd (f (e.rdB w.ty 0 w.va k))) 0
    (int2 (.iadd w) (· + ·) ∧ int2 (.isub w) (· - ·) ∧ int2 (.imul w) (· * ·) ∧ int2 (.imulh w) (fun a b => a * b / (2 ^ w.ty.bits : Nat))
      ∧ int2 (.imin w) (fun a b => if a ≤ b then a else b) ∧ int2 (.imax w) (fun a b => if a ≤ b then b else a)
      ∧ laneValues (.imad w) s w p [w.va, w.vb, w.vc] []
          (fun e k => intResult w (e.isrc w 0 w.va k * e.isrc w 1 w.vb k + e.isrc w 2 w.vc k)) (fun _ => 0))
    ∧ (bit2 (.laneAnd w) (· &&& ·) ∧ bit2 (.laneOr w) (· ||| ·) ∧ bit2 (.laneXor w) (· ^^^ ·))
    ∧ (shift (.laneShl w) (fun a n => wd (a * 2 ^ n % 2 ^ w.ty.bits)) ∧ shift (.laneShr w) (fun a n => wd (a / 2 ^ n))
      ∧ shift (.laneSar w) fun a n => placeI w.ty (intOf w.ty a / (2 ^ n : Nat)))
    ∧ (laneValues (.bfx w) s w p [w.va] [] (fun e k => placeI w.ty
          (let x := e.rdB w.ty 0 w.va k / 2 ^ fieldPos w % 2 ^ fieldLen w
           if w.ty.isSigned && 2 ^ (fieldLen w - 1) ≤ x then (x : Int) - (2 ^ fieldLen w : Nat) else x)) (fun _ => 0)
      ∧ laneValues (.bfi w) s w p [w.va, w.vb] [] (fun e k =>
          let m := wd ((2 ^ fieldLen w - 1) * 2 ^ fieldPos w)
          (wd (e.rdB w.ty 1 w.vb k) &&& ~~~m) ||| (wd (e.rdB w.ty 0 w.va k) <<< fieldPos w &&& m)) fun _ => 0)
    ∧ (count (.lanePopc w) (popCount w.ty.bits) ∧ count (.laneClz w) (leadZeros w.ty.bits)
      ∧ laneValues (.brev w) s w p [w.va] [] (fun e k => wd (revBits w.ty.bits (e.rdB w.ty 0 w.va k))) (fun _ => 0))
    ∧ (laneValues (.isel w) s w p [w.va, w.vb] [w.aux.toNat] (fun e k =>
          wd (if (e.maskSrc w.aux.toNat).getLsbD k then e.rdB w.ty 0 w.va k else e.rdB w.ty 1 w.vb k)) (fun _ => 0)
      ∧ laneValues (.mov w) s w p [w.va] [] (fun e k => wd (e.rdB w.ty 0 w.va k)) (fun _ => 0)
      ∧ laneValues (.movi w) s w false [] [] (fun _ _ => moviValue w) fun _ => 0)
    ∧ ∀ (e : Env) (k : Nat), w.va.toNat < 640 → w.vb.toNat < 640 →
        let a := e.g.vreg w.va.toNat k
        let b := e.g.vreg w.vb.toNat k
        let x := e.isrc w 0 w.va k
        let y := e.isrc w 1 w.vb k
        (w.ty = .s32 → w.mods = 0 → w.clamp = 0 →
          (intResult w (x + y)).setWidth 32 = a + b ∧ (intResult w (x - y)).setWidth 32 = a - b ∧ (intResult w (x * y)).setWidth 32 = a * b
            ∧ (intResult w (x * y / (2 ^ w.ty.bits : Nat))).setWidth 32 = (a.signExtend 64 * b.signExtend 64).extractLsb' 32 32
            ∧ (intResult w (if x ≤ y then x else y)).setWidth 32 = (if b.slt a then b else a)
            ∧ (intResult w (if x ≤ y then y else x)).setWidth 32 = if a.slt b then b else a)
        ∧ (w.ty = .b32 →
            let n := (e.src 1 w.vb false k).toNat % w.ty.bits
            let u := e.rdB w.ty 0 w.va k
            n = b.toNat % 32 ∧ (wd (u * 2 ^ n % 2 ^ w.ty.bits)).setWidth 32 = a <<< n ∧ (wd (u / 2 ^ n)).setWidth 32 = a >>> n
              ∧ wd (popCount w.ty.bits u) = wd ((List.range 32).filter a.getLsbD).length
              ∧ (a = 0 → leadZeros w.ty.bits u = 32) ∧ (a.getLsbD 31 = true → leadZeros w.ty.bits u = 0)
              ∧ ∀ j, j < 32 → (wd (revBits w.ty.bits u)).getLsbD j = a.getLsbD (31 - j))
        ∧ (w.ty = .s32 → (placeI w.ty (intOf w.ty (e.rdB w.ty 0 w.va k) / (2 ^ (b.toNat % 32) : Nat))).setWidth 32 = a.sshiftRight (b.toNat % 32)
            ∧ moviValue w = ((w.vc ++ w.aux).signExtend 32).setWidth 64)
        ∧ (w.ty = .f32 → moviValue w = (((w.vc ++ w.aux).setWidth 32) <<< 10).setWidth 64)

/-- Wherever it can execute, and no active lane’s result is a non-zero subnormal for the assist, each of FADD, FSUB, FMUL, FFMA, FMIN, FMAX, FSEL, FTRUNC and FROUND writes in every active lane its exact result through the destination stage, with the flags of every lane; FCLASS writes one bit. A finite result that neither overflows nor underflows is within half a unit of its last place of the exact value. Infinities of opposite sign add to a NaN with INV, a zero times an infinity likewise; opposite finite values add to +0; FMIN and FMAX return the number where one operand is a quiet NaN; a signalling NaN gives a NaN with INV and SNAN; a selected NaN becomes canonical without a flag. -/
def Obligations.LaneFloatResults : Prop :=
  ∀ (s : State) (w : L3),
    let arith (i : Instr) (srcs : List VReg) (masks : List Nat) (o : Env → Fin) (op : Env → Nat → FVal × Flags) : Prop :=
      laneGivesIf i s (L3uses w false (srcs.map fun r => (r, false)) masks) (L3consumer w false) w.mreg srcs
        (fun e => ∀ k ∈ e.actives, (finish w.ty (o e) (op e k).1).assist = false)
        fun e => destEffect (L3consumer w false) (fun k => wd (finish w.ty (o e) (op e k).1).bits)
          (Flags.join (e.actives.map fun k => (op e k).2 ||| (finish w.ty (o e) (op e k).1).flags))
    let two (i : Instr) (f : FVal → FVal → FVal × Flags) : Prop :=
      arith i [w.va, w.vb] [] (arithFin w) fun e k => f (e.fsrc w 0 w.va k) (e.fsrc w 1 w.vb k)
    let toInt (i : Instr) (m : Rnd) : Prop :=
      arith i [w.va] [] (fun e => { arithFin w e with dscale := 0 }) fun e k =>
        (integral m (e.fsrc w 0 w.va k) w.dscale.toInt, nanFlags [e.fsrc w 0 w.va k])
    (two (.fadd w) fAdd ∧ two (.fsub w) fSub ∧ two (.fmul w) fMul ∧ two (.fmin w) (fMinMax false) ∧ two (.fmax w) (fMinMax true)
      ∧ arith (.ffma w) [w.va, w.vb, w.vc] [] (arithFin w) fun e k => fFma (e.fsrc w 0 w.va k) (e.fsrc w 1 w.vb k) (e.fsrc w 2 w.vc k))
    ∧ arith (.fsel w) [w.va, w.vb] [w.aux.toNat] (arithFin w) (fun e k =>
        (if (e.maskSrc w.aux.toNat).getLsbD k then e.fsrc w 0 w.va k else e.fsrc w 1 w.vb k, 0))
    ∧ laneValues (.fclass w) s w false [w.va] [] (fun e k =>
        wd (2 ^ classBit w.ty (modF (modOf w.mods 0) (decodeF w.ty (e.rdB w.ty 0 w.va k))))) (fun _ => 0)
    ∧ toInt (.ftrunc w) .rtz ∧ toInt (.fround w) (if w.aux = 0 then .rne else if w.aux = 1 then .rdn else .rup)
    ∧ (∀ (n : Bool) (m : Nat) (e : Int), m ≠ 0 → (finish .f32 Fin.rne (.num n m e)).flags = 0 → (finish .f32 Fin.rne (.num n m e)).assist = false →
        ∃ (x : Nat) (y : Int), decodeF .f32 (finish .f32 Fin.rne (.num n m e)).bits = .num n x y ∧ 2 ^ 23 ≤ x ∧ x < 2 ^ 24
          ∧ 2 * (((m * 2 ^ (e - min e y).toNat : Nat) : Int) - ((x * 2 ^ (y - min e y).toNat : Nat) : Int)).natAbs ≤ 2 ^ (y - min e y).toNat)
    ∧ (∀ (n : Bool) (v x : FVal) (m : Nat) (e : Int), x.isNan = false → v.isNan = false →
        fAdd (.inf n) (.inf (!n)) = (.qnan, Flags.inv) ∧ fMul (.num n 0 e) (.inf n) = (.qnan, Flags.inv)
          ∧ finish .f32 Fin.rne (fAdd (.num n m e) (.num (!n) m e)).1 = ⟨0, 0, false⟩
          ∧ finish .f32 Fin.rne FVal.qnan = ⟨0x7FC00000, 0, false⟩ ∧ finish .f32 Fin.rne (.nan true) = ⟨0x7FC00000, 0, false⟩
          ∧ (∀ b, fMinMax b FVal.qnan x = (x, 0) ∧ fMinMax b x FVal.qnan = (x, 0)
              ∧ fMinMax b (.nan true) x = (.qnan, Flags.inv ||| Flags.snan))
          ∧ fMinMax false (FVal.zero true) (FVal.zero false) = (FVal.zero true, 0) ∧ fMinMax true (FVal.zero true) (FVal.zero false) = (FVal.zero false, 0)
          ∧ fAdd (.nan true) v = (.qnan, Flags.inv ||| Flags.snan) ∧ fMul v (.nan true) = (.qnan, Flags.inv ||| Flags.snan))

/-- Wherever it can execute, and no result is one for the assist, CVT writes the converted value of each active lane through its destination stage, DQBLK the code times its scale, QBLK the codes of its blocks in vd and their side entries in vd + 1, FKEY and FUNKEY their bit maps; the rounding counter advances only where FMT.RND is stochastic and a rounding dropped bits. FUNKEY undoes FKEY, and keys of 32 bits sort as the values do. A NaN converts to the integer 0 with INV and an infinity to the nearest bound with INV; a block with a NaN has scale 0xFF and INV. An infinity of E5M2 converted to E5M2 keeps its sign, whatever NSAT, without a flag. -/
def Obligations.LaneConversionResults : Prop :=
  ∀ (s : State) (w : L3),
    let conv (i : Instr) (u : Uses) (pair : Bool) (srcs : List VReg) (f : Env → Nat → Conv) : Prop :=
      laneGivesIf i s u (L3consumer w pair) w.mreg srcs (fun e => ∀ k ∈ e.actives, (f e k).1.assist = false ∧ (f e k).1.lane = k)
        fun e => { destEffect (L3consumer w pair) (fun k => (f e k).1.val) (Flags.join (e.actives.map fun k => (f e k).2.1)) with
          sdraw := fmtRnd e.w.fmt == 4 && e.actives.any fun k => (f e k).2.2 }
    let block (e : Env) (h : Nat) : QBlock :=
      quantBlock w.ty (w.aux.getLsbD 4)
        ((List.range 32).map fun j =>
          if e.actives.contains (32 * h + j) then e.rdF w.srcType 0 w.va (modOf w.mods 0) (32 * h + j) else FVal.zero false)
        fun j => (convFin w e s.seed (32 * h + j) 0).rnd
    let blocks (e : Env) : List QBlock := (List.range (if e.g.width = 64 then 2 else 1)).map (block e)
    conv (.cvt w) (L3uses w w.ty.is64 [(w.va, w.srcType.is64)] []) w.ty.is64 [w.va] (fun e k =>
        if w.srcType.isFloat then cvtFromFloat w e s.seed k else cvtFromInt w e s.seed k)
    ∧ conv (.dqblk w) (L3uses w false [(w.va, false), (w.vb, false)] []) false [w.va, w.vb] (fun e k =>
        let v := mxValue w.srcType (w.aux.getLsbD 4) (e.src 0 w.va false k).toNat (e.src 1 w.vb false k).toNat
        convElem w e s.seed w.ty k 0 v (nanFlags [v]))
    ∧ (s.g.width = 32 ∨ s.g.width = 64 → w.cmask = 1 →
        laneGives (.qblk w) s { L3uses w true [(w.va, false)] [] with wv := [w.vd.toNat, w.vd.toNat + 1], even := [w.vd.toNat] }
          (L3consumer w false) w.mreg [w.va] fun e =>
            { LaneEffect.none with
              reg := fun r k =>
                if r = w.vd.toNat then some ((wd ((block e (k / 32)).codes.getD (k % 32) 0)).setWidth 32)
                else if r = w.vd.toNat + 1 then some ((wd ((block e (k / 32)).scale + (block e (k / 32)).special * 256)).setWidth 32)
                else none
              flags := Flags.join ((blocks e).map fun b => b.flags)
              sdraw := fmtRnd e.w.fmt == 4 && (blocks e).any fun b => b.drew })
    ∧ laneValues (.fkey w) s w false [w.va] [] (fun e k => wd (fkeyBits w.ty.bits (e.rdB w.ty 0 w.va k))) (fun _ => 0)
    ∧ laneValues (.funkey w) s w false [w.va] [] (fun e k => wd (funkeyBits w.ty.bits (e.rdB w.ty 0 w.va k))) (fun _ => 0)
    ∧ (∀ n x, 0 < n → x < 2 ^ n → funkeyBits n (fkeyBits n x) = x ∧ fkeyBits n x < 2 ^ n)
    ∧ (∀ x y, x < 2 ^ 32 → y < 2 ^ 32 → fOrder (decodeF .f32 x) (decodeF .f32 y) = some (-1) → fkeyBits 32 x < fkeyBits 32 y)
    ∧ (∀ t m b n, toInteger t m (.nan b) = (0, Flags.inv ||| (if b then Flags.snan else 0))
        ∧ toInteger t m (.inf n) = (if n then intMin t else intMax t, Flags.inv))
    ∧ (∀ e k n, w.srcType = .e5m2 → w.ty = .e5m2 → w.clamp = 0 → e.rdF .e5m2 0 w.va (modOf w.mods 0) k = .inf n →
        (cvtFromFloat w e s.seed k).1.val = (if n then 0xFC else 0x7C) ∧ (cvtFromFloat w e s.seed k).2.1 = 0)
    ∧ ∀ t x l r, FVal.qnan ∈ l → (quantBlock t x l r).scale = 0xFF ∧ (quantBlock t x l r).special = 0
        ∧ (∀ c ∈ (quantBlock t x l r).codes, c = 0) ∧ (quantBlock t x l r).flags &&& Flags.inv = Flags.inv

/-- Wherever it can execute with its function registers loaded, no evaluation meets TRAP nor a result the assist, and no element that SAMPLE reads in another lane holds an error: APPLY and APPLYD write the value or the derivative, APPLY2 both, OSMAX and OSMERGE the merged pair, OSNORM the normalised weight, each rounded as its rule says; SAMPLE writes the picked index in every active lane; RAND writes n Philox words of the group, draw and lane and advances the draw index. An empty function register traps with FN_EMPTY and an evaluation that meets TRAP with FN_DOMAIN, FAULTMASK holding its lanes. A merge with a NaN gives two NaNs, with +∞ gives (+∞, NaN) and INV; a masked row normalises to +0 with FMROW; weights that are all zero give −1 with SMPZ. The algorithms that the manual names without their constants (log entry 8), that SAMPLE flushes its u (log entry 57), which lanes FN_EMPTY names (log entry 64), which index the second rounding of APPLY2 has (log entry 93), the flags of an evaluation’s own roundings (log entry 96), and that the separate FSUB of the softmax words keeps a subnormal (log entry 106) are the model’s choices. -/
def Obligations.LaneFunctionResults : Prop :=
  ∀ (s : State) (w : L3),
    let fe := s.fnImage (bitsOf w.aux 0 4)
    let fr := s.fnImage (bitsOf w.aux 4 4)
    let d := w.vd.toNat
    let c := L3consumer w false
    let orders (img : Image) (ds : List Bool) (e : Env) (k : Nat) : List FVal × Bool :=
      (evalOrders img ds (e.fnArg w k)).getD ([], false)
    let rounded (img : Image) (ds : List Bool) (e : Env) (j k : Nat) : Conv :=
      convElem w e s.seed w.ty k j ((orders img ds e k).1.getD j .qnan) (domFlag (orders img ds e k).2 ||| nanFlags [e.fnArg w k])
    let apply (i : Instr) (ds : List Bool) : Prop := ∀ img, fe = some img → s.fnErrors [bitsOf w.aux 0 4] = [] →
      laneGivesIf i s { L3uses w false [(w.va, false)] [] with
          binds := true
          wv := if w.cmask.getLsbD 0 then (if ds.length = 2 then [d, d + 1] else [d]) else []
          even := if ds.length = 2 then [d] else []
          named := if ds.length = 2 then [d, d + 1] else [d] } c w.mreg [w.va]
        (fun e => ∀ k ∈ e.actives, (evalOrders img ds (e.fnArg w k)).isSome ∧ ∀ j, j < ds.length → (rounded img ds e j k).1.assist = false)
        fun e => { destEffect c (fun k => (rounded img ds e 0 k).1.val)
            (Flags.join ((List.range ds.length).flatMap fun j => e.actives.map fun k => (rounded img ds e j k).2.1)) with
          reg := fun r k =>
            if w.cmask.getLsbD 0 && r == d then some ((rounded img ds e 0 k).1.val.setWidth 32)
            else if ds.length == 2 && r == d + 1 then some ((rounded img ds e 1 k).1.val.setWidth 32) else none
          sdraw := fmtRnd e.w.fmt == 4 && (List.range ds.length).any fun j => e.actives.any fun k => (rounded img ds e j k).2.2 }
    let merged (img : Image) (merge : Bool) (e : Env) (k : Nat) : Option (FVal × FVal × Flags) :=
      softMerge img (e.pairF 0 w.vd false k) (e.pairF 0 w.vd true k) (e.pairF 0 w.va false k) (if merge then some (e.pairF 0 w.va true k) else none)
    let soft (i : Instr) (merge : Bool) : Prop := ∀ img, fe = some img → s.fnErrors [bitsOf w.aux 0 4] = [] → w.cmask = 1 →
      laneGivesIf i s { L3uses w false [(w.va, merge)] [] with
          binds := true, rv := [d, d + 1] ++ srcRegs merge w.va, wv := [d, d + 1], even := d :: pairFirst merge w.va } c w.mreg [w.va]
        (fun e => ∀ k ∈ e.actives, ∃ x, merged img merge e k = some x ∧ (finish .f32 ⟨.rne, none, 0, 0, e.ftz⟩ x.2.1).assist = false)
        fun e => { LaneEffect.none with
          reg := fun r k =>
            let x := (merged img merge e k).getD (.qnan, .qnan, 0)
            if r = d then some ((wd (finish .f32 Fin.rne x.1).bits).setWidth 32)
            else if r = d + 1 then some ((wd (finish .f32 ⟨.rne, none, 0, 0, e.ftz⟩ x.2.1).bits).setWidth 32) else none
          flags := Flags.join (e.actives.map fun k =>
            let x := (merged img merge e k).getD (.qnan, .qnan, 0)
            x.2.2 ||| (finish .f32 ⟨.rne, none, 0, 0, e.ftz⟩ x.2.1).flags) }
    let norm (f g : Image) (e : Env) (k : Nat) : Option (FVal × Flags) :=
      softNorm f g (e.rdF .f32 0 w.va 0 k) (e.pairF 1 w.vb false k) (e.pairF 1 w.vb true k)
    (apply (.apply w) [false] ∧ apply (.applyd w) [true] ∧ apply (.apply2 w) [false, true])
    ∧ (soft (.osmax w) false ∧ soft (.osmerge w) true)
    ∧ (∀ f g, fe = some f → fr = some g → s.fnErrors [bitsOf w.aux 0 4, bitsOf w.aux 4 4] = [] →
        laneGivesIf (.osnorm w) s { L3uses w false [(w.va, false), (w.vb, true)] [] with binds := true } c w.mreg [w.va, w.vb]
          (fun e => ∀ k ∈ e.actives, ∃ x, norm f g e k = some x ∧ (finish .f32 ⟨.rne, none, 0, 0, e.ftz⟩ x.1).assist = false)
          fun e => destEffect c (fun k => wd (finish .f32 ⟨.rne, none, 0, 0, e.ftz⟩ ((norm f g e k).getD (.qnan, 0)).1).bits)
            (Flags.join (e.actives.map fun k => let x := (norm f g e k).getD (.qnan, 0)
              x.2 ||| (finish .f32 ⟨.rne, none, 0, 0, e.ftz⟩ x.1).flags)))
    ∧ laneGivesIf (.sample w) s { L3uses w false [(w.va, false), (w.vb, false)] [] with far := farOf [w.va, w.vb] false (srcRegs false w.va) 1 } c
        w.mreg [w.va, w.vb] (fun e => s.elemBad [w.va, w.vb] 1 false 0 = false ∧ ∀ k ∈ e.lanes, s.elemBad [w.va, w.vb] 0 false k = false) (fun e =>
        let ws := e.lanes.map fun k => if e.act.getLsbD k then cleanWeight (e.rdF .f32 0 w.va 0 k) else (FVal.zero false, 0)
        let u := cleanU (e.rdF .f32 1 w.vb 0 0)
        let r := samplePick (ws.map Prod.fst) u.1
        destEffect c (fun _ => placeI .s32 r.1) (Flags.join (ws.map Prod.snd) ||| u.2 ||| r.2))
    ∧ (let n := 2 ^ w.aux.toNat
       laneGives (.rand w) s { L3uses w false [] [] with wv := (List.range n).map (d + ·), even := if d % n = 0 then [] else [1] } c w.mreg []
        fun e =>
          let word (k j : Nat) : W32 :=
            (randValue w.ty (philox e.g.rngkey s.seed (BitVec.ofNat 32 e.g.order) (e.g.draw.setWidth 32) (BitVec.ofNat 32 k) j)).setWidth 32
          { LaneEffect.none with
            reg := fun r k =>
              if w.cmask.getLsbD 0 && r == d then some (word k 0) else if d < r ∧ r < d + n then some (word k (r - d)) else none
            row := fun k => some (word k 0)
            draw := true })
    ∧ (let u : Uses := { L3uses w false [(w.va, false)] [] with binds := true, wv := [d], even := [] }
       handled s → w.va.toNat < 640 → w.cmask = 1 → s.laneChecks u false false = none → s.mustWait u = false →
        s.badLanes u [w.va] w.mreg.toNat = 0 → s.fnErrors [bitsOf w.aux 0 4] = [] →
        (fe = none → nextWith (exec (.apply w) s) fun t =>
          t.g.cause = 0x22 ∧ t.g.faultmask = s.active w.mreg.toNat &&& widthMask s.g.width ∧ t.g.v = s.g.v)
        ∧ ∀ img, fe = some img →
          (∃ k, (s.active w.mreg.toNat).getLsbD k = true ∧ evalOrders img [false] ((laneEnv s [[]] w.mreg).fnArg w k) = none) →
          nextWith (exec (.apply w) s) fun t => t.g.cause = 0x21 ∧ t.g.v = s.g.v ∧ (t.g.flags &&& Flags.fndom) = Flags.fndom
            ∧ ∀ k, t.g.faultmask.getLsbD k = ((s.active w.mreg.toNat).getLsbD k
                && (evalOrders img [false] ((laneEnv s [[]] w.mreg).fnArg w k)).isNone))
    ∧ (∀ (f : Image) (m a x : FVal) (b : Option FVal), (m.isNan = true ∨ a.isNan = true ∨ x.isNan = true) →
        ∃ fl, softMerge f m a x b = some (.qnan, .qnan, fl))
    ∧ (∀ (f g : Image) (m a x : FVal), m.isNan = false → a.isNan = false → x.isNan = false →
        (m = .inf false ∨ x = .inf false → softMerge f m a x none = some (.inf false, .qnan, Flags.inv))
        ∧ softMerge f (.inf true) (FVal.zero false) (.inf true) none = some (.inf true, FVal.zero false, 0)
        ∧ softNorm f g x (.inf true) a = some (FVal.zero false, Flags.fmrow))
    ∧ ∀ (n : Nat) (u : FVal), 0 < n → u.isNan = false → u.isInf = false → samplePick (List.replicate n (FVal.zero false)) u = (-1, Flags.smpz)

/-- Wherever it can execute, a comparison or a vote writes its condition into each active lane’s bit of the mask that vd names and keeps the other bits; the mask operations write every bit below the width; MPOP writes the number of ones; LRET appends a register element of the lowest active lane, or a mask, to the return slot, and stalls while the slot holds four. For 32-bit signed operands the codes of ICMP are equality and signed order; an FCMP of a NaN is false but for .ne and .un. -/
def Obligations.MaskWordResults : Prop :=
  ∀ (s : State) (w : L3),
    let p := w.ty.is64
    let d := w.vd.toNat
    let c := L3consumer w false
    let masks (i : Instr) (srcs : List Nat) (f : Env → Word) : Prop :=
      laneGives i s (maskUses w [] srcs) c w.mreg [] fun e =>
        { LaneEffect.none with mask := fun m => if m = d then some (f e) else none }
    laneGives (.fcmp w) s (maskUses w [(w.va, false), (w.vb, false)] []) c w.mreg [w.va, w.vb] (fun e =>
        maskEffect e d (fun k => ccHolds w.aux.toNat (fOrder (e.fsrc w 0 w.va k) (e.fsrc w 1 w.vb k)))
          (Flags.join (e.actives.map fun k => nanFlags [e.fsrc w 0 w.va k, e.fsrc w 1 w.vb k])))
    ∧ laneGives (.icmp w) s (maskUses w [(w.va, p), (w.vb, p)] []) c w.mreg [w.va, w.vb] (fun e =>
        maskEffect e d (fun k => ccHolds w.aux.toNat (some (if e.isrc w 0 w.va k < e.isrc w 1 w.vb k then -1
          else if e.isrc w 0 w.va k = e.isrc w 1 w.vb k then 0 else 1))) 0)
    ∧ laneGives (.vote w) s (maskUses w [(w.va, false)] []) c w.mreg [w.va] (fun e =>
        let q (k : Nat) : Bool := (e.src 0 w.va false k).toNat % 2 ^ 32 != 0
        maskEffect e d (fun k => if w.aux = 0 then e.actives.any q else if w.aux = 1 then e.actives.all q else q k) 0)
    ∧ (masks (.mand w) [w.va.toNat, w.vb.toNat] (fun e => e.maskSrc w.va.toNat &&& e.maskSrc w.vb.toNat)
      ∧ masks (.mor w) [w.va.toNat, w.vb.toNat] (fun e => e.maskSrc w.va.toNat ||| e.maskSrc w.vb.toNat)
      ∧ masks (.mnot w) [w.va.toNat] fun e => ~~~(e.maskSrc w.va.toNat))
    ∧ laneGives (.mpop w) s (L3uses w false [] [w.va.toNat]) c w.mreg [] (fun e =>
        destEffect c (fun _ => wd ((List.range 64).filter (e.maskSrc w.va.toNat).getLsbD).length) 0)
    ∧ (s.g.ret.length < 4 →
        (w.aux.getLsbD 0 = false → laneGives (.lret w) s (L3uses w false [(w.va, p)] []) c w.mreg [w.va] fun e =>
          { LaneEffect.none with ret := [match e.actives with | k :: _ => e.src 0 w.va p k | [] => 0] })
        ∧ (w.aux.getLsbD 0 = true → laneGives (.lret w) s (L3uses w false [] [w.va.toNat]) c w.mreg [] fun e =>
          { LaneEffect.none with ret := [e.maskSrc w.va.toNat] }))
    ∧ (4 ≤ s.g.ret.length → w.aux.getLsbD 0 = true → s.laneChecks (L3uses w false [] [w.va.toNat]) false false = none →
        nextWith (exec (.lret w) s) fun t => onlyGroup s t ∧ t.g = { s.g with st := t.g.st, lWait := some .ret })
    ∧ (∀ (e : Env) (k : Nat), w.ty = .s32 → w.mods = 0 → w.va.toNat < 640 → w.vb.toNat < 640 →
        let a := e.g.vreg w.va.toNat k
        let b := e.g.vreg w.vb.toNat k
        let o := some (if e.isrc w 0 w.va k < e.isrc w 1 w.vb k then -1 else if e.isrc w 0 w.va k = e.isrc w 1 w.vb k then 0 else 1)
        ccHolds 0 o = (a == b) ∧ ccHolds 1 o = (a != b) ∧ ccHolds 2 o = a.slt b ∧ ccHolds 3 o = a.sle b ∧ ccHolds 4 o = b.slt a
          ∧ ccHolds 5 o = b.sle a)
    ∧ ∀ x : FVal, ∀ n, n < 8 → ccHolds n (fOrder FVal.qnan x) = (n == 1 || n == 6) ∧ ccHolds n (fOrder x FVal.qnan) = (n == 1 || n == 6)

/-- With a distance, lane number or index below the group’s width, and wherever it can execute, and no element that it reads in another lane holding an error, each exchange writes in every active lane the element that its rule names, read from any lane, active or not; XBCAST of an element with an error halts the group, with no register written; a distance or a lane number at or above the width traps with RESERVED_FIELD, and so does XPERM in the lanes whose index is. A scan of .s32 sums gives each lane the sum of the active lanes up to it, and a reduction the sum of all. -/
def Obligations.ExchangeResults : Prop :=
  ∀ (s : State) (w : L3),
    let p := w.ty.is64
    let c := L3consumer w p
    let u (srcs : List (VReg × Bool)) (ms : List Nat) := L3uses w p srcs ms
    let dist := bitsOf w.aux 0 6
    let mode := bitsOf w.aux 6 2
    let own (srcs : List (VReg × Bool)) (across : List Nat) : List Nat := (srcs.zipIdx.filter fun q => !across.contains q.2).flatMap fun q => srcRegs q.1.2 q.1.1
    let needs (srcs : List (VReg × Bool)) (across : List Nat) : Uses :=
      { L3uses w p srcs [] with far := across.flatMap (farOf (srcs.map Prod.fst) p (own srcs across)) }
    let sound (srcs : List (VReg × Bool)) (f : Env → Nat → Nat × Nat) (e : Env) : Prop :=
      ∀ k ∈ e.actives, s.elemBad (srcs.map Prod.fst) (f e k).1 p (f e k).2 = false
    let gives (i : Instr) (srcs : List (VReg × Bool)) (across : List Nat) (at_ : Env → Nat → Nat × Nat) (f : Env → LaneEffect) : Prop :=
      laneGivesIf i s (needs srcs across) c w.mreg (srcs.map Prod.fst) (sound srcs at_) f
    let copy (f : Env → Nat → Word) (e : Env) : LaneEffect := destEffect c (f e) 0
    let op := bitsOf w.aux 0 3
    let seg := w.aux.getLsbD 4
    let scanned (e : Env) (k : Nat) : Word := placeI w.ty (intOf w.ty
      (if w.aux.getLsbD 3 = false then (scanOf e w op (segStart e w)).1.getD k 0
       else if segStart e w k then scanIdent op w.ty else (scanOf e w op (segStart e w)).1.getD (k - 1) 0))
    let reduced (e : Env) : Word := placeI w.ty (intOf w.ty ((scanOf e w op (· == 0)).1.getD (e.g.width - 1) 0))
    (dist < s.g.width →
      (mode = 0 → gives (.xbfly w) [(w.va, p)] [0] (fun _ k => (0, k ^^^ dist)) (copy fun e k => e.src 0 w.va p (k ^^^ dist)))
      ∧ (mode = 1 → gives (.xbfly w) [(w.va, p), (w.vb, p)] [0, 1] (fun _ k => if k &&& dist = 0 then (0, k) else (1, k ^^^ dist)) (copy fun e k =>
          if k &&& dist = 0 then e.src 0 w.va p k else e.src 1 w.vb p (k ^^^ dist)))
      ∧ (mode = 2 → gives (.xbfly w) [(w.va, p), (w.vb, p)] [0, 1] (fun _ k => if k &&& dist = 0 then (1, k ^^^ dist) else (0, k)) (copy fun e k =>
          if k &&& dist = 0 then e.src 1 w.vb p (k ^^^ dist) else e.src 0 w.va p k))
      ∧ gives (.xbcast w) [(w.va, p)] [0] (fun _ _ => (0, dist)) (copy fun e _ => e.src 0 w.va p dist)
      ∧ ∀ q rows pf, laneStart s (needs [(w.va, p)] [0]) c w.mreg [w.va] q rows pf → s.elemBad [w.va] 0 p dist = true →
          (laneEnv s rows w.mreg).actives ≠ [] → nextWith (exec (.xbcast w) s) fun t =>
            t.g.st = .halted ∧ t.g.cause = BitVec.ofNat 64 Cause.uncorrectable.code ∧ t.g.v = s.g.v ∧ t.mem = s.mem)
    ∧ (s.g.width ≤ dist → ∀ i ∈ [Instr.xbfly w, .xbcast w], exec i s = s.trapLane .reservedField none (s.active w.mreg.toNat) 0)
    ∧ (0 < s.g.width →
        laneGivesIf (.xperm w) s (needs [(w.va, p), (w.vb, false)] [0]) c w.mreg [w.va, w.vb]
          (fun e => (∀ k ∈ e.actives, (e.src 1 w.vb false k).toNat < e.g.width)
            ∧ sound [(w.va, p), (w.vb, false)] (fun e k => (0, (e.src 1 w.vb false k).toNat)) e)
          (copy fun e k => e.src 0 w.va p (e.src 1 w.vb false k).toNat)
        ∧ laneGives (.xscan w) s (u [(w.va, p)] (if seg then [bitsOf w.aux 8 4] else [])) c w.mreg [w.va] (fun e =>
            destEffect c (scanned e) (scanOf e w op (segStart e w)).2)
        ∧ laneGives (.xred w) s (u [(w.va, p)] []) c w.mreg [w.va] fun e => destEffect c (fun _ => reduced e) (scanOf e w op (· == 0)).2)
    ∧ ∀ (e : Env) (k : Nat), w.ty = .s32 → op = 0 → w.va.toNat < 640 → k < e.g.width → e.g.width ≤ 64 → seg = false → w.aux.getLsbD 3 = false →
        let sum (n : Nat) : W32 := ((List.range n).map fun j => if e.act.getLsbD j then e.g.vreg w.va.toNat j else 0).foldl (· + ·) 0
        (scanned e k).setWidth 32 = sum (k + 1) ∧ (reduced e).setWidth 32 = sum e.g.width

/-- With its decode checks passed and its mask register not open in a window: IF pushes an entry and keeps the lanes of its mask; ELSE takes the entry’s other lanes and ENDIF the outer ones, both with the FMT that the IF saved; LOOPANY pushes a loop entry with the address of its body; BREAKIF takes the lanes of its mask out of EM and out of every entry above the innermost loop; ENDLOOP of the same block goes back to the body while a lane is left and otherwise pops the entry; EXMR reads EM and EXMW writes it within the enclosing lanes. A stack that is full, or whose top is of another kind, is RESERVED_FIELD. Nothing else changes. -/
def Obligations.ControlWordResults : Prop :=
  ∀ (s : State) (w : L3) (x : REntry) (r : List REntry),
    let m := bitsOf w.aux 0 4
    let d := bitsOf w.vd 0 4
    let mask := if m = 0 then s.g.em else s.g.mreg m
    let u : Uses := { Uses.empty with rm := if m = 0 then [] else [m] }
    let runs (u : Uses) : Prop := s.laneChecks u false false = none ∧ s.mustWait u = false
    let goes (i : Instr) (em fmt : Word) (stack : List REntry) : Prop := nextWith (exec i s) fun t =>
      controlFrame s t ∧ t.g.m = s.g.m ∧ t.g.em = em ∧ t.g.fmt = fmt ∧ t.g.rstack = stack ∧ (s.cur.src = .stream → t.g.lpc = s.g.lpc + 12)
    let trap (i : Instr) : Prop := exec i s = s.trapLane .reservedField none (s.active 0) 0
    (runs u → s.g.rstack.length < 32 →
      goes (.ifWord w) (s.g.em &&& mask) s.g.fmt (⟨.ifK, s.g.em, s.g.em &&& ~~~mask, s.g.fmt, 0, s.g.blockId, s.g.nextRegion, 0⟩ :: s.g.rstack))
    ∧ (runs u → 32 ≤ s.g.rstack.length → trap (.ifWord w))
    ∧ (runs Uses.empty →
        (s.g.rstack.length < 32 →
          goes (.loopany w) s.g.em s.g.fmt (⟨.loopK, s.g.em, 0, s.g.fmt, s.cur.lane.lpc + 12, s.g.blockId, s.g.nextRegion, s.g.em⟩ :: s.g.rstack))
        ∧ (32 ≤ s.g.rstack.length → trap (.loopany w))
        ∧ (s.g.rstack = x :: r →
            (x.kind = .ifK → goes (.elseWord w) x.alt x.sfmt ({ x with kind := .elseK } :: r))
            ∧ (x.kind ≠ .ifK → trap (.elseWord w))
            ∧ (x.kind ≠ .loopK → goes (.endifWord w) x.outer x.sfmt r)
            ∧ (x.kind = .loopK → trap (.endifWord w))
            ∧ (x.kind = .loopK → x.blk = s.g.blockId → s.g.em = 0 → goes (.endloop w) x.outer x.sfmt r)
            ∧ (x.kind = .loopK → x.blk = s.g.blockId → s.g.em ≠ 0 → nextWith (exec (.endloop w) s) fun t =>
                controlFrame s t ∧ t.g.em = s.g.em ∧ t.g.rstack = { x with alive := s.g.em } :: r ∧ t.g.lpc = x.body ∧ t.g.run = s.g.run)
            ∧ (x.kind ≠ .loopK ∨ x.blk ≠ s.g.blockId → trap (.endloop w)))
        ∧ (s.g.rstack = [] → ∀ i ∈ [Instr.elseWord w, .endifWord w, .endloop w], trap i))
    ∧ (runs u →
        (s.g.rstack = x :: r → x.kind = .loopK → goes (.breakif w) (s.g.em &&& ~~~(s.g.em &&& mask)) s.g.fmt s.g.rstack)
        ∧ (∀ (y : REntry) (q : List REntry), s.g.rstack = y :: x :: q → y.kind ≠ .loopK → x.kind = .loopK →
            goes (.breakif w) (s.g.em &&& ~~~(s.g.em &&& mask)) s.g.fmt
              ({ y with outer := y.outer &&& ~~~(s.g.em &&& mask), alt := y.alt &&& ~~~(s.g.em &&& mask) } :: x :: q))
        ∧ ((∀ y ∈ s.g.rstack, y.kind ≠ .loopK) → trap (.breakif w))
        ∧ goes (.exmw w) (mask &&& (match s.g.rstack with | y :: _ => y.outer | [] => widthMask s.g.width)) s.g.fmt s.g.rstack)
    ∧ (runs { Uses.empty with wm := [d] } → nextWith (exec (.exmr w) s) fun t => controlFrame s t ∧ t.g.em = s.g.em
        ∧ t.g.mreg d = s.g.em &&& widthMask s.g.width ∧ (∀ k, k ≠ d → t.g.mreg k = s.g.mreg k) ∧ t.g.rstack = s.g.rstack ∧ t.g.fmt = s.g.fmt)

/-- A pair word whose slots do not conflict, whose butterfly distance is below the width, whose butterfly reads no element with an error and that can execute, writes in every active lane slot X’s result to its vd and slot Y’s to its own, both from the values before the word, with the flags of both. Slots that write what the other reads or writes, or that read more than three banks, trap with PAIR_CONFLICT; a butterfly distance at or above the width is RESERVED_FIELD. FMAC reads its own destination as the addend; for register operands without modifiers slot Y’s integer results are the 32-bit sum, difference, AND, OR, XOR and shifts. -/
def Obligations.PairWordResults : Prop :=
  ∀ (s : State) (p : PairX) (q : PairY),
    let reads (x : Option (XOp × Slot)) (y : Option (YOp × Slot)) : List Nat × List Nat :=
      ((match x with | some (op, sl) => xReads op sl | none => []), match y with | some (op, sl) => yReads op sl | none => [])
    let writes (x : Option (XOp × Slot)) (y : Option (YOp × Slot)) : List Nat × List Nat :=
      ((match x with | some (_, sl) => [sl.vd.toNat] | none => []), match y with | some (_, sl) => [sl.vd.toNat] | none => [])
    let fields (x : Option (XOp × Slot)) (y : Option (YOp × Slot)) : List VReg :=
      (match x with | some (_, sl) => [sl.va, sl.vb] | none => [0, 0])
        ++ match y with | some (op, sl) => if yTwo op then [sl.va, sl.vb] else [sl.va] | none => []
    let lanes (x : Option (XOp × Slot)) (y : Option (YOp × Slot)) (e : Env) (k : Nat) : List (Nat × Conv) :=
      (match x with | some (op, sl) => [(sl.vd.toNat, xLane op sl e k)] | none => [])
        ++ match y with | some (op, sl) => [(sl.vd.toNat, yLane op sl s.seed e k)] | none => []
    let far (y : Option (YOp × Slot)) : Prop := ∃ sl, y = some (.xbfly, sl) ∧ s.g.width ≤ sl.vb.toNat
    let across (x : Option (XOp × Slot)) (y : Option (YOp × Slot)) : List Nat := match y with
      | some (.xbfly, _) => farOf (fields x y) false (reads x y).1 2
      | _ => []
    let conflict (x : Option (XOp × Slot)) (y : Option (YOp × Slot)) : Bool :=
      let r := reads x y
      let w := writes x y
      3 < ((List.range 4).filter fun b => (r.1 ++ r.2).any fun n => n % 4 == b).length
        || r.2.any (w.1.contains ·) || r.1.any (w.2.contains ·) || w.2.any (w.1.contains ·)
    let gives (i : Instr) (x : Option (XOp × Slot)) (y : Option (YOp × Slot)) (look mreg : BitVec 4) : Prop :=
      (¬ far y → conflict x y = false →
        laneGivesIf i s ⟨(reads x y).1 ++ (reads x y).2, (writes x y).1 ++ (writes x y).2, maskRegs mreg.toNat, [], [], look.toNat, [], across x y, false⟩
          ⟨0, false, 1, 0⟩ mreg (fields x y) (fun e => (∀ k ∈ e.actives, ∀ z ∈ lanes x y e k, z.2.1.assist = false ∧ z.2.1.lane = k)
            ∧ ∀ sl, y = some (.xbfly, sl) → ∀ k ∈ e.actives, s.elemBad (fields x y) 2 false (k ^^^ sl.vb.toNat) = false)
          fun e => { LaneEffect.none with
            reg := fun r k => ((lanes x y e k).find? fun z => z.1 == r).map fun z => z.2.1.val.setWidth 32
            flags := Flags.join (e.actives.flatMap fun k => (lanes x y e k).map fun z => z.2.2.1)
            sdraw := fmtRnd e.w.fmt == 4 && e.actives.any fun k => match y with
              | some (op, sl) => (yLane op sl s.seed e k).2.2 | none => false })
      ∧ (¬ far y → conflict x y = true → exec i s = s.trapLane .pairConflict none (s.active mreg.toNat) 0)
      ∧ (far y → exec i s = s.trapLane .reservedField none (s.active mreg.toNat) 0)
    let slotX (i : PairX → Instr) (op : XOp) : Prop := gives (i p) (some (op, p.x)) p.y p.look p.mreg
    let slotY (i : PairY → Instr) (op : YOp) : Prop := gives (i q) none (some (op, q.y)) q.look q.mreg
    (slotX .pairFaddF32 .faddF32 ∧ slotX .pairFsubF32 .fsubF32 ∧ slotX .pairFmulF32 .fmulF32 ∧ slotX .pairFmacF32 .fmacF32
      ∧ slotX .pairFminF32 .fminF32 ∧ slotX .pairFmaxF32 .fmaxF32 ∧ slotX .pairFaddF16 .faddF16 ∧ slotX .pairFsubF16 .fsubF16
      ∧ slotX .pairFmulF16 .fmulF16 ∧ slotX .pairFmacF16 .fmacF16)
    ∧ (slotY .pairIaddS32 .iadd ∧ slotY .pairIsubS32 .isub ∧ slotY .pairAndB32 .and ∧ slotY .pairOrB32 .or ∧ slotY .pairXorB32 .xor
      ∧ slotY .pairShlB32 .shl ∧ slotY .pairShrB32 .shr ∧ slotY .pairSarS32 .sar ∧ slotY .pairIminS32 .imin ∧ slotY .pairImaxS32 .imax
      ∧ slotY .pairMovB32 .mov ∧ slotY .pairCvtF32S32 .cvtF32S32 ∧ slotY .pairCvtS32F32 .cvtS32F32 ∧ slotY .pairFkeyF32 .fkey
      ∧ slotY .pairXbflyB32 .xbfly)
    ∧ (∀ (sl : Slot) (e : Env) (k : Nat), sl.mods = 0 → sl.vd.toNat < 640 → sl.va.toNat < 640 → sl.vb.toNat < 640 →
        let f (r : VReg) : FVal := readF .f32 e.ftz (e.g.vreg r.toNat k).toNat
        let v (op : YOp) : W32 := (yLane op sl s.seed e k).1.val.setWidth 32
        let a := e.g.vreg sl.va.toNat k
        let b := e.g.vreg sl.vb.toNat k
        (xLane .fmacF32 sl e k).1.val = wd (finish .f32 { Fin.rne with ftz := e.ftz } (fFma (f sl.va) (f sl.vb) (f sl.vd)).1).bits
        ∧ (xLane .fsubF32 sl e k).1.val = wd (finish .f32 { Fin.rne with ftz := e.ftz } (fSub (f sl.va) (f sl.vb)).1).bits
        ∧ v .iadd = a + b ∧ v .isub = a - b ∧ v .and = a &&& b ∧ v .or = a ||| b ∧ v .xor = a ^^^ b ∧ v .mov = a
        ∧ v .shl = a <<< (b.toNat % 32) ∧ v .shr = a >>> (b.toNat % 32) ∧ v .sar = a.sshiftRight (b.toNat % 32)
        ∧ v .imin = (if b.slt a then b else a) ∧ v .imax = if a.slt b then b else a)

/-- A lane load whose accesses all land, which nothing holds back and whose bytes carry no mark of bad data, issues: its access is in flight with the elements of its lanes, read little-endian as the group reads them and extended by type, VLDV’s j-th element for register vd + j and VLDM’s for its own; the registers change when the data arrives, and memory never; nothing else changes, but for an audited task the input signature (noteReads). An access that fails a check traps with its cause, lowest address and lanes; where the one access page-faults, nothing is read and PAGE_FAULT is taken in its lane. VPREF does nothing. That a load of a commit task checks the window words that it reads is the model’s choice (log entry 35). -/
def Obligations.LaneLoadResults : Prop :=
  ∀ (s s1 s2 : State) (w : LM) (good : List Landed) (q : Store (List (List W32))) (rs : List (List W32)) (pf : Flags)
    (c : Cause) (va : Nat) (m : Word) (x : LaneAcc) (k l : Nat),
    let path := lmPath w
    let d := w.vd.toNat
    let b := w.ty.bits / 8
    let n := lmVecN w
    let uV := memUses w [] (lmRegs w) (lmEven w)
    let bytes (x : Landed) : List Byte := s2.loadBytes (if path = .vlt then [] else s2.windowOf s2.g) x.1.va x.2.1 x.1.n
    let loads (i : Instr) (u : Uses) (multi : Bool) (rows : Env → List (List LaneAcc)) (act : LaneAcc → MemAct) (f : Landed → List (Nat × W32)) : Prop :=
      let l := good.map (todoOf act)
      let s3 := if path = .vlt then s2 else s2.noteReads s2.g (good.map fun x => (x.1.va, x.2.1, x.1.n))
      laneAccessOk s s1 w u 0 multi [] rows good q rs pf → path ≠ .nma → checkLanes path s1 l = (s2, l, []) →
        nextWith (exec i s) fun t => accessIssued s3 t path (good.flatMap f) pf 0 q ∧ (∀ a, t.byteAt a = s3.byteAt a)
          ∧ t = { s3 with groups := t.groups, teams := t.teams }
    loads (.vld w) uV false (oneRow w b) (fun _ => .load w.ty d 1) (fun x => loadElem w.ty d x.1.lane ((bytes x).take b))
    ∧ loads (.vldv w) (memUses w [] ((List.range n).map (d + ·)) (if d % n = 0 then [] else [1])) false (oneRow w (n * b))
        (fun _ => .load w.ty d n) (fun x => (List.range n).flatMap fun j => loadElem w.ty (d + j) x.1.lane (((bytes x).drop (j * b)).take b))
    ∧ loads (.vldm w) (memUses w [] ((List.range (lmN w)).map (d + ·)) []) true (multiRows w)
        (fun x => .load .b32 (d + x.reg) 1) (fun x => loadElem .b32 (d + x.1.reg) x.1.lane ((bytes x).take 4))
    ∧ (∀ r, s.laneChecks uV false false = none → s.mustWait uV = false → s.g.full path = false → s.forbidden path 0 = false →
        s.badLanes uV [w.vo] w.mreg.toNat = 0 → path ≠ .nma →
        popFields (rowsPer s.g.width) (s.teamBroken s.g.team) [w.vo] s.queues = some (q, r, pf) →
        (s.accessChecks path 0 (oneRow w b (memEnv s w r)).flatten = some (c, va, m) →
          exec (.vld w) s = .next (s.trapEntry true c ⟨some (BitVec.ofNat 64 va), m, 0⟩))
        ∧ (s.accessChecks path 0 (oneRow w b (memEnv s w r)).flatten = none →
            s.land path 0 (oneRow w b (memEnv s w r)).flatten = (s1, .ok [] false [(x, k, l)]) →
            exec (.vld w) s = .next ((s1.modG fun g => g.track (s1.laneNew path (lmOrder w 0 false) [])).trapEntry true .pageFault
              ⟨some (BitVec.ofNat 64 x.va), maskOf [x.lane], faultProg k l 0 path.code.toNat 0⟩)))
    ∧ laneGives (.vpref w) s (memUses w [] [] []) ⟨0, false, 0, 0⟩ w.mreg [w.vo] (fun _ => LaneEffect.none)
    ∧ (∀ (e : Env) (i : Nat), w.vo.toNat < 640 →
        (e.w.offs = none ∨ e.w.prog = 0) → (laneAddr w e i).toNat = (sget 0 w.kb.toNat e.w.k + ((e.g.vreg w.vo.toNat i).signExtend 64) <<< w.scl.toNat + w.imm.signExtend 64).toNat)
    ∧ ∀ (b0 b1 b2 b3 : Byte), loadElem .b32 d 5 [b0, b1, b2, b3] = [(64 * d + 5, b3 ++ b2 ++ b1 ++ b0)]
        ∧ loadElem .s8 d 5 [b0] = [(64 * d + 5, b0.signExtend 32)] ∧ loadElem .z16 d 5 [b0, b1] = [(64 * d + 5, (b1 ++ b0).setWidth 32)]

/-- A lane store whose accesses all land and share no byte, which nothing holds back, outside a commit task’s window, issues: byte i of each lane’s element stands at its address, the element a register’s or, as a source may be, a special operand’s, a subnormal one read under FTZ a zero of its sign; every other byte of memory is as it was, no register changes, and the access is in flight on its path. That the operands of a store are read in the order of its data fields and then its offset (log entry 85), and in which order lanes that meet at one place store (log entry 62), are the model’s choices. -/
def Obligations.LaneStoreResults : Prop :=
  ∀ (s s1 : State) (w : LM) (good : List Landed) (q : Store (List (List W32))) (rs : List (List W32)) (pf : Flags),
    let path := lmPath w
    let d := w.vd.toNat
    let b := w.ty.bits / 8
    let n := lmVecN w
    let e := memEnv s w rs
    let operand (j : Nat) : VReg := w.vd + BitVec.ofNat 10 j
    let stores (i : Instr) (u : Uses) (multi : Bool) (data : List VReg) (rows : Env → List (List LaneAcc)) (f : LaneAcc → List Byte) : Prop :=
      laneAccessOk s s1 w u 1 multi data rows good q rs pf → apart good → (path ≠ .glb ∨ s1.inCommit s1.g = false) →
        path ≠ .nma → nextWith (exec i s) fun t => accessIssued s1 t path [] pf 0 q ∧ laneWrites good s1 t
          ∧ (∀ x ∈ good, ∀ j, j < x.1.n → t.byteAt (x.2.1 + j) = (f x.1).getD j 0)
          ∧ ∀ a, (∀ x ∈ good, a < x.2.1 ∨ x.2.1 + x.1.n ≤ a) → t.byteAt a = s1.byteAt a
    stores (.vst w) (memUses w (srcRegs w.ty.is64 w.vd) [] (lmEven w)) false [w.vd] (oneRow w b) (fun x => storeElem e w.ty 0 w.vd x.lane)
    ∧ stores (.vstv w) (memUses w (dataRegs w n) [] (if d % n = 0 then [] else [1])) false ((List.range n).map operand) (oneRow w (n * b)) (fun x =>
        (List.range n).flatMap fun j => storeElem e w.ty j (operand j) x.lane)
    ∧ stores (.vstm w) (memUses w ((List.range (lmN w)).map (d + ·)) [] []) true [] (multiRows w)
        (fun x => storeElem e .b32 0 (operand x.reg) x.lane)
    ∧ (∀ (r : VReg) (k j f : Nat), r.toNat < 640 → j < 4 → (storeElem e .b32 f r k).getD j 0 = (s.g.vreg r.toNat k).extractLsb' (8 * j) 8
        ∧ (storeElem e .b64 f r k).getD j 0 = (s.g.vreg r.toNat k).extractLsb' (8 * j) 8
        ∧ (storeElem e .b64 f r k).getD (4 + j) 0 = (s.g.vreg (r.toNat + 1) k).extractLsb' (8 * j) 8
        ∧ (storeElem e .f32 f r k).getD j 0 = (if e.ftz && (s.g.vreg r.toNat k).extractLsb' 23 8 == 0 then s.g.vreg r.toNat k &&& 0x80000000
            else s.g.vreg r.toNat k).extractLsb' (8 * j) 8)
    ∧ ∀ (k j f : Nat), j < 4 → (storeElem e .z32 f 656 k).getD j 0 = (BitVec.ofNat 32 k).extractLsb' (8 * j) 8
        ∧ (storeElem e .b32 f 643 k).getD j 0 = (sget 0 3 s.cur.lane.k).extractLsb' (8 * j) 8
        ∧ (storeElem e .b64 f 643 k).getD (4 + j) 0 = (sget 0 3 s.cur.lane.k).extractLsb' (8 * (4 + j)) 8

/-- An atomic whose accesses all land and share no byte, which nothing holds back and which meets no bad data nor a unit of another key pair, leaves in each lane’s word the value of its operation on the old value and the lane’s operand, every other byte as it was; VATOM with its return bit has the old values in flight for vd; VATOMV does the same without. NMATOM adds one atomic for each active lane to the queues of the stacks, in lane order where no two meet and in some order where two do, and counts it as pending; memory is unchanged. NMFENCE goes on when none is pending, waits while one is, and halts a poisoned group. The order in which the word’s operands are read (log entry 85) and the order of lanes that meet (log entry 62) are the model’s choices. -/
def Obligations.LaneAtomicResults : Prop :=
  ∀ (s s1 : State) (w : LM) (w3 : L3) (good : List Landed) (q : Store (List (List W32))) (rs : List (List W32)) (pf : Flags),
    let path := lmPath w
    let d := w.vd.toNat
    let ret := w.aux.getLsbD 3
    let cas := w.atomOp == .cas
    let e := memEnv s w rs
    let ftz := e.ftz
    let n := if cas then 2 else 1
    let operand (j k : Nat) : W32 := dataAt w e ftz j k
    let old (x : Landed) : W32 := BitVec.ofNat 32 (s1.readN x.2.1 4)
    let new (x : Landed) (c : W32) : W32 := (atomNew w.atomOp w.ty ftz (old x) (operand 0 x.1.lane) c).1
    let leaves (t : State) (c : Landed → W32) : Prop :=
      (∀ x ∈ good, ∀ j, j < 4 → t.byteAt (x.2.1 + j) = (new x (c x)).extractLsb' (8 * j) 8)
        ∧ (∀ a, (∀ x ∈ good, a < x.2.1 ∨ x.2.1 + 4 ≤ a) → t.byteAt a = s1.byteAt a) ∧ laneWrites good s1 t
    let flags (c : Landed → W32) : Flags := Flags.join (good.map fun x => (atomNew w.atomOp w.ty ftz (old x) (operand 0 x.1.lane) (c x)).2)
    let sound (f : LaneAcc → MemAct) : Prop := apart good ∧ path ≠ .nma ∧ (∀ x ∈ good, ∀ j, j < 4 → readable s1 (x.2.1 + j))
      ∧ checkLanes path s1 (good.map (todoOf f)) = (s1, good.map (todoOf f), [])
    (laneAccessOk s s1 w (memUses w (dataRegs w n) (if ret then [d] else []) (if cas then [d] else [])) 2 false
        ((List.range n).map fun j => w.vd + BitVec.ofNat 10 j) (oneRow w 4) good q rs pf →
      sound (fun x => .rmw w.atomOp w.ty ftz (operand 0 x.lane) (operand 1 x.lane) 0 (if ret then some (64 * d + x.lane) else none)) →
      nextWith (exec (.vatom w) s) fun t => leaves t (fun x => operand 1 x.1.lane)
        ∧ accessIssued s1 t path (if ret then good.map fun x => (64 * d + x.1.lane, old x) else []) (flags (fun x => operand 1 x.1.lane) ||| pf) 0 q)
    ∧ (laneAccessOk s s1 w (memUses w (dataRegs w 1) [] []) 2 false [w.vd] (oneRow w 4) good q rs pf →
        sound (fun x => .rmw w.atomOp w.ty ftz (operand 0 x.lane) 0 0 none) → w.atomOp ≠ .cas →
        nextWith (exec (.vatomv w) s) fun t => leaves t (fun _ => 0) ∧ accessIssued s1 t path [] (flags (fun _ => 0) ||| pf) 0 q)
    ∧ (path = .nma → laneAccessOk s s1 w (memUses w (dataRegs w 1) [] []) 2 false [w.vd] (oneRow w 4) good q rs pf → s1.g.performed = true →
        nextWith (exec (.nmatom w) s) fun t => accessIssued s1 t path [] pf good.length q
          ∧ t = { s1 with groups := t.groups, teams := t.teams, hbmStacks := t.hbmStacks }
          ∧ ∃ l : List Landed, l.Perm good ∧ ((good.map fun x => x.2.1).Nodup → l = good)
            ∧ ∀ k, (t.stackAt k).atoms = (s1.stackAt k).atoms ++ (l.filter fun x => stackOf x.2.1 == k).map fun x =>
              ⟨x.1.va, x.2.1, w.ty, w.aux.setWidth 2, dataAt w e false 0 x.1.lane, s1.cur.core, s1.g.team, s1.g.gidx, s1.g.ctx, s1.nextCmd⟩)
    ∧ (s.laneChecks Uses.empty false false = none → s.mustWait Uses.empty = false →
        (s.g.nmPending = 0 → s.g.nmPoison = false → laneGives (.nmfence w3) s Uses.empty ⟨0, false, 0, 0⟩ 0 [] fun _ => LaneEffect.none)
        ∧ (s.g.nmPending ≠ 0 → nextWith (exec (.nmfence w3) s) fun t => onlyGroup s t ∧ t.g = { s.g with st := t.g.st, lWait := some .nmfence })
        ∧ (s.g.nmPending = 0 → s.g.nmPoison = true → nextWith (exec (.nmfence w3) s) fun t => t.g.st = .halted ∧ t.g.cause = 0x29))
    ∧ ∀ (o v c : W32) (f : Bool), atomNew .add .s32 f o v c = (o + v, 0) ∧ atomNew .swap .b32 f o v c = (v, 0)
        ∧ atomNew .cas .b32 f o v c = (if o = c then v else o, 0) ∧ atomNew .min .s32 f o v c = (if o.sle v then o else v, 0)
        ∧ atomNew .max .z32 f o v c = (if o ≤ v then v else o, 0) ∧ atomNew .xor .b32 f o v c = (o ^^^ v, 0)

/-- RPF of registers inside the allocation replaces the fast-buffer list. ACCRD, for a team that holds the unit, an accumulator that is neither reserved, busy nor poisoned, and positions below 16384, reads each active lane’s element. ACCWR writes or adds each active lane’s value at its position; with distinct positions every other element is as it was. A position of 16384 or more traps with RESERVED_FIELD in its lanes, a reserved accumulator is PROTECTION, and a poisoned one halts the group at a read. -/
def Obligations.PrefetchListAndAccumulators : Prop :=
  ∀ (s : State) (w : L3) (q : Store (List (List W32))) (rs : List (List W32)) (pf : Flags),
    let acc := bitsOf w.aux 0 2
    let c := s.coreAt s.cur.core
    let uR := L3uses w false [(w.va, false)] []
    let uW := L3uses w false [(w.va, false), (w.vb, false)] []
    let e := laneEnv s rs w.mreg
    let posR (k : Nat) : Nat := (e.src 0 w.va false k).toNat
    let posW (k : Nat) : Nat := (e.src 1 w.vb false k).toNat
    let ready : Prop := s.accReserved s.cur.core acc = false ∧ s.accBusy s.cur.core acc = false
    (s.laneChecks Uses.empty false false = none → s.mustWait Uses.empty = false → (∀ r ∈ w.rpfList, r < s.g.alloc ∧ s.g.pending r = false) →
      nextWith (exec (.rpf w) s) fun t => t.g.rpf = w.rpfList ∧ t.g.v = s.g.v ∧ t.g.s = s.g.s ∧ t = { s with groups := t.groups, teams := t.teams }
        ∧ (s.cur.src = .stream → t.g.lpc = s.g.lpc + 12))
    ∧ (ready → s.laneChecks uR false true = none → c.mx.poison.getLsbD acc = false →
        laneGivesIf (.accrd w) s uR ⟨w.vd.toNat, false, 1, 0⟩ w.mreg [w.va]
          (fun e => ∀ k ∈ e.actives, (e.src 0 w.va false k).toNat < 16384)
          fun e => destEffect ⟨w.vd.toNat, false, 1, 0⟩ (fun k => (c.mx.accGet acc (e.src 0 w.va false k).toNat).setWidth 64) 0)
    ∧ (s.laneChecks uR false true = none → s.accReserved s.cur.core acc = true → exec (.accrd w) s = s.protection 0 0 0)
    ∧ (ready → s.laneChecks uR false true = none → s.mustWait uR = false → s.badLanes uR [w.va] w.mreg.toNat = 0 →
        popFields (rowsPer s.g.width) (s.teamBroken s.g.team) [w.va] s.queues = some (q, rs, pf) →
        ((∃ k ∈ e.actives, 16383 < posR k) → exec (.accrd w) s
            = s.trapLane .reservedField none (maskOf (e.actives.filter fun k => 16383 < posR k)) 0)
        ∧ ((∀ k ∈ e.actives, posR k < 16384) → c.mx.poison.getLsbD acc = true →
            nextWith (exec (.accrd w) s) fun t => t.g.st = .halted ∧ t.g.cause = 0x29 ∧ t.g.v = s.g.v))
    ∧ (ready → s.laneChecks uW false true = none → s.mustWait uW = false → s.badLanes uW [w.va, w.vb] w.mreg.toNat = 0 →
        (w.aux.getLsbD 2 = true → c.mx.poison.getLsbD acc = false) →
        popFields (rowsPer s.g.width) (s.teamBroken s.g.team) [w.va, w.vb] s.queues = some (q, rs, pf) →
        (∀ k ∈ e.actives, posW k < 16384) → (e.actives.map posW).Nodup →
        nextWith (exec (.accwr w) s) fun t =>
          let mx := (t.coreAt s.cur.core).mx
          (∀ k ∈ e.actives, mx.accGet acc (posW k)
              = (accValue (w.aux.getLsbD 2) e.ftz (c.mx.accGet acc (posW k)) ((e.src 0 w.va false k).setWidth 32)).1)
          ∧ (∀ b i, i < 16384 → (b ≠ acc ∨ i ∉ e.actives.map posW) → mx.accGet b i = c.mx.accGet b i)
          ∧ t.g.v = s.g.v ∧ t.g.s = s.g.s ∧ t = { s with groups := t.groups, teams := t.teams, cores := t.cores }
          ∧ (s.cur.src = .stream → t.g.lpc = s.g.lpc + 12))
    ∧ ∀ (f : Bool) (o v : W32), (v.extractLsb' 23 8 ≠ 0 ∨ f = false → accValue false f o v = (v, 0))
        ∧ accValue true f 0x3F800000 0x40000000 = (0x40400000, 0)

/-- Each word gives every element of wD the value of its rule and keeps every other wide register, slot and loop counter and every byte of memory; its flags join the flag word; npc advances by 8. NCVT fills the low bytes of wD, two E2M1 elements to a byte, and zeroes the rest. NAPPLY of an image that Table 5-6 rejects ends the program with FLOAD_REJECT, and a TRAP rule ends it with FN_DOMAIN. The widths of immediates, and that an immediate’s own rounding sets no flag, are the model’s choices (log entry 59). -/
def Obligations.NearMemArithmetic : Prop :=
  ∀ (s : State) (p : NmProg) (w : NA), s.prog? = some p → 8 ≤ w.ty.bits →
    let t := w.ty
    let d := w.wd.toNat
    let n := wideCount t
    let imm := w.sub.getLsbD 0
    let ai (j : Nat) : Nat := wideAt p w.wa.toNat t j
    let bi (j : Nat) : Nat := if imm then w.imm.toNat % 2 ^ t.bits else wideAt p w.wb.toNat t j
    let a (j : Nat) : FVal := decodeF t (ai j)
    let b (j : Nat) : FVal := if imm then immVal t w.imm else decodeF t (wideAt p w.wb.toNat t j)
    let c (j : Nat) : FVal := decodeF t (wideAt p w.wc.toNat t j)
    let floats (i : Instr) (op : Nat → FVal × Flags) : Prop :=
      nmValues i s p d t n (fun j => (wideRound t (op j)).1) fun j => (wideRound t (op j)).2
    let img : Image := BitVec.ofNat 8192 (ofBytes (wideBytes p w.wb.toNat ++ wideBytes p (w.wb.toNat + 1)))
    let x (j : Nat) : FVal := decodeF .f32 (wideAt p w.wa.toNat .f32 j)
    let src := EType.ofCode (w.imm.extractLsb' 0 4)
    let conv (j : Nat) : Nat × Flags := nmConvert t src (nmMode (bitsOf w.sub 0 2)) (w.sub.getLsbD 2) (wideAt p w.wa.toNat src j)
    floats (.nfadd w) (fun j => fAdd (a j) (b j)) ∧ floats (.nfmul w) (fun j => fMul (a j) (b j))
    ∧ floats (.nfma w) (fun j => fFma (a j) (b j) (c j))
    ∧ floats (.nfmax w) (fun j => fMinMax true (a j) (b j)) ∧ floats (.nfmin w) (fun j => fMinMax false (a j) (b j))
    ∧ floats (.nscale w) (fun j =>
        ((a j).scale (if imm then max (-512) (min 511 (intOf .s32 (wideAt p w.wb.toNat .s32 0))) else w.imm.toInt), nanFlags [a j]))
    ∧ (8 ≤ src.bits → nmValues (.ncvt w) s p d t (512 / (max src.bits t.bits / 8)) (fun j => (conv j).1) fun j => (conv j).2)
    ∧ (imageReject img ≠ none → exec (.napply w) s = .next (s.progFail 0x23))
    ∧ (imageReject img = none → (∃ j, j < 128 ∧ evalImage img imm (x j) = .trap) →
        nextWith (exec (.napply w) s) fun u => u = (s.setProg { p with flags := p.flags ||| Flags.fndom }).progFail 0x22)
    ∧ (imageReject img = none → ∀ v : Nat → FVal × Bool, (∀ j, j < 128 → evalImage img imm (x j) = .val (v j).1 (v j).2) →
        let r (j : Nat) : Nat × Flags := wideRound .f32 ((v j).1, nanFlags [x j] ||| domFlag (v j).2)
        nmValues (.napply w) s p d .f32 128 (fun j => (r j).1) fun j => (r j).2)
    ∧ (if imm then nmValues (.nmov w) s p d t n bi (fun _ => 0)
       else nmGoes (.nmov w) s s (p.npc + 8) fun u q => quiet s u ∧ wideKept p q d ∧ q.flags = p.flags
          ∧ ∀ i, i < 512 → sget 0 (512 * d + i) q.w = sget 0 (512 * w.wa.toNat + i) p.w)
    ∧ nmValues (.niadd w) s p d t n (fun j => ai j + bi j) (fun _ => 0)
    ∧ (t.isFloat = true → nmValues (.ncmp w) s p d t n
        (fun j => if ccHolds w.sub.toNat (fOrder (a j) (decodeF t (wideAt p w.wb.toNat t j))) then 2 ^ t.bits - 1 else 0)
        (fun j => nanFlags [a j, decodeF t (wideAt p w.wb.toNat t j)]))
    ∧ (t.isFloat = false → w.sub = 2 → nmValues (.ncmp w) s p d t n
        (fun j => if intOf t (ai j) < intOf t (wideAt p w.wb.toNat t j) then 2 ^ t.bits - 1 else 0) (fun _ => 0))
    ∧ (t.isFloat = false → w.sub = 0 → nmValues (.ncmp w) s p d t n
        (fun j => if ai j = wideAt p w.wb.toNat t j then 2 ^ t.bits - 1 else 0) (fun _ => 0))
    ∧ nmValues (.nsel w) s p d t n (fun j => if wideAt p w.wc.toNat t j ≠ 0 then ai j else wideAt p w.wb.toNat t j) (fun _ => 0)
    ∧ ∀ (y : NA), y.ty = .e2m1 → 8 ≤ src.bits → y.wd = w.wd → y.wa = w.wa → y.sub = w.sub → y.imm = w.imm →
        let e (j : Nat) : Nat := (nmConvert .e2m1 src (nmMode (bitsOf w.sub 0 2)) (w.sub.getLsbD 2) (wideAt p w.wa.toNat src j)).1 % 16
        nmGoes (.ncvt y) s s (p.npc + 8) fun u q => quiet s u ∧ wideKept p q d
          ∧ ∀ i, i < 512 → sget 0 (512 * d + i) q.w = if 2 * i < 4096 / src.bits then BitVec.ofNat 8 (e (2 * i) + 16 * e (2 * i + 1)) else 0

/-- An access whose NM address is aligned and whose range lands, in no locked row, for a write with a shadow to spare, runs: NLD puts the L × 64 bytes read into the low bytes of wD and zeroes the rest, NST writes them, and .inc advances the slot; NATOM writes the new values and with r returns the old ones; every other byte of memory, wide register and slot is as it was. NLOCK of a row of module DRAM above every row held, of at most 8, adds the row, and one at or below a row held ends the program with ILLEGAL_WAIT; NUNLOCK releases a row held, and one not held ends the program with RESERVED_FIELD. NWAIT goes on where the value reached its bound and reads again where not. NSIGNAL makes the decrement of its record, and waits while that meets a row that another SDUE holds. An unaligned address ends the program with MISALIGNED. How NWAIT’s cycles are counted is the model’s choice (log entry 22). -/
def Obligations.NearMemAccesses : Prop :=
  ∀ (s s1 s2 : State) (p : NmProg) (m : NM) (l : List Piece) (b : List Byte) (x : Piece), s.prog? = some p →
    let va := (sget 0 m.bslot.toNat p.a + m.off.setWidth 64).toNat
    let d := m.wd.toNat
    let len := 64 * (bitsOf m.sub 0 3 + 1)
    let slot := m.bslot.toNat
    let lands (n kind : Nat) : Prop := s.landRange (s.progWho p) kind va n = (s1, .ok l) ∧ s1.pieceRefused l = none
      ∧ (if kind = 0 then s1.piecesHeld l s1.cur.stack s1.cur.sdue else s1.writesHeld l s1.cur.stack s1.cur.sdue) = false
    let reads : Prop := readPieces s1 l = (s2, b, none)
    let apart2 : Prop := l.Pairwise fun y z => y.flat + y.n ≤ z.flat ∨ z.flat + z.n ≤ y.flat
    let moved (q : NmProg) : Prop := (∀ r, r ≠ slot → sget 0 r q.a = sget 0 r p.a)
      ∧ sget 0 slot q.a = (if m.sub.getLsbD 3 then sget 0 slot p.a + BitVec.ofNat 64 len else sget 0 slot p.a)
    let outside (base t : State) : Prop := ∀ a, (∀ y ∈ l, a < y.flat ∨ y.flat + y.n ≤ a) → t.byteAt a = base.byteAt a
    let n := m.ty.bits / 8
    let old (j : Nat) : Nat := ofBytes ((b.drop (j * n)).take n)
    let new (j : Nat) : List Byte := toBytes n (nmAtomNew (bitsOf m.sub 3 2) m.ty (old j) (wideAt p d m.ty j)).1
    let since := match p.waiting with | some (u, _, _) => u | none => s.stackCycles s.cur.stack
    (reads → b = l.flatMap fun y => s1.seenAt y.flat y.n)
    ∧ (va % 64 ≠ 0 → exec (.nld m) s = .next (s.progFail 0x08) ∧ exec (.nst m) s = .next (s.progFail 0x08)
        ∧ exec (.natom m) s = .next (s.progFail 0x08))
    ∧ (va % 64 = 0 → lands len 0 → reads → nmGoes (.nld m) s s2 (p.npc + 8) fun t q => quiet s2 t ∧ wideKept p q d ∧ moved q
        ∧ q.flags = p.flags ∧ ∀ i, i < 512 → sget 0 (512 * d + i) q.w = b.getD i 0)
    ∧ (va % 64 = 0 → lands len 1 → apart2 → nmGoes (.nst m) s s1 (p.npc + 8) fun t q => outside s1 t ∧ nmWrites l s1 t ∧ moved q ∧ q.w = p.w ∧ q.flags = p.flags
        ∧ ∀ y ∈ l, ∀ j, j < y.n → t.byteAt (y.flat + j) = sget 0 (512 * d + (y.va - va + j)) p.w)
    ∧ (va % 64 = 0 → 8 ≤ m.ty.bits → lands len 2 → reads → (∀ y ∈ l, y.loc = 0) → apart2 →
        nmGoes (.natom m) s s2 (p.npc + 8) fun t q => outside s2 t ∧ nmWrites l s2 t ∧ wideKept p q d ∧ q.a = p.a
          ∧ (∀ y ∈ l, ∀ j, j < y.n → t.byteAt (y.flat + j) = (((List.range (len / n)).flatMap new).getD (y.va - va + j) 0))
          ∧ ∀ i, i < 512 → sget 0 (512 * d + i) q.w = if m.sub.getLsbD 5 && decide (i < len) then b.getD i 0 else sget 0 (512 * d + i) p.w)
    ∧ (va % 64 = 0 → lands len 2 → (∃ y ∈ l, y.loc ≠ 0) → exec (.natom m) s = .next (s1.progFail 0x02))
    ∧ (va % 2048 ≠ 0 → exec (.nlock m) s = .next (s.progFail 0x08) ∧ exec (.nunlock m) s = .next (s.progFail 0x08))
    ∧ (va % 2048 = 0 → (8 ≤ p.locks.length ∨ ∃ y ∈ p.locks, va ≤ y.1) → exec (.nlock m) s = .next (s.progFail 0x18))
    ∧ (va % 2048 = 0 → p.locks.length < 8 → (∀ y ∈ p.locks, y.1 < va) → l = [x] → x.loc = 0 → lands 2048 0 →
        nmGoes (.nlock m) s s1 (p.npc + 8) fun t q => quiet s1 t ∧ q.locks = (va, x.flat / 2048) :: p.locks ∧ q.w = p.w ∧ q.a = p.a
          ∧ (t.stackAt s1.cur.stack).rows = (s1.stackAt s1.cur.stack).rows ++ [(x.flat / 2048, s1.cur.sdue)])
    ∧ (va % 2048 = 0 → (∀ y ∈ p.locks, y.1 ≠ va) → exec (.nunlock m) s = .next (s.progFail 0x02))
    ∧ (∀ row, va % 2048 = 0 → (p.locks.find? fun y => y.1 == va) = some (va, row) →
        nmGoes (.nunlock m) s s (p.npc + 8) fun t q => quiet s t ∧ (∀ y, y ∈ q.locks ↔ y ∈ p.locks ∧ y.1 ≠ va) ∧ q.w = p.w ∧ q.a = p.a
          ∧ (t.stackAt s.cur.stack).rows = (s.stackAt s.cur.stack).rows.filter fun r => !(r.1 == row && r.2 == s.cur.sdue))
    ∧ (va % n = 0 → 8 ≤ m.ty.bits → lands n 0 → reads → s.stackCycles s.cur.stack ≤ since + 2 ^ 20 →
        (wideAt p d m.ty 0 ≤ ofBytes b → nmGoes (.nwait m) s s2 (p.npc + 8) fun t q => quiet s2 t ∧ wideKept p q d ∧ q.a = p.a
          ∧ (∀ i, i < b.length → i < 512 → sget 0 (512 * d + i) q.w = b.getD i 0)
          ∧ ∀ i, b.length ≤ i → i < 512 → sget 0 (512 * d + i) q.w = sget 0 (512 * d + i) p.w)
        ∧ (ofBytes b < wideAt p d m.ty 0 → nextWith (exec (.nwait m) s) fun t => quiet s2 t
            ∧ t.prog? = some { p with waiting := some (since, d, m.ty) }))
    ∧ (let s3 := s.decrement p.ctx (bitsOf m.off 0 20)
       (s3.cur.rowWait = false → nmGoes (.nsignal m) s s3 (p.npc + 8) fun t q =>
          quiet s3 t ∧ q = { p with npc := p.npc + 8, count := p.count + 1, waiting := none })
       ∧ (s.cur.rowWait = false → s3.cur.rowWait = true → exec (.nsignal m) s = .next s))

/-- NLOOP.SET sets its loop counter, NLOOP.STEP counts it down and branches while it is not zero, and NBR branches where its comparison holds, a signed count of words from its own address. NEND writes the flag word to slot 15 of the argument block, takes the program off its SDUE with its row locks, and completes its command as DONE. An idle SDUE takes the oldest program delivered to it and copies its slots from the argument block. An NWAIT past 2^20 cycles gets 0xFFFF_FFFF. A queued near-memory atomic before which none names its address, whose row no SDUE holds and whose range no other group’s command has locked performs, and its group has one fewer pending; one that meets bad data changes no byte and poisons the group’s NMFENCE. A program that ends by a fault leaves its SDUE, and its command FAILED. What the expiry of NWAIT writes, and how its cycles are counted, are the model’s choices (log entries 59 and 22). -/
def Obligations.NearMemControl : Prop :=
  ∀ (s s1 s2 : State) (p : NmProg) (c : NC) (x : Piece) (l : List Piece) (b : List Byte) (cmd : ECmd) (stack sdue n key : Nat) (at_ : NmAtom)
    (bad : Cause),
    let k := bitsOf c.sub 0 2
    let lc := sget 0 k p.lc
    let keeps (t : State) (q : NmProg) : Prop := quiet s t ∧ q.w = p.w ∧ q.a = p.a
    let target := p.npc + (c.off.signExtend 64) <<< 3
    let e1 := wideAt p c.wa.toNat c.ty 0
    let e2 := wideAt p c.wb.toNat c.ty 0
    let taken : Bool := match c.cond.toNat with
      | 7 => true
      | 4 => decide (e1 < e2)
      | 5 => decide (e2 ≤ e1)
      | k =>
        if c.ty.isFloat then ccHolds (if k = 3 then 5 else k) (fOrder (decodeF c.ty e1) (decodeF c.ty e2))
        else
          let i1 := (BitVec.ofNat c.ty.bits e1).toInt
          let i2 := (BitVec.ofNat c.ty.bits e2).toInt
          match k with | 0 => decide (e1 = e2) | 1 => decide (e1 ≠ e2) | 2 => decide (i1 < i2) | _ => decide (i2 ≤ i1)
    let here : State := { s with cur := { s.cur with stack := stack, sdue := sdue, stream := .sdue } }
    let st := s.stackAt stack
    (s.prog? = some p →
      nmGoes (.nloopSet c) s s (p.npc + 8) (fun t q => keeps t q ∧ (∀ j, j ≠ k → sget 0 j q.lc = sget 0 j p.lc)
        ∧ sget 0 k q.lc = if c.cnt ≠ 0 then c.cnt.setWidth 32 else if c.ty = .z32 then BitVec.ofNat 32 (wideAt p c.wa.toNat .z32 0) else 0)
      ∧ nmGoes (.nloopStep c) s s (if lc = 0 ∨ lc = 1 then p.npc + 8 else target) (fun t q => keeps t q
          ∧ (∀ j, j ≠ k → sget 0 j q.lc = sget 0 j p.lc) ∧ sget 0 k q.lc = if lc = 0 then 0 else lc - 1)
      ∧ (8 ≤ c.ty.bits → nmGoes (.nbr c) s s (if taken then target else p.npc + 8) fun t q => keeps t q ∧ q.lc = p.lc
          ∧ (c.ty.isFloat = false → q.flags = p.flags))
      ∧ ((p.arg.toNat + 120) % 8 = 0 → s.landRange (s.progWho p) 1 (p.arg.toNat + 120) 8 = (s1, .ok [x]) → s1.pieceRefused [x] = none →
          s1.writesHeld [x] s1.cur.stack s1.cur.sdue = false → (s1.ecmds.find? fun y => y.id == p.cmd) = some cmd → cmd.recIndex = none →
          x.n = 8 → s1.prog? = some p →
          nextWith (exec (.nend c) s) fun t =>
            (∀ j, j < 8 → t.byteAt (x.flat + j) = (p.flags.setWidth 64 : Word).extractLsb' (8 * j) 8)
              ∧ (∀ a, (a < x.flat ∨ x.flat + 8 ≤ a) → t.byteAt a = s1.byteAt a)
              ∧ (∀ j, ∀ y ∈ (t.stackAt j).sdue, y.2.cmd ≠ p.cmd) ∧ (∀ y ∈ (t.stackAt s1.cur.stack).rows, y.2 ≠ s1.cur.sdue)
              ∧ (∀ y ∈ t.ecmds, y.id ≠ p.cmd)
              ∧ (cmd.kind ≠ 3 → s1.findGroup cmd.team cmd.gidx = some key → cmd.tok ≠ 0 → (sget Group.init key s1.groups).recent cmd.tok = true → (cmd.tok, 0) ∈ (sget Group.init key t.groups).tokDone)))
    ∧ (s.prog? = some p → let t := s.progFail 0x18
        (∀ j, ∀ y ∈ (t.stackAt j).sdue, y.2.cmd ≠ p.cmd) ∧ (∀ y ∈ (t.stackAt s.cur.stack).rows, y.2 ≠ s.cur.sdue)
          ∧ ((s.ecmds.find? fun y => y.id == p.cmd) = some cmd → cmd.recIndex = none → t.mem = s.mem ∧ (∀ y ∈ t.ecmds, y.id ≠ p.cmd)
              ∧ (cmd.kind ≠ 3 → s.findGroup cmd.team cmd.gidx = some key → cmd.tok ≠ 0 → (sget Group.init key s.groups).recent cmd.tok = true → (cmd.tok, 2) ∈ (sget Group.init key t.groups).tokDone)))
    ∧ (stack < 32 → sdue < 4 → here.prog? = none → (st.queue.find? fun q => q.1 == sdue) = some (sdue, p) → s.launchHeld p = false →
        p.arg.toNat % 8 = 0 →
        let s0 : State := ((here.setStack stack { st with queue := st.queue.erase (sdue, p) }).setProg p).asContext p.ctx
        s0.landRange (s0.progWho p) 0 p.arg.toNat 128 = (s1, .ok l) → s1.pieceRefused l = none →
        s1.piecesHeld l s1.cur.stack s1.cur.sdue = false → readPieces s1 l = (s2, b, none) →
        nextWith (exec (.nmProgramStart stack sdue) s) fun t => quiet s2 t
          ∧ ∃ q, t.prog? = some q ∧ q = { p with a := q.a, loaded := true }
            ∧ ∀ i, i < 16 → sget 0 i q.a = BitVec.ofNat 64 (ofBytes ((b.drop (8 * i)).take 8)))
    ∧ (∀ (since r : Nat) (ty : EType), here.prog? = some p → p.waiting = some (since, r, ty) → since + 2 ^ 20 ≤ s.stackCycles stack → ty = .z32 →
        nmGoes (.nwaitExpiry stack sdue) s here (p.npc + 8) fun t q => quiet s t ∧ wideKept p q r ∧ wideAt q r .z32 0 = 0xFFFFFFFF)
    ∧ (st.atoms[n]? = some at_ → (∀ y ∈ st.atoms.take n, y.addr ≠ at_.addr) → s.rowHeld at_.addr 4 32 0 = false → s.noShadow at_.addr 4 = false →
        s.lockedOut (dieOf at_.core) at_.ctx at_.team at_.gidx false at_.va 4 true = false →
        let s3 := (s.asServed at_.core at_.ctx).setStack stack { st with atoms := st.atoms.eraseIdx n }
        (s3.checkRead at_.addr 4 = (s2, none) → at_.ty = .s32 → at_.op = 0 → nextWith (exec (.nmatomPerform stack n) s) fun t =>
          t.readN at_.addr 4 = (s2.seenN at_.addr 4 + at_.val.toNat) % 2 ^ 32
            ∧ (∀ a, (a < at_.addr ∨ at_.addr + 4 ≤ a) → t.byteAt a = s.byteAt a)
            ∧ (s2.findGroup at_.team at_.gidx = some key →
                (sget Group.init key t.groups).nmPending = (sget Group.init key s2.groups).nmPending - 1))
        ∧ (s3.checkRead at_.addr 4 = (s2, some bad) → nextWith (exec (.nmatomPerform stack n) s) fun t => (∀ a, t.byteAt a = s.byteAt a)
            ∧ (s2.findGroup at_.team at_.gidx = some key → (sget Group.init key t.groups).nmPoison = true)))

/-- A decrement takes one from DEPCNT, and the one from 1 to 0 makes a BLOCKED record READY, its TRIES and CAUSE 0, and has it checked; at 0, and outside the region, it is only logged. A record that no decrement or relaunch made READY is not checked. A READY record with a bad field is FAILED with RESERVED_FIELD; one whose checks pass is QUEUED at the tail of its priority’s queue in the die of its walker; an empty task without successors is DONE. A head that has waited AGE cycles moves to the tail of the next higher level. A posted write inside the BAR2 window stores its bytes, and one outside does nothing. An iteration of a cluster writes its number. Every other byte of memory is as it was. That a host write outside the BAR2 window does nothing, and which cluster owns an entry while its SEQ is odd, are the model’s choices (log entries 37 and 110), and so is that a grid launch of no team is a bad record (log entry 109). -/
def Obligations.AlmanacRecords : Prop :=
  ∀ (s : State) (ctx index a f lvl die cluster n base array : Nat) (r d : BitVec 512) (bytes : List Byte) (off : Nat) (e : QEntry) (rest : List QEntry),
    (recordAt s ctx index a r →
      (recDep r ≠ 0 → recState r < 7 → nextWith (exec (.depcntDecrement ctx index) s) fun t => recordBecomes s t a fun q =>
          recDep q = recDep r - 1 ∧ recState q = (if recDep r = 1 ∧ recState r = 1 then 2 else recState r) ∧ recordKept r q
            ∧ (if recDep r = 1 ∧ recState r = 1 then recTries q = 0 ∧ bitsOf q 56 8 = 0 ∧ index ∈ (t.ctxAt ctx).checks
               else recTries q = recTries r ∧ bitsOf q 56 8 = bitsOf r 56 8 ∧ t.ctxs = s.ctxs))
      ∧ (recDep r = 0 → nextWith (exec (.depcntDecrement ctx index) s) fun t =>
          t = { s with dies := t.dies, events := s.events ++ [.almanac ctx index 0] })
      ∧ (index ∉ (s.ctxAt ctx).checks → exec (.recordCheck ctx index) s = .next s)
      ∧ (index ∈ (s.ctxAt ctx).checks → recState r ≠ 2 → nextWith (exec (.recordCheck ctx index) s) fun t =>
          t = { s with ctxs := t.ctxs, dies := t.dies } ∧ index ∉ (t.ctxAt ctx).checks)
      ∧ (index ∈ (s.ctxAt ctx).checks → recState r = 2 →
          let c := s.ctxAt ctx
          let s1 := s.setCtx ctx { c with checks := c.checks.filter (· != index) }
          let s2 := s1.touch ctx (recDesc r) (if recKind r = 0 then 64 else 32)
          (recBad r = true → nextWith (exec (.recordCheck ctx index) s) fun t => recordBecomes s t a (fun q =>
              recState q = 6 ∧ bitsOf q 56 8 = 0x02 ∧ recDep q = recDep r ∧ recordKept r q)
            ∧ t.events = s.events ++ if recNotify r then [.notify ctx index false] else [])
          ∧ (recBad r = false → recKind r = 4 → recNsucc r = 0 →
              (s1.recordState ctx index 3).deviceFlat ctx (s.recordVa ctx index) = some a →
              nextWith (exec (.recordCheck ctx index) s) fun t => recordBecomes s t a (fun q => recState q = 5 ∧ bitsOf q 56 8 = 0 ∧ recDep q = recDep r ∧ recordKept r q)
                ∧ t.events = s.events ++ if recNotify r then [.notify ctx index true] else [])
          ∧ (recBad r = false → recKind r < 4 → s.deviceRead ctx (recDesc r) (if recKind r = 0 then 64 else 32) = some n →
              d = BitVec.ofNat 512 n →
              s2.cur.rowWait = s.cur.rowWait → s2.deviceFlat ctx (s.recordVa ctx index) = some a →
              (if recKind r = 0 then s2.launchFails ctx index r d else blockFails (recKind r) (blockWords d)) = none →
              nextWith (exec (.recordCheck ctx index) s) fun t => recordBecomes s t a (fun q => recState q = 3 ∧ recDep q = recDep r ∧ recordKept r q)
                ∧ t.queueAt (s.walkerDie index) (recPrio r) = s.queueAt (s.walkerDie index) (recPrio r)
                    ++ [⟨ctx, index, none, r, d, s.dieCycles (s.walkerDie index), none⟩]
                ∧ t.events = s.events)))
    ∧ ((s.ctxAt ctx).almRecords ≤ index → nextWith (exec (.depcntDecrement ctx index) s) fun t =>
        t = { s with events := s.events ++ [.almanac ctx index 1] })
    ∧ (∀ lv < 4, s.queueAt die lv = [] → exec (.recordAging die lv) s = .next s)
    ∧ (0 < lvl → lvl < 4 → s.queueAt die lvl = e :: rest →
        (e.since + (s.dieAt die).age ≤ s.dieCycles die → nextWith (exec (.recordAging die lvl) s) fun t =>
          t.queueAt die lvl = rest
            ∧ t.queueAt die (lvl - 1) = s.queueAt die (lvl - 1) ++ [{ e with since := s.dieCycles die, failing := none }] ∧ t.mem = s.mem)
        ∧ (s.dieCycles die < e.since + (s.dieAt die).age → exec (.recordAging die lvl) s = .next s))
    ∧ (s.deviceFlat ctx (s.recordVa ctx index) = some a → index < (s.ctxAt ctx).almRecords → off + bytes.length ≤ 64 →
        (s.inBar2 (a + off) bytes.length = true → (s.ctxAt ctx).audit = none →
          s.devicePieces ctx (s.recordVa ctx index + off) bytes.length = some [(f, bytes.length)] → s.heldFor f bytes.length = false →
          nextWith (exec (.almanacRecordWrite ctx index off bytes) s) fun t => (∀ j, j < bytes.length → t.byteAt (f + j) = bytes.getD j 0)
            ∧ (∀ q, (q < f ∨ f + bytes.length ≤ q) → t.byteAt q = s.byteAt q) ∧ t.teams = s.teams)
        ∧ (s.inBar2 (a + off) bytes.length = false → exec (.almanacRecordWrite ctx index off bytes) s = .next s))
    ∧ (cluster < 128 → (s.ctxAt ctx).batch = some (BitVec.ofNat 64 base, 0, BitVec.ofNat 64 array) → array < 2 ^ 56 →
        s.devicePieces ctx (array + Config.snapshotNumber cluster) 8 = some [(f, 8)] → s.heldFor f 8 = false →
        nextWith (exec (.batchTableSnapshot cluster ctx) s) fun t =>
          t.readN f 8 = (sget 0 cluster s.iters + 1) % 2 ^ 64 ∧ (∀ q, (q < f ∨ f + 8 ≤ q) → t.byteAt q = s.byteAt q)
            ∧ sget 0 cluster t.iters = sget 0 cluster s.iters + 1)

/-- A team that can retire leaves the module, its groups’ flags join its grid’s status, and the grid counts it; the last team of a grid that is no commit task writes the status block and completes the record, which fails with PAGE_FAULT where the block cannot be written. A commit task whose teams have all retired publishes the masked bytes of its windows, writes its status block and completes its record, never in the hold of a cut; a window with bad data makes it faulted instead. A faulted commit task stops its teams, and without a team it is READY again, its CAUSE 0, with one more try while RETRIES allows, and is to be checked. What meets a row that an SDUE holds waits. A replay’s next team goes to another cluster than its original. The verdict of a replay that ran to its end is MATCH, OUTPUT or INPUT mismatch, written to the audit array, and the replay is gone. That a status block that cannot be written fails the record (log entry 31), the order of windows at a publish and the two events of an abort (log entry 34), and how a replay runs (log entry 36) are the model’s choices. -/
def Obligations.GridRetirement : Prop :=
  ∀ (s : State) (ctx index team a : Nat) (tm : Team) (x : Grid) (l : CLine) (w : Sealed) (o : Nat × Nat) (r : BitVec 512) (s1 : State),
    let gk := gridKey ctx index
    let tk := teamKey gk team
    let rk := replayKey ctx index
    (s.team? tk = some tm → s.grid? gk = some x → s.canRetire tk tm x = true →
      (descCommit x.desc = false → x.replayOf = none →
        let flags := (s.teamGroups tk).foldl (fun f p => f ||| p.2.flags) x.flags
        (x.retired + 1 ≠ recTeams x.record → nextWith (exec (.teamRetirement ctx index team) s) fun t => t.team? tk = none
          ∧ (∀ p ∈ t.groups, p.2.team ≠ tk) ∧ t.mem = s.mem
          ∧ ∃ y, t.grid? gk = some y ∧ y.retired = x.retired + 1 ∧ y.flags = flags ∧ y.placed = x.placed)
        ∧ (x.retired + 1 = recTeams x.record → nextWith (exec (.teamRetirement ctx index team) s) fun t => ∃ (u : State) (y : Grid),
            unlessWaits s (if (u.deviceFlat x.ctx (recStatblk x.record)).isSome then (u.writeStatus y).recordDone y.ctx y.index
                else u.recordFailed x.ctx x.index 0x10) t
              ∧ u.mem = s.mem ∧ u.grid? gk = none ∧ u.team? tk = none ∧ y.flags = flags ∧ y.ctx = x.ctx ∧ y.index = x.index
              ∧ y.record = x.record))
      ∧ (descCommit x.desc = true → x.replayOf = none → nextWith (exec (.teamRetirement ctx index team) s) fun t => t.team? tk = none
          ∧ t.mem = s.mem ∧ ∃ y, t.grid? gk = some y ∧ y.retired = x.retired + 1 ∧ y.sealed = x.sealed ++ [⟨tm.index, dieOf tm.core, tm.cbase, tm.commit⟩]))
    ∧ (s.grid? gk = some x → descCommit x.desc = true →
      (x.faulted = false → x.retired = recTeams x.record →
        (s.eqx.st = .hold → exec (.commitPublish ctx index) s = .next s)
        ∧ (s.eqx.st ≠ .hold → (∃ y ∈ x.sealed, s.sealedBad y = true) → nextWith (exec (.commitPublish ctx index) s) fun t =>
            t.mem = s.mem ∧ t.grid? gk = some { x with faulted := true })
        ∧ (s.eqx.st ≠ .hold → (∀ y ∈ x.sealed, s.sealedBad y = false) → x.sealed = [w] → w.lines = [l] →
            s.deviceFlat x.ctx (l.addr * 128) = some a → descAud x.desc = false →
            nextWith (exec (.commitPublish ctx index) s) fun t => ∃ u : State, unlessWaits s (((u.dropGrid gk).writeStatus x).recordDone ctx index) t
              ∧ (∀ i, i < 128 → u.byteAt (a + i) = if l.mask.getLsbD i then l.data.extractLsb' (8 * i) 8 else s.byteAt (a + i))
              ∧ ∀ q, (q < a ∨ a + 128 ≤ q) → u.byteAt q = s.byteAt q))
      ∧ (x.faulted = true →
          (s.team? tk = some tm → tm.grid = gk → tm.image = none → tm.saving = false → nextWith (exec (.commitAbort ctx index) s) fun t =>
            t.mem = s.mem ∧ t.grid? gk = some x ∧ t.team? tk = some { tm with saving := true }
              ∧ ∀ k, (sget Group.init k s.groups).team = tk → sget Group.init k t.groups = (sget Group.init k s.groups).park)
          ∧ (s.gridTeams gk = [] → recordAt s ctx index a r → x.ctx = ctx → x.index = index → recTries r < recRetry r →
              nextWith (exec (.commitAbort ctx index) s) fun t => recordBecomes s t a (fun q =>
                  recState q = 2 ∧ recTries q = recTries r + 1 ∧ bitsOf q 56 8 = 0 ∧ recDep q = recDep r ∧ recordKept r q)
                ∧ index ∈ (t.ctxAt ctx).checks
                ∧ ∃ y, t.grid? gk = some y ∧ y.faulted = false ∧ y.placed = 0 ∧ y.retired = 0 ∧ y.sealed = [] ∧ y.record = x.record)))
    ∧ (s.grid? rk = some x →
      (x.placed = x.retired → x.placed < recTeams x.record → x.faulted = false → s.blockedTo 3 = false → (∀ l, l < 4 → s.resumptions l = []) →
        s.placeTeam rk x.placed x (fun c => x.origin x.placed != some (clusterOf c)) = .ok s1 →
        exec (.vigilReplay ctx index) s = .next s1
          ∧ ∃ y, s1.team? (teamKey rk x.placed) = some y ∧ x.origin x.placed ≠ some (clusterOf y.core))
      ∧ (x.replayOf = some o → x.faulted = false → x.retired = recTeams x.record → (s.ctxAt x.ctx).audit = some (BitVec.ofNat 64 a) →
          a + x.index < 2 ^ 56 → a < 2 ^ 64 → s.marks = [] →
          ∀ f, s.devicePieces x.ctx (a + x.index) 1 = some [(f, 1)] → s.heldFor f 1 = false → nextWith (exec (.vigilVerdict ctx index) s) fun t =>
            let v : Nat := if x.sigIn ≠ o.1 then 4 else if x.sigOut ≠ o.2 then 3 else 2
            t.grid? rk = none ∧ t.byteAt f = BitVec.ofNat 8 v ∧ (∀ q, q ≠ f → t.byteAt q = s.byteAt q)
              ∧ t.events = s.events ++ if v = 2 then [] else [.vigil x.ctx x.index v o.2 x.sigOut x.cores]))

/-- With no head blocking and no gang to resume, the first head of the highest level with a head, if a new task, in the round-robin order of the dies, is placed where it fits. The next team of a weakly parallel grid goes to the first candidate core: its groups are PENDING at SENTRY with ARGS, team and group index in s1 to s3, the register blocks, slots and windows chosen, its windows zero. An engine command of a record is accepted when the lock tables have room, and its record is RUNNING. A blocking head of level 0 stops the gangs that have to give way, each where the pool holds all its images; where it does not, the pre-emption is refused and the gang runs on. A stopped team that has drained is saved: its groups leave their slots for its image, which fills frames of the pool, and its resumption joins its record’s queue. A saved team whose resumption is the first of the saved gangs’, or where no gang is saved the first head, and that fits again gets its groups and window back. Which core and slots are taken where several fit, how victims are chosen and what an image’s frames hold are the model’s choices (log entries 24, 25, 28, 29 and 38). -/
def Obligations.PlacementAndSaving : Prop :=
  ∀ (s s1 : State) (die lvl core ctx index team base cbase : Nat) (e : QEntry) (rest : List QEntry) (ds1 ds2 : List Nat) (slots rows cs : List Nat)
    (stk : List (Option Nat)) (tm : Team) (img : SaveImage) (k : Nat) (x1 : Grid) (es : List (Nat × QEntry)),
    let gk := gridKey e.ctx e.index
    let x := s.entryGrid e
    let s0 := s.setGrid gk x
    let d := x.desc
    let tk := teamKey (gridKey ctx index) team
    let gs := ((s.teamGroups tk).filter fun p => p.2.savable).map Prod.snd
    let heads : Prop := e.team = none ∧ (∀ l, s.blockedAt l = false) ∧ (∀ l, l < 4 → s.resumptions l = []) ∧ lvl < 4 ∧ (∀ l, l < lvl → ∀ c, s.queueAt c l = [])
      ∧ s.dieOrder lvl = ds1 ++ die :: ds2 ∧ (∀ c ∈ ds1, s.queueAt c lvl = []) ∧ s.queueAt die lvl = e :: rest
    (heads → s.tryEntry die lvl e = .ok s1 → s1.cur.rowWait = s.cur.rowWait → nextWith (exec .placementStep s) fun t => t = { s1 with rr := s1.rr.set lvl die })
    ∧ (heads → noRows s → recKind e.record = 2 → (copyPack (blockWords e.desc)).len ≠ 0 → s.lockRoom (recordLocks s 2 die (blockWords e.desc)) = true →
        nextWith (exec .placementStep s) fun t => t.queueAt die lvl = rest ∧ t.groups = s.groups
          ∧ t.ecmds = s.ecmds ++ [⟨s.nextCmd, 1, blockWords e.desc, 256 * die, recordTeam, 0, e.ctx, true, 0, false, none, some e.index⟩])
    ∧ (heads → noRows s → recKind e.record = 0 → recClass e.record = 2 → (descCommit d = true → x.faulted = false) → x.ctx < 64 → descGroups d ≤ 16 →
        s0.candidates (needOf x.ctx d) x.avoid (fun _ => true) = core :: cs →
        chooseSlots (s0.freeSlots core) (descWidth d) (descGroups d) = some slots →
        s0.placeWindows core (descVault d) (descWindow d) = some (base, cbase) →
        s0.stackSlots (s0.descFor core x.ctx) x.ctx (descGroups d) = some stk →
        s0.blocksFor core (List.replicate (descGroups d * descHalves d) 128) = .ok s1 rows →
        nextWith (exec .placementStep s) fun t =>
          (∀ i, i < descGroups d → let g := t.groupAt core (slots.getD i 0)
            g.st = .pending ∧ g.team = teamKey gk x.placed ∧ g.gidx = i ∧ g.spc = descSentry d ∧ g.sreg 1 = recArgs x.record
              ∧ g.sreg 2 = BitVec.ofNat 64 x.placed ∧ g.sreg 3 = BitVec.ofNat 64 i ∧ g.width = descWidth d ∧ g.em = widthMask (descWidth d)
              ∧ g.rngkey = recKey x.record ∧ g.ctx = x.ctx ∧ g.mode = .user ∧ g.v = [] ∧ g.cls = BitVec.ofNat 64 (recClass x.record))
          ∧ (∃ y, t.team? (teamKey gk x.placed) = some y ∧ y.core = core ∧ y.slots = slots ∧ y.base = base ∧ y.wsize = descVault d
              ∧ y.cbase = cbase ∧ y.image = none)
          ∧ (∃ y, t.grid? gk = some y ∧ y.placed = x.placed + 1)
          ∧ (s.eqx.queued = [] → ∀ i, i < descVault d → t.byteAt (vaultFlat (dieOf core) (base + i)) = 0))
    ∧ (lvl ≠ 0 → exec (.headBlocking die lvl) s = .next s)
    ∧ (s.queueAt die 0 = e :: rest → s.isBlocking die 0 = true → (s.ctxAt e.ctx).preemptOn = true →
        let v := s.asSaved ((s.teams.filter fun p => p.2.saving && !s.aborting p.2).map Prod.fst)
        let vs := takeVictims die v ([3, 2, 1].flatMap s.victimsAt)
        nextWith (exec (.headBlocking die 0) s) fun t => (v.headFits die 0 = true → t = s) ∧ t.mem = s.mem
          ∧ ∀ u, vs = [u] →
            let stops := (s.gangTeams u).map Prod.fst
            (s.gangRoom u = false → t.teams = s.teams ∧ t.groups = s.groups)
            ∧ (s.gangRoom u = true → t.events = s.events
              ∧ (∀ j, t.team? j = if j ∈ stops then (s.team? j).map fun y => { y with saving := true } else s.team? j)
              ∧ ∀ j, sget Group.init j t.groups = if (sget Group.init j s.groups).team ∈ stops
                  then (sget Group.init j s.groups).park else sget Group.init j s.groups))
    ∧ (s.team? tk = some tm → s.team? (teamKey (replayKey ctx index) team) = none → tm.saving = true → tm.image = none →
        s.aborting tm = false → s.teamDrained tk tm = true → tm.mcast = 0 → s.grid? tm.grid = some x1 →
        s.framesFor tk tm ≤ (s.freeSaves x1.ctx).length → noRows s →
        nextWith (exec (.teamSave ctx index team) s) fun t => ∃ y i, t.team? tk = some y ∧ y.image = some i ∧ y.saving = false
          ∧ i.groups = (gs.map fun g => g.savedForm (s.cycles tm.core)) ∧ i.frames = (s.freeSaves x1.ctx).take (s.framesFor tk tm)
          ∧ (∀ p ∈ t.groups, p.2.team = tk → p.2.savable = false) ∧ (∀ q, frameOf q ∉ i.frames → t.byteAt q = s.byteAt q)
          ∧ (s.teamLevel tm < 4 → t.queueAt (s.walkerDie x1.index) (s.teamLevel tm) = s.queueAt (s.walkerDie x1.index) (s.teamLevel tm)
              ++ [⟨x1.ctx, x1.index, some tk, x1.record, x1.desc, s.dieCycles (s.walkerDie x1.index), none⟩]))
    ∧ ((∀ l, s.blockedAt l = false) → lvl < 4 → (∀ l, l < lvl → s.resumptions l = [] ∧ ∀ c, s.queueAt c l = []) →
        (s.resumptions lvl = (die, e) :: es ∨ (s.resumptions lvl = [] ∧ s.dieOrder lvl = ds1 ++ die :: ds2 ∧ (∀ c ∈ ds1, s.queueAt c lvl = [])
          ∧ s.queueAt die lvl = e :: rest)) → e.team = some tk → s.team? tk = some tm → tm.image = some img → tm.core = core →
        s.gangOf tk tm = [tk] → tm.matrix = false → img.matrix = none → swf 0 img.bytes = true → (∀ c ∈ img.bytes, c.1 < tm.wsize) →
        chooseSlots (s.freeSlots core) (match img.groups with | g :: _ => g.width | [] => 32) img.groups.length = some slots →
        s.placeWindows core tm.wsize (descWindow (s.teamDesc tm)) = some (base, cbase) → s.ctxOk core (s.teamCtx tm) = true →
        s.corePresent core = true → (s.setTeam tk { tm with image := none }).rowsHeld core ≤ 3968 →
        s.blocksFor core (blockSizes img.groups) = .ok s1 rows →
        nextWith (exec (.teamRestore ctx index team) s) fun t =>
          t.team? tk = some { tm with image := none, saving := false, slots := slots, base := base, cbase := cbase }
            ∧ (∀ c l, ∀ y ∈ t.queueAt c l, y.team ≠ some tk)
            ∧ (∀ (_ : k < img.groups.length), let g := t.groupAt core (slots.getD k 0); let h := img.groups[k]
                g.st = (if h.st = .exited then .exited else .pending) ∧ g.v = h.v ∧ g.s = h.s ∧ g.m = h.m ∧ g.k = h.k ∧ g.spc = h.spc
                  ∧ g.lpc = h.lpc ∧ g.status = h.status ∧ g.shadow = h.shadow)
            ∧ (s.eqx.queued = [] → ∀ i, i < tm.wsize → t.byteAt (vaultFlat (dieOf core) (base + i)) = sget 0 i img.bytes))

/-- Arriving data is written to the registers of its access. A completed access is subtracted from its path’s counter, in issue order: the oldest at once, a later one only with every earlier one; the other paths’ counters stay, and bad lanes that it reports halt the group. The assist writes its held lanes, counts itself, and releases the group to PENDING. The walker of a core takes a request that misses, in walker mode at the walker’s entry, with the address, the access, the root and the context in s1 to s4. A page response releases the parked group: to its faulting place, or to its handler with PAGE_FAULT of kind 8. An ATS invalidation completes when nothing of its PASID is in progress. A fetch that faults enters FETCH_FAULT. In which order counters fall, how page requests beyond the 64 of a PASID wait, that a stack-cache write-back moves nothing that an agent sees, and when an ATS invalidation is answered, are the model’s choices where the manual is silent (log entries 16, 23, 40 and 41). -/
def Obligations.ServiceEvents : Prop :=
  ∀ (s s1 : State) (core slot n : Nat) (path : Path) (a : Access) (r : AssistRec) (q : WalkReq) (who : Requester) (pasid : Nat) (va : Word)
    (b : Bad) (k l v : Nat),
    let g := s.groupAt core slot
    let others (t : State) : Prop := ∀ j, j ≠ 48 * core + slot → sget Group.init j t.groups = sget Group.init j s.groups
    let held := g.stopped || (match s.team? g.team with | some t => t.saving | none => false)
    (nthAccess path n g.inflight = some a →
      (a.arrived = false → a.todo = [] → (a.writes.map Prod.fst).Nodup → nextWith (exec (.loadDataArrival core slot path n) s) fun t =>
        let h := t.groupAt core slot
        (∀ w ∈ a.writes, sget 0 w.1 h.v = w.2) ∧ (∀ j, j ∉ a.writes.map Prod.fst → sget 0 j h.v = sget 0 j g.v)
          ∧ nthAccess path n h.inflight = some { a with arrived := true } ∧ (∀ p, h.count p = g.count p)
          ∧ h.s = g.s ∧ h.st = g.st ∧ t.mem = s.mem ∧ others t)
      ∧ (a.arrived = true → a.todo = [] → a.cmd = none → a.done = false →
          (a.bad = none → (∀ x ∈ g.inflight, x.done = false) → nextWith (exec (.accessComplete core slot path n) s) fun t =>
            let h := t.groupAt core slot
            h.count path = (if n = 0 then g.count path - 1 else g.count path) ∧ (∀ p, p ≠ path → h.count p = g.count p)
              ∧ h.v = g.v ∧ h.s = g.s ∧ h.st = g.st ∧ t.mem = s.mem ∧ others t)
          ∧ (a.bad = some b → g.live = true → nextWith (exec (.accessComplete core slot path n) s) fun t =>
              let h := t.groupAt core slot
              h.st = .halted ∧ h.cause = BitVec.ofNat 64 b.cause.code ∧ h.faultva = b.va ∧ h.faultmask = b.mask &&& widthMask g.width
                ∧ h.faultprog = BitVec.ofNat 64 b.prog ∧ h.v = g.v ∧ t.mem = s.mem ∧ others t)))
    ∧ exec (.stackCacheWriteback core) s = .next s
    ∧ (g.assistRec = some r → r.queue = [] → (r.writes.map Prod.fst).Nodup → nextWith (exec (.fpSubnormalAssist core slot) s) fun t =>
        let h := t.groupAt core slot
        (∀ w ∈ r.writes, sget 0 w.1 h.v = w.2) ∧ (∀ j, j ∉ r.writes.map Prod.fst → sget 0 j h.v = sget 0 j g.v)
          ∧ h.assistRec = none ∧ h.assists = g.assists + 1 ∧ h.flags = g.flags ||| (if r.unf then Flags.unf else 0)
          ∧ h.st = (if g.st = .parked ∧ held = false then .pending else g.st) ∧ h.s = g.s ∧ t.mem = s.mem ∧ others t)
    ∧ ((s.coreAt core).walk = none → s.canAsk core q = true → s.misses core q = true → q.ctx < 64 →
        nextWith (exec (.walkRequest core q) s) fun t =>
          let h := t.groupAt core 47
          (t.coreAt core).walk = some q ∧ h.mode = .walker ∧ h.st = .active ∧ h.spc = Config.walkerEntry ∧ h.sreg 1 = q.va
            ∧ h.sreg 2 = BitVec.ofNat 64 (q.kind.toNat + if q.user then 4 else 0)
            ∧ h.sreg 3 = (s.descFor core q.ctx).extractLsb' 64 64 ∧ h.sreg 4 = BitVec.ofNat 64 q.ctx ∧ h.ctx = q.ctx ∧ t.mem = s.mem
            ∧ ∀ j, j ≠ 48 * core + 47 → sget Group.init j t.groups = sget Group.init j s.groups)
    ∧ ((s.coreAt core).walk ≠ none → exec (.walkRequest core q) s = .next s)
    ∧ ((s.coreAt core).walk = none → (s.canAsk core q && s.misses core q) = false → nextWith (exec (.walkRequest core q) s) fun t =>
        t = s.setCore core { s.coreAt core with missed := (s.coreAt core).missed.filter fun y => y != q })
    ∧ ((∀ y ∈ s.priOut, y.2.who ≠ who) → exec (.pageRequestResponse who true) s = .next s ∧ exec (.pageRequestResponse who false) s = .next s)
    ∧ (who = .scalar core slot ∨ who = .lane core slot → g.pageReq = some q → q.who = who → (s.priOut.find? fun y => y.2.who == who) = some (pasid, q) →
        g.st = .parked → held = false →
        (∀ t, exec (.pageRequestResponse who true) s = .next t ∨ exec (.pageRequestResponse who false) s = .next t →
          (t.pagesOut pasid = s.pagesOut pasid ∨ (∀ y ∈ t.priQueue, y.1 ≠ pasid)))
        ∧ nextWith (exec (.pageRequestResponse who true) s) (fun t =>
          let h := t.groupAt core slot
          h.pageReq = none ∧ h.st = .pending ∧ h.mode = .user ∧ h.spc = g.epcs ∧ h.v = g.v ∧ t.mem = s.mem ∧ others t)
        ∧ nextWith (exec (.pageRequestResponse who false) s) fun t =>
          let h := t.groupAt core slot
          h.pageReq = none ∧ h.st = .pending ∧ h.cause = 0x10 ∧ bitsOf h.faultprog 12 4 = 8 ∧ h.spc = handlerOf (s.descOn core g.ctx)
            ∧ h.v = g.v ∧ h.s = g.s ∧ t.mem = s.mem ∧ others t)
    ∧ (s.atsQueue = [] → nextWith (exec (.atsInvalidateRequest pasid va) s) fun t =>
        t = { s with
          ats := s.ats.filter fun y => y != (pasid, va.toNat / 4096)
          atsQueue := if s.pasidBusy pasid then [(pasid, va)] else []
          out := if s.pasidBusy pasid then s.out else s.out ++ [.invalidated pasid va] })
    ∧ (s.fetch = (s1, .fault k l v) → (s.cur.stream = .scalar → nextWith (exec .fetchFault s) fun t =>
          t = s1.trapEntry false .fetchFault ⟨some (BitVec.ofNat 64 v), 0, faultProg k l 3 0 0⟩)
        ∧ (s.cur.stream = .lane → nextWith (exec .fetchFault s) fun t =>
            t = s1.trapEntry true .fetchFault ⟨some (BitVec.ofNat 64 v), s1.active 0, faultProg k l 3 0 0⟩)
        ∧ (s.cur.stream = .sdue → exec .fetchFault s = .next (s1.progFault k 0 v)))

/-- A stack’s acknowledgement marks its frames; with the last one the writes that the stacks queued are performed, and memory reads as before. Markers are counted, and with one from every incoming flow the cut drains; a frame is copied to its shadow unchanged; draining sends the frame’s header and bytes, encrypted where the context’s are, with the flow’s next number, and takes it out of SNAP; a failure drops the snapshot. A message with the number its flow expects and inside the flow’s ranges writes its bytes and no others; one that must wait stays with its flow, and in ordered mode those behind it; a number beyond the expected one asks for the gap again, and one that has come is ignored. A message outside the ranges freezes the flow, and a frozen flow refuses what comes; a message that waits is performed in its turn. Scrubbing writes back a correctable granule and poisons an uncorrectable one. A sag halves the die’s clock, which steps up by sixteenths after it. A reset clears the module’s DRAM and vaults and leaves the host’s and peers’ memory; with every image accepted it takes their digests and applies the accepted records, else the module stays in reset. Attestation lists the digests, and the sensors are sampled a millisecond after the last sample. What the cut, a reset, firmware, the sag detectors, gaps in a flow’s numbers and the sensors’ numbering and alarms come to where the manual is silent is the model’s choice (log entries 45, 46, 52, 53, 60, 92, 98 and 100), and so is that a waiting message of a frozen unordered flow is still performed (log entry 116). -/
def Obligations.CutFabricAndPower : Prop :=
  ∀ (s : State) (stack flow frame granule die ctx va : Nat) (fmt : Granule) (msg : FabricMsg) (cap : Capability)
    (images : List FwImage) (records : List CfgRecord) (nonce : List Byte),
    let x := s.eqx
    let same (t : State) : Prop := ∀ a, t.byteAt a = s.byteAt a
    let n := granuleSize fmt
    let a := frame * 65536 + granule * n
    let f := s.flowAt msg.flow
    let d := s.dieAt die
    (x.st = .hold → stack < 32 → s.cap.hbmStacks.getLsbD stack = true → stack ∉ x.acks →
      ((∃ j, j < 32 ∧ j ≠ stack ∧ s.cap.hbmStacks.getLsbD j = true ∧ j ∉ x.acks) → nextWith (exec (.stackSnapshotAck stack) s) fun t =>
        t.eqx.acks = x.acks ++ [stack] ∧ t.eqx.st = .hold ∧ (∀ y ∈ x.snap, ∃ z ∈ t.eqx.snap, z.1 = y.1)
          ∧ (∀ y ∈ s.snapFrames stack, ∃ z ∈ t.eqx.snap, z.1 = y.1) ∧ same t)
      ∧ ((∀ j, j < 32 → s.cap.hbmStacks.getLsbD j = true → j = stack ∨ j ∈ x.acks) → x.held = [] → eqxNflow x.req = 0 →
          nextWith (exec (.stackSnapshotAck stack) s) fun t => (t.eqx.st = .draining ∨ t.eqx.st = .done)
            ∧ (∀ q, t.byteAt q = s.byteAt q) ∧ ∀ w ∈ t.eqx.queued, ∀ c ∈ w.cells, t.noShadow c.1 1 = true))
    ∧ (flow ∈ s.cutFlows x.req → flow ∉ x.markers →
        let s1 := if (s.flowAt flow).setUp then s.setFlow flow (s.flowAt flow).took else s
        (x.st = .armed ∨ x.st = .hold → nextWith (exec (.cutMarkerReceived flow) s) fun t =>
          t = { s1 with eqx := { x with markers := x.markers ++ [flow] } })
        ∧ (x.st = .cut → (∀ g ∈ s.cutFlows x.req, s.incoming g = true → g = flow ∨ g ∈ x.markers) → x.snap ≠ [] →
            nextWith (exec (.cutMarkerReceived flow) s) fun t => t.eqx.st = .draining ∧ same t))
    ∧ ((x.st = .cut ∨ x.st = .draining) →
        ((∃ y ∈ x.snap, y.1 = frame) → (∀ y ∈ x.shadow, y.frame ≠ frame) → x.shadow.length < Config.shadowFrames →
          nextWith (exec (.shadowCopy frame) s) fun t => (t.cutImage frame).2.1 = (s.cutImage frame).2.1
            ∧ (∃ y ∈ t.eqx.shadow, y.frame = frame ∧ y.marks = s.marks.filter fun p => frameOf p.1 == frame) ∧ t.mem = s.mem ∧ t.eqx.snap = x.snap)
        ∧ (Config.shadowFrames ≤ x.shadow.length → exec (.shadowCopy frame) s = .next s)
        ∧ nextWith (exec .cutFailed s) fun t => t.eqx.st = .failed ∧ t.eqx.snap = [] ∧ t.eqx.shadow = [] ∧ t.eqx.queued = []
            ∧ t.events.getLast? = some (.cut (eqxId x.req) false) ∧ (s.marks = [] → t.events = s.events ++ [.cut (eqxId x.req) false]) ∧ same t)
    ∧ (x.st = .draining → (x.snap.find? fun p => p.1 == frame) = some (frame, ctx, va) → s.marks = [] → (s.encOn = false ∨ (s.descNow ctx).getLsbD 20 = false) →
        nextWith (exec (.drainFrame frame) s) fun t =>
          let image := (s.asContext ctx).cutImage frame
          let dflow := eqxDflow x.req
          t.out = s.out ++ [.frame dflow (s.flowAt dflow).seq (s.frameHeader frame ctx va image.2.1)
              (if (s.descNow ctx).getLsbD 20 then s.drainCipher image.2.1 else image.2.1) image.2.2]
            ∧ (t.flowAt dflow).seq = ((s.flowAt dflow).seq + 1) % 2 ^ 32
            ∧ (∀ y, y ∈ t.eqx.snap ↔ y ∈ x.snap ∧ y.1 ≠ frame) ∧ (∀ y ∈ t.eqx.shadow, y.frame ≠ frame) ∧ t.eqx.seq = x.seq + 1
            ∧ ((∀ y ∈ x.snap, y.1 = frame) → t.eqx.st = .done ∧ t.events = s.events ++ [.cut (eqxId x.req) true])
            ∧ ((∃ y ∈ x.snap, y.1 ≠ frame) → t.eqx.st = .draining) ∧ same t)
    ∧ (f.setUp = false → exec (.fabricMessageArrival msg) s = .next s)
    ∧ (f.setUp = true → msg ∉ f.waiting →
        (f.frozen = true → nextWith (exec (.fabricMessageArrival msg) s) fun t => t = { s with out := s.out ++ [.refusedMsg msg.flow] })
        ∧ (f.frozen = false → msg.seq ≠ f.expect →
            let beyond := (msg.seq + 2 ^ 32 - f.expect) % 2 ^ 32 < 2 ^ 31
            (beyond → f.ordered = true → msg.seq ∉ f.ahead → nextWith (exec (.fabricMessageArrival msg) s) fun t =>
              t = { s with out := s.out ++ [.again msg.flow f.expect] })
            ∧ (¬ beyond → exec (.fabricMessageArrival msg) s = .next s))
        ∧ (f.frozen = false → msg.seq = f.expect →
            (f.ordered = true → f.waiting ≠ [] → nextWith (exec (.fabricMessageArrival msg) s) fun t =>
              (t.flowAt msg.flow).waiting = f.waiting ++ [msg] ∧ (t.flowAt msg.flow).expect = f.took.expect ∧ same t)
            ∧ (f.ordered = false ∨ f.waiting = [] →
                (s.outOfRange msg = true → nextWith (exec (.fabricMessageArrival msg) s) fun t =>
                  (t.flowAt msg.flow).frozen = true ∧ t.out = s.out ++ [.refusedMsg msg.flow] ∧ t.mem = s.mem)
                ∧ (s.outOfRange msg = false → s.holdsBack msg = true → nextWith (exec (.fabricMessageArrival msg) s) fun t =>
                    t.eqx.held = x.held ++ [msg] ∧ (t.flowAt msg.flow).expect = f.took.expect ∧ same t)
                ∧ (s.outOfRange msg = false → s.holdsBack msg = false → s.messageWaits msg = true →
                    nextWith (exec (.fabricMessageArrival msg) s) fun t => (t.flowAt msg.flow).waiting = f.waiting ++ [msg] ∧ same t)
                ∧ (s.outOfRange msg = false → s.holdsBack msg = false → s.messageWaits msg = false →
                    nextWith (exec (.fabricMessageArrival msg) s) fun t =>
                      (∀ j, j < msg.bytes.length → t.byteAt (msg.addr + j) = msg.bytes.getD j 0)
                        ∧ ∀ q, (q < msg.addr ∨ msg.addr + msg.bytes.length ≤ q) → t.byteAt q = s.byteAt q))))
    ∧ (f.setUp = true → msg ∈ f.waiting → f.ordered = true → f.waiting.head? ≠ some msg → exec (.fabricMessageArrival msg) s = .next s)
    ∧ (f.setUp = true → (f.frozen = false ∨ f.ordered = false) → f.waiting.head? = some msg → s.outOfRange msg = false → s.holdsBack msg = false → s.messageWaits msg = false →
        nextWith (exec (.fabricMessageArrival msg) s) fun t => (t.flowAt msg.flow).waiting = f.waiting.tail
          ∧ (∀ j, j < msg.bytes.length → t.byteAt (msg.addr + j) = msg.bytes.getD j 0)
          ∧ ∀ q, (q < msg.addr ∨ msg.addr + msg.bytes.length ≤ q) → t.byteAt q = s.byteAt q)
    ∧ (lookupKey frame s.frames = some fmt → isDram a = true → stackOf a = stack → granule * n < 65536 → s.encOn = false → s.rowHeld a n 32 0 = false →
        (∀ u m, s.marksIn a n = [(u, m)] → m.kind = .correctable → nextWith (exec (.scrubPass stack frame granule) s) fun t => lookupKey u t.marks = none ∧ same t)
        ∧ (∀ u m, s.marksIn a n = [(u, m)] → m.kind = .uncorrectable → nextWith (exec (.scrubPass stack frame granule) s) fun t =>
            lookupKey u t.marks = some (.of .poisoned) ∧ same t)
        ∧ (s.marksIn a n = [] → exec (.scrubPass stack frame granule) s = .next s))
    ∧ (stack < 32 → (s.stackAt stack).bloomSince + s.filterPeriod ≤ s.time → nextWith (exec (.bloomFilterClear stack) s) fun t =>
        (t.stackAt stack).bloom = [] ∧ (t.stackAt stack).epoch = (s.stackAt stack).epoch + 1 ∧ (t.stackAt stack).log = (s.stackAt stack).log ∧ t.mem = s.mem)
    ∧ (die < 8 → nextWith (exec (.supplySagTrip die) s) fun t => t.dieAt die = { d with clock := 8, sag := true, clockSince := s.dieCycles die } ∧ t.mem = s.mem)
    ∧ (d.sag = true → nextWith (exec (.supplySagClear die) s) fun t => t.dieAt die = { d with sag := false, clockSince := s.dieCycles die } ∧ t.mem = s.mem)
    ∧ (d.sag = false → d.clock < 16 → d.clockSince + 1024 ≤ s.dieCycles die → nextWith (exec (.clockStepUp die) s) fun t =>
        t.dieAt die = { d with clock := d.clock + 1, clockSince := s.dieCycles die } ∧ t.mem = s.mem)
    ∧ (s.time < s.sampledAt + millisecond → exec .sensorSample s = .next s)
    ∧ (s.sampledAt + millisecond ≤ s.time → nextWith (exec .sensorSample s) fun t => (∀ i, i < sensors → t.reading i = s.measured i)
        ∧ t = { s with
            samples := t.samples
            sampledAt := s.time
            events := s.events ++ ((List.range sensors).filter fun i => Config.freeAlarm s.tick i).map fun i => .alarm i (s.measured i) })
    ∧ nextWith (exec (.moduleReset cap ⟨images, records⟩) s) (fun t => t.groups = [] ∧ t.cores = [] ∧ t.teams = [] ∧ t.ctxs = []
        ∧ t.ecmds = [] ∧ t.eqx.st = .idle ∧ (∀ q, t.byteAt q = if outlives q then sget 0 q s.mem else 0)
        ∧ (images.all s.fw.passes = false → t.inReset = true ∧ t.fw = s.fw ∧ t.events = [.firmware false])
        ∧ (images.all s.fw.passes = true → t.inReset = false ∧ t.fw.digests = images.map (fun i => shake256 i.bytes 32)
            ∧ s.fw.counter ≤ t.fw.counter ∧ (∀ i ∈ images, t.fw.counter ≤ i.version)
            ∧ (∀ r ∈ t.fw.records, r ∈ records ∧ s.fw.accepts r = true ∨ r ∈ s.fw.records)
            ∧ (∀ r ∈ records, s.fw.accepts r = true → r ∈ t.fw.records)
            ∧ t.events = (records.filter fun r => !s.fw.accepts r).map fun r => .configIgnored r.id))
    ∧ (images.all s.fw.passes = true → s.fw.inForce records = [] → nextWith (exec (.moduleReset cap ⟨images, records⟩) s) fun t =>
        t.cap.dies = cap.dies ∧ t.cap.cores = cap.cores ∧ t.encOn = false)
    ∧ nextWith (exec (.attestationRequest nonce) s) fun t =>
        t = { s with out := s.out ++ [.attestation s.fw.digests nonce (Config.attestation s.fw.digests nonce)] }

/-- Each command whose checks pass has its effect and RESULT 0: contexts, frames, regions, tables, pools, pre-emption, releases, flows, domains, the cut, parameters, migration and the readings of Tables 20-2 and 20-3. A command with a bad field has RESULT 2, one that the state refuses RESULT 1, and an unknown OP RESULT 3, each with an event that names its TAG and no other effect. A command that must wait, or that stands behind an earlier one of its context, is taken and does nothing yet. Sensor readings and the bytes of the physical map are free values (the model’s, log entries 60 and 61). Which RESULT a refusal has where Table 20-2 leaves room, when a descriptor’s fields act, what a set-up of a frozen flow comes to, and that operands without a layout are free, are the model’s choices (log entries 28, 48, 50, 51, 95 and 114), and so is that RELEASE_SLOT waits for what the group issued (log entry 115). -/
def Obligations.MailboxCommands : Prop :=
  ∀ (s : State) (h : MbHdr) (ctx frame count records die value core slot cmd flow dom sensor first : Nat) (desc : BitVec 1024) (fmt : Granule)
    (base snaps va : Word) (words : List W32) (task : Option Nat) (fdesc : BitVec 576) (members flows : List Nat) (req : BitVec 512)
    (cls : BitVec 4) (exp : Option Nat) (op : BitVec 8) (en : Bool) (entries : Nat),
    let c := s.ctxAt ctx
    let known : Prop := c.created = true
    let runOk : Prop := ∀ i, i < count → s.formattable (frame + i) = true
    let owned : Prop := ∀ i, i < count → s.owned ctx (frame + i) 1 = true
    let pooled (p q : List (Nat × Granule)) : Prop :=
      q = (p.filter fun y => !(frame ≤ y.1 && y.1 < frame + count)) ++ (List.range count).map fun i => (frame + i, fmt)
    let k := s.slotOf core slot
    let g := s.groupAt core k
    (ctx < 64 → ctxDescBad desc = false → badBuffer h 128 = false →
      (known → mbSets (.createContext h ctx desc) s fun t => t.ctxAt ctx = { c with desc := desc })
      ∧ (c.created = false → mbDoes (.createContext h ctx desc) s fun t => t.ctxAt ctx
          = { c with created := true, desc := desc, ranges := desc.extractLsb' 512 512, scope := [], key := some s.nextKey }
          ∧ t.nextKey = s.nextKey + 1 ∧ t.mem = s.mem ∧ t.groups = s.groups))
    ∧ ((64 ≤ ctx ∨ ctxDescBad desc = true ∨ badBuffer h 128 = true) → mbRefuses (.createContext h ctx desc) 2 s)
    ∧ ((∀ p ∈ s.groups, p.2.st = .free ∨ p.2.ctx ≠ ctx ∨ p.1 % 48 = 47) →
        (known → mbDoes (.releaseContext h ctx) s fun t => t.ctxAt ctx = Ctx.init ∧ (∀ p ∈ t.grids, p.2.ctx ≠ ctx)
          ∧ (∀ d, ∀ e ∈ (t.dieAt d).journal, e.ctx ≠ ctx) ∧ (∀ d, ∀ y ∈ (t.dieAt d).tlb, y.ctx ≠ ctx) ∧ t.mem = s.mem
          ∧ ∀ x y, y < 47 → t.groupAt x y = s.groupAt x y)
        ∧ (c.created = false → mbRefuses (.releaseContext h ctx) 1 s))
    ∧ ((∃ p ∈ s.groups, p.2.st ≠ .free ∧ p.2.ctx = ctx ∧ p.1 % 48 ≠ 47) → known → mbStays (.releaseContext h ctx) s)
    ∧ (s.throughPages ctx (c.inv ++ s.tlbPages ctx none) = false →
        (known → mbDoes (.invalidateTranslations h ctx) s fun t => (∀ d, ∀ y ∈ (t.dieAt d).tlb, y.ctx ≠ ctx)
          ∧ (∀ d, ∀ y ∈ (t.coreAt d).tlb, y.ctx ≠ ctx) ∧ t.ctxAt ctx = { c with ranges := c.desc.extractLsb' 512 512, inv := [] } ∧ t.mem = s.mem)
        ∧ (c.created = false → mbRefuses (.invalidateTranslations h ctx) 1 s))
    ∧ (s.throughPages ctx (c.inv ++ s.tlbPages ctx none) = true → known → ∃ y, mbCmd s (.invalidateTranslations h ctx) = some y ∧ (h.rz = 0 → y.ready s →
        nextWith (exec (.invalidateTranslations h ctx) s) fun t => (t.slot h).own = true
          ∧ (∀ d, ∀ y ∈ (t.dieAt d).tlb, y.ctx ≠ ctx) ∧ t.ctxAt ctx = { c with inv := c.inv ++ s.tlbPages ctx none } ∧ t.mem = s.mem ∧ t.events = s.events))
    ∧ (known → runOk → s.formatWaits frame count = false →
        mbDoes (.grantFrames h ctx frame count fmt) s (fun t => framesCleared s t frame count fmt ∧ t.groups = s.groups)
        ∧ (owned → mbDoes (.addPagePool h ctx frame count fmt) s (fun t => framesCleared s t frame count fmt ∧ pooled c.pool (t.ctxAt ctx).pool)
            ∧ mbDoes (.addSaveAreaPool h ctx frame count fmt) s fun t => framesCleared s t frame count fmt ∧ pooled c.savePool (t.ctxAt ctx).savePool))
    ∧ (known → runOk → s.formatWaits frame count = true → mbStays (.grantFrames h ctx frame count fmt) s)
    ∧ ((c.created = false ∨ ¬ runOk) → mbRefuses (.grantFrames h ctx frame count fmt) 1 s)
    ∧ (known → ¬ owned → mbRefuses (.addPagePool h ctx frame count fmt) 2 s ∧ mbRefuses (.addSaveAreaPool h ctx frame count fmt) 2 s)
    ∧ (known → records ≤ 2 ^ 20 → base.toNat % 64 = 0 → mbSets (.registerAlmanacRegion h ctx base records) s fun t =>
        t.ctxAt ctx = { c with almBase := base, almRecords := records })
    ∧ ((2 ^ 20 < records ∨ base.toNat % 64 ≠ 0) → mbRefuses (.registerAlmanacRegion h ctx base records) 2 s)
    ∧ mbSets (.placeBar2Window h value) s (fun t => t.bar2 = some value)
    ∧ (known → mbSets (.registerAuditArray h ctx base) s (fun t => t.ctxAt ctx = { c with audit := some base })
        ∧ mbSets (.registerBatchTable h ctx base entries snaps) s (fun t => t.ctxAt ctx = { c with batch := some (base, entries, snaps) })
        ∧ mbSets (.enableDistributorPreemption h ctx en) s (fun t => t.ctxAt ctx = { c with preemptOn := en })
        ∧ (s.namedGangs ctx task = [] → mbDoes (.preempt h ctx task) s fun t => t.groups = s.groups ∧ t.teams = s.teams)
        ∧ ∀ l, s.namedGangs ctx task = [l] →
            (s.gangRoom l = true → mbDoes (.preempt h ctx task) s fun t => t.mem = s.mem
              ∧ ∀ j, t.team? j = if j ∈ (s.gangTeams l).map Prod.fst then (s.team? j).map fun y => { y with saving := true } else s.team? j)
            ∧ (s.gangRoom l = false → mbEnds (.preempt h ctx task) s 0 0 none fun t => t.groups = s.groups ∧ t.teams = s.teams ∧ t.mem = s.mem))
    ∧ (c.created = false → mbRefuses (.registerAuditArray h ctx base) 1 s ∧ mbRefuses (.registerBatchTable h ctx base entries snaps) 1 s
        ∧ mbRefuses (.enableDistributorPreemption h ctx en) 1 s ∧ mbRefuses (.preempt h ctx task) 1 s)
    ∧ (known → 6 ≤ first → words.length % 8 = 0 → first + words.length / 8 ≤ 32 → (∀ w ∈ words, scopeWordBad w = false) → badBuffer h (4 * words.length) = false →
        mbSets (.writeScopeTable h ctx first words) s fun t => (∀ j, j < words.length → sget 0 (first * 8 + j) (t.ctxAt ctx).scope = words.getD j 0)
          ∧ ∀ j, (j < first * 8 ∨ first * 8 + words.length ≤ j) → sget 0 j (t.ctxAt ctx).scope = sget 0 j c.scope)
    ∧ (first < 6 → mbRefuses (.writeScopeTable h ctx first words) 2 s)
    ∧ (g.st = .halted ∨ g.st = .frozen → s.performedIn g.team (fun i => i == g.gidx) = true → mbDoes (.releaseSlot h core slot) s fun t => t.groupAt core k = Group.init ∧ t.mem = s.mem
          ∧ (∀ j, j ≠ 48 * core + k → sget Group.init j t.groups = sget Group.init j s.groups)
          ∧ ∀ tm, s.team? g.team = some tm → t.team? g.team = some { tm with gone := tm.gone ++ [(g.gidx, g.st)] })
    ∧ (g.st = .halted ∨ g.st = .frozen → s.performedIn g.team (fun i => i == g.gidx) = false → mbStays (.releaseSlot h core slot) s)
    ∧ (g.st ≠ .halted → g.st ≠ .frozen → mbRefuses (.releaseSlot h core slot) 1 s)
    ∧ ((∃ y ∈ s.ecmds, y.id = cmd ∧ y.frozen = true) → mbDoes (.releaseCommandLocks h cmd) s fun t =>
        (∀ y ∈ t.ecmds, y.id ≠ cmd) ∧ (∀ d, ∀ y ∈ (t.dieAt d).locks, y.cmd ≠ cmd) ∧ t.mem = s.mem ∧ t.groups = s.groups)
    ∧ (s.frozenCommand cmd = false → mbRefuses (.releaseCommandLocks h cmd) 1 s)
    ∧ ((s.flowAt flow).frozen = true → mbSets (.resetFlow h flow) s fun t => t.flowAt flow = Flow.init)
    ∧ ((s.flowAt flow).frozen = false → mbRefuses (.resetFlow h flow) 1 s)
    ∧ (bitsOf fdesc 54 10 = 0 → badBuffer h 72 = false → fdesc.extractLsb' 36 18 &&& s.cap.links ≠ 0 → (s.flowAt (bitsOf fdesc 0 12)).frozen = false → mbSets (.setUpFlow h fdesc) s fun t =>
        t.flowAt (bitsOf fdesc 0 12) = ⟨fdesc, true, false, 0, 0, [], [], []⟩)
    ∧ (bitsOf fdesc 54 10 = 0 → badBuffer h 72 = false → fdesc.extractLsb' 36 18 &&& s.cap.links = 0 → mbRefuses (.setUpFlow h fdesc) 1 s)
    ∧ (dom < 2 ^ 16 → (∀ f ∈ flows, f < 4096) → h.len.toNat ≤ 1024 → h.rest = 0 → mbSets (.setUpDomain h dom members flows) s fun t =>
        lookupKey dom t.domains = some ⟨members, flows, 0⟩)
    ∧ (eqxBad req = false → badBuffer h 64 = false → (lookupKey (eqxDomain req) s.domains).isSome = true →
        (s.armRefused req = false → mbSets (.equinoxArm h req) s fun t => t.eqx = { Equinox.init with st := .armed, req := req })
        ∧ (s.armRefused req = true → mbRefuses (.equinoxArm h req) 1 s))
    ∧ (s.eqx.st = .armed → s.eqx.held = [] → mbDoes (.equinoxDisarm h) s fun t => t.eqx = Equinox.init ∧ t.mem = s.mem)
    ∧ (s.eqx.st ≠ .armed → mbRefuses (.equinoxDisarm h) 1 s)
    ∧ (s.eqx.st = .done ∨ s.eqx.st = .failed → mbSets (.equinoxAcknowledge h) s fun t => t.eqx = Equinox.init)
    ∧ (die < 8 → (∃ n, 10 ≤ n ∧ n ≤ 24 ∧ value = 2 ^ n) → mbSets (.setAge h die value) s fun t => t.dieAt die = { s.dieAt die with age := value })
    ∧ ((∀ n, 10 ≤ n → n ≤ 24 → value ≠ 2 ^ n) → mbRefuses (.setAge h die value) 2 s)
    ∧ (1 ≤ value → value ≤ 168 → mbSets (.setScrubPeriod h value) s fun t => t.scrubPeriod = value)
    ∧ ((value = 0 ∨ 168 < value) → mbRefuses (.setScrubPeriod h value) 2 s)
    ∧ mbSets (.setFilterSchedule h value) s (fun t => t.filterPeriod = value)
    ∧ mbSets (.setRepeatThreshold h value) s (fun t => t.repeatAt = value)
    ∧ ((∀ n, exp = some n → n ≤ 20) → mbSets (.setVigilExponent h cls exp) s fun t =>
        sget (⟨none, 0, 0⟩ : VigilClass) cls.toNat t.vigil = { sget (⟨none, 0, 0⟩ : VigilClass) cls.toNat s.vigil with exp := exp })
    ∧ (s.migrate ctx va fmt = .later → mbStays (.migratePage h ctx va fmt) s)
    ∧ (∀ t1, s.migrate ctx va fmt = .done t1 → mbEnds (.migratePage h ctx va fmt) s 0 0 none fun t => t = { t1 with
        mailbox := t.mailbox
        inbox := t.inbox })
    ∧ (∀ t1 r, s.migrate ctx va fmt = .refused t1 r → r = 1 ∨ r = 2 → mbEnds (.migratePage h ctx va fmt) s r 0 none fun t => t = { t1 with
        mailbox := t.mailbox
        inbox := t.inbox
        events := t1.events ++ [.refused h.tag 13] })
    ∧ (s.entryOf ctx va.toNat = none → mbEnds (.migratePage h ctx va fmt) s 1 0 none fun t => t.mem = s.mem ∧ t.groups = s.groups
        ∧ ∃ l, t.events = s.events ++ l ++ [.migration ctx va, .refused h.tag 13])
    ∧ (∀ e ea dst, s.entryOf ctx va.toNat = some (0, e, ea) → pteV e = true → pteLeaf e = true → pteLoc e = 0 → pteSz e = 0 →
        s.malformed ctx (s.descNow ctx) e 0 = false → s.owned ctx (pteFrame e) 1 = true → e.getLsbD 10 = false → s.marks = [] → s.cipher = [] → s.eqx.queued = [] → s.eqx.st ≠ .hold → s.noShadow ea 8 = false → s.noShadow (dst * 65536) 65536 = false →
        s.rowHeld (pteFrame e * 65536) 65536 32 0 = false → s.throughPages ctx [(frameOf va.toNat, 1)] = false →
        s.poolRun ctx 1 fmt = some dst → frameOf ea ≠ dst → frameOf (ea + 7) ≠ dst → mbDoes (.migratePage h ctx va fmt) s fun t =>
          bitsOf (t.read64 ea) 16 36 = dst % 2 ^ 36 ∧ bitsOf (t.read64 ea) 8 2 = granuleCode fmt
          ∧ (∀ y ∈ (t.ctxAt ctx).pool, y.1 ≠ dst) ∧ (∀ d, ∀ y ∈ (t.dieAt d).tlb, y.hits ctx va.toNat = false))
    ∧ mbEnds (.readCapabilityBlock h) s 0 0 (some (capabilityBlock s.cap)) (fun t => t = { s with
        mailbox := t.mailbox
        inbox := t.inbox })
    ∧ mbEnds (.readPhysicalMap h) s 0 (Config.freeChoice s.tick 9) (some ((List.range 1024).map fun i => Config.freeByte s.tick i)) (fun t => t = { s with
        mailbox := t.mailbox
        inbox := t.inbox })
    ∧ mbEnds (.readSensor h sensor) s 0 (s.reading sensor) none (fun t => t = { s with
        mailbox := t.mailbox
        inbox := t.inbox })
    ∧ (14 < op.toNat ∨ op.toNat = 0 → mbRefuses (.unknownMailboxOp h op) 3 s)
    ∧ (∀ i y, mbCmd s i = some y → 1 ≤ y.op → y.op ≤ 14 → (∀ h o, i ≠ .unknownMailboxOp h o) →
        (y.hdr.rz ≠ 0 → mbRefuses i 2 s)
        ∧ (y.placed s → s.mbBehind (y.hdr.slot % 16) y.ctx = true → nextWith (exec i s) fun t => t = s.mbTake y.hdr y.op y.ctx y.ops))

/-- Whatever the machine executes or whatever happens to it: if memory is in canonical form (addresses strictly rising, no byte listed that equals what an unlisted address reads as) and a step answers a next state, memory is in canonical form again. So equal memories stay equal data, and every byte of the address space keeps exactly one value. The list form of memory and its default byte are the model’s (log entry 2). -/
def Obligations.MemoryStaysCanonical : Prop :=
  ∀ s t : State, s.MemoryOk → step s = .next t → t.MemoryOk
end

