-- ==== Sys2Proof/Laws/Encoding.lean ====
section
/-! SUPPORT. The fields of an encoded word are the fields that were put into it, format by format; what a word decodes to, from
its fields. -/

namespace Sys2Proof.Laws

/-! ### Codes and parts of a field -/

theorem etype_ofCode_code (t : EType) : EType.ofCode t.code = t := by cases t <;> rfl
theorem atomOp_ofCode_code (o : AtomOp) : AtomOp.ofCode o.code = o := by cases o <;> rfl
theorem size_ofCode_code (z : Size) : Size.ofCode z.code = z := by cases z <;> rfl
theorem path_ofCode_code (p : Path) : Path.ofCode p.code = some p := by cases p <;> rfl

/-- A part of a field is the part of the word at the sum of the positions. -/
theorem extract_part {n : Nat} (w : BitVec n) (lo k lo2 k2 : Nat) (h : lo2 + k2 ≤ k) :
    w.extractLsb' (lo + lo2) k2 = (w.extractLsb' lo k).extractLsb' lo2 k2 := by
  apply BitVec.eq_of_getLsbD_eq
  intro i hi
  have hk : lo2 + i < k := by omega
  simp [hi, hk, Nat.add_assoc]

/-- One bit of a field. -/
theorem bit_part {n : Nat} (w : BitVec n) (lo k i : Nat) (h : i < k) : w.getLsbD (lo + i) = (w.extractLsb' lo k).getLsbD i := by
  simp [h]

/-! ### Scalar formats -/

theorem sr_op (op : BitVec 6) (d : BitVec 6) (a : BitVec 6) (b : BitVec 6) (fn : BitVec 8) :
    BitVec.extractLsb' (n := 32) 26 6 (op ++ d ++ a ++ b ++ fn) = op := by
  iterate 4 rw [BitVec.extractLsb'_append_eq_of_le (by decide)]
  rw [BitVec.extractLsb'_eq_self]
theorem sr_d (op : BitVec 6) (d : BitVec 6) (a : BitVec 6) (b : BitVec 6) (fn : BitVec 8) :
    BitVec.extractLsb' (n := 32) 20 6 (op ++ d ++ a ++ b ++ fn) = d := by
  iterate 3 rw [BitVec.extractLsb'_append_eq_of_le (by decide)]
  rw [BitVec.extractLsb'_append_eq_right]
theorem sr_a (op : BitVec 6) (d : BitVec 6) (a : BitVec 6) (b : BitVec 6) (fn : BitVec 8) :
    BitVec.extractLsb' (n := 32) 14 6 (op ++ d ++ a ++ b ++ fn) = a := by
  iterate 2 rw [BitVec.extractLsb'_append_eq_of_le (by decide)]
  rw [BitVec.extractLsb'_append_eq_right]
theorem sr_b (op : BitVec 6) (d : BitVec 6) (a : BitVec 6) (b : BitVec 6) (fn : BitVec 8) :
    BitVec.extractLsb' (n := 32) 8 6 (op ++ d ++ a ++ b ++ fn) = b := by
  rw [BitVec.extractLsb'_append_eq_of_le (by decide), BitVec.extractLsb'_append_eq_right]
theorem sr_fn (op : BitVec 6) (d : BitVec 6) (a : BitVec 6) (b : BitVec 6) (fn : BitVec 8) :
    BitVec.extractLsb' (n := 32) 0 8 (op ++ d ++ a ++ b ++ fn) = fn := BitVec.extractLsb'_append_eq_right

theorem si_op (op : BitVec 6) (d : BitVec 6) (a : BitVec 6) (sub : BitVec 2) (imm : BitVec 12) :
    BitVec.extractLsb' (n := 32) 26 6 (op ++ d ++ a ++ sub ++ imm) = op := by
  iterate 4 rw [BitVec.extractLsb'_append_eq_of_le (by decide)]
  rw [BitVec.extractLsb'_eq_self]
theorem si_d (op : BitVec 6) (d : BitVec 6) (a : BitVec 6) (sub : BitVec 2) (imm : BitVec 12) :
    BitVec.extractLsb' (n := 32) 20 6 (op ++ d ++ a ++ sub ++ imm) = d := by
  iterate 3 rw [BitVec.extractLsb'_append_eq_of_le (by decide)]
  rw [BitVec.extractLsb'_append_eq_right]
theorem si_a (op : BitVec 6) (d : BitVec 6) (a : BitVec 6) (sub : BitVec 2) (imm : BitVec 12) :
    BitVec.extractLsb' (n := 32) 14 6 (op ++ d ++ a ++ sub ++ imm) = a := by
  iterate 2 rw [BitVec.extractLsb'_append_eq_of_le (by decide)]
  rw [BitVec.extractLsb'_append_eq_right]
theorem si_sub (op : BitVec 6) (d : BitVec 6) (a : BitVec 6) (sub : BitVec 2) (imm : BitVec 12) :
    BitVec.extractLsb' (n := 32) 12 2 (op ++ d ++ a ++ sub ++ imm) = sub := by
  rw [BitVec.extractLsb'_append_eq_of_le (by decide), BitVec.extractLsb'_append_eq_right]
theorem si_imm (op : BitVec 6) (d : BitVec 6) (a : BitVec 6) (sub : BitVec 2) (imm : BitVec 12) :
    BitVec.extractLsb' (n := 32) 0 12 (op ++ d ++ a ++ sub ++ imm) = imm := BitVec.extractLsb'_append_eq_right

theorem su_op (op : BitVec 6) (d : BitVec 6) (imm : BitVec 20) :
    BitVec.extractLsb' (n := 32) 26 6 (op ++ d ++ imm) = op := by
  iterate 2 rw [BitVec.extractLsb'_append_eq_of_le (by decide)]
  rw [BitVec.extractLsb'_eq_self]
theorem su_d (op : BitVec 6) (d : BitVec 6) (imm : BitVec 20) :
    BitVec.extractLsb' (n := 32) 20 6 (op ++ d ++ imm) = d := by
  rw [BitVec.extractLsb'_append_eq_of_le (by decide), BitVec.extractLsb'_append_eq_right]
theorem su_imm (op : BitVec 6) (d : BitVec 6) (imm : BitVec 20) :
    BitVec.extractLsb' (n := 32) 0 20 (op ++ d ++ imm) = imm := BitVec.extractLsb'_append_eq_right

theorem sb_op (op : BitVec 6) (a : BitVec 6) (b : BitVec 6) (cond : BitVec 3) (off : BitVec 11) :
    BitVec.extractLsb' (n := 32) 26 6 (op ++ a ++ b ++ cond ++ off) = op := by
  iterate 4 rw [BitVec.extractLsb'_append_eq_of_le (by decide)]
  rw [BitVec.extractLsb'_eq_self]
theorem sb_a (op : BitVec 6) (a : BitVec 6) (b : BitVec 6) (cond : BitVec 3) (off : BitVec 11) :
    BitVec.extractLsb' (n := 32) 20 6 (op ++ a ++ b ++ cond ++ off) = a := by
  iterate 3 rw [BitVec.extractLsb'_append_eq_of_le (by decide)]
  rw [BitVec.extractLsb'_append_eq_right]
theorem sb_b (op : BitVec 6) (a : BitVec 6) (b : BitVec 6) (cond : BitVec 3) (off : BitVec 11) :
    BitVec.extractLsb' (n := 32) 14 6 (op ++ a ++ b ++ cond ++ off) = b := by
  iterate 2 rw [BitVec.extractLsb'_append_eq_of_le (by decide)]
  rw [BitVec.extractLsb'_append_eq_right]
theorem sb_cond (op : BitVec 6) (a : BitVec 6) (b : BitVec 6) (cond : BitVec 3) (off : BitVec 11) :
    BitVec.extractLsb' (n := 32) 11 3 (op ++ a ++ b ++ cond ++ off) = cond := by
  rw [BitVec.extractLsb'_append_eq_of_le (by decide), BitVec.extractLsb'_append_eq_right]
theorem sb_off (op : BitVec 6) (a : BitVec 6) (b : BitVec 6) (cond : BitVec 3) (off : BitVec 11) :
    BitVec.extractLsb' (n := 32) 0 11 (op ++ a ++ b ++ cond ++ off) = off := BitVec.extractLsb'_append_eq_right

theorem sj_op (op : BitVec 6) (off : BitVec 26) :
    BitVec.extractLsb' (n := 32) 26 6 (op ++ off) = op := BitVec.extractLsb'_append_eq_left
theorem sj_off (op : BitVec 6) (off : BitVec 26) :
    BitVec.extractLsb' (n := 32) 0 26 (op ++ off) = off := BitVec.extractLsb'_append_eq_right

/-- A scalar word of format SR decodes as its fields say. -/
theorem sr_case {op d a b : BitVec 6} {fn : BitVec 8} {r : Decoded}
    (h : ∀ w : BitVec 32, w.extractLsb' 26 6 = op → w.extractLsb' 20 6 = d → w.extractLsb' 14 6 = a → w.extractLsb' 8 6 = b →
      w.extractLsb' 0 8 = fn → decodeScalar w = r) : decodeEncoded (srWord op d a b fn) = some r :=
  congrArg some (h _ (sr_op ..) (sr_d ..) (sr_a ..) (sr_b ..) (sr_fn ..))

/-- Format SI. -/
theorem si_case {op d a : BitVec 6} {sub : BitVec 2} {imm : BitVec 12} {r : Decoded}
    (h : ∀ w : BitVec 32, w.extractLsb' 26 6 = op → w.extractLsb' 20 6 = d → w.extractLsb' 14 6 = a → w.extractLsb' 12 2 = sub →
      w.extractLsb' 0 12 = imm → decodeScalar w = r) : decodeEncoded (siWord op d a sub imm) = some r :=
  congrArg some (h _ (si_op ..) (si_d ..) (si_a ..) (si_sub ..) (si_imm ..))

/-- Formats SU and SL. -/
theorem su_case {op d : BitVec 6} {imm : BitVec 20} {r : Decoded}
    (h : ∀ w : BitVec 32, w.extractLsb' 26 6 = op → w.extractLsb' 20 6 = d → w.extractLsb' 0 20 = imm → decodeScalar w = r) :
    decodeEncoded (suWord op d imm) = some r :=
  congrArg some (h _ (su_op ..) (su_d ..) (su_imm ..))

/-- Format SB. -/
theorem sb_case {a b : BitVec 6} {cond : BitVec 3} {off : BitVec 11} {r : Decoded}
    (h : ∀ w : BitVec 32, w.extractLsb' 26 6 = 0x1A → w.extractLsb' 20 6 = a → w.extractLsb' 14 6 = b → w.extractLsb' 11 3 = cond →
      w.extractLsb' 0 11 = off → decodeScalar w = r) : decodeEncoded (sbWord a b cond off) = some r :=
  congrArg some (h _ (sb_op ..) (sb_a ..) (sb_b ..) (sb_cond ..) (sb_off ..))

/-- Format SJ. -/
theorem sj_case {op : BitVec 6} {off : BitVec 26} {r : Decoded}
    (h : ∀ w : BitVec 32, w.extractLsb' 26 6 = op → w.extractLsb' 0 26 = off → decodeScalar w = r) :
    decodeEncoded (.scalar (op ++ off)) = some r :=
  congrArg some (h _ (sj_op ..) (sj_off ..))

/-! ### Lane formats -/

theorem l3_op (op : BitVec 10) (vd : BitVec 10) (va : BitVec 10) (vb : BitVec 10) (vc : BitVec 10) (mods : BitVec 6) (clamp : BitVec 2) (dscale : BitVec 4) (look : BitVec 4) (cmask : BitVec 4) (mreg : BitVec 4) (ty : BitVec 4) (route : BitVec 6) (aux : BitVec 12) :
    BitVec.extractLsb' (n := 96) 86 10 (op ++ vd ++ va ++ vb ++ vc ++ mods ++ clamp ++ dscale ++ look ++ cmask ++ mreg ++ ty ++ route ++ aux) = op := by
  iterate 13 rw [BitVec.extractLsb'_append_eq_of_le (by decide)]
  rw [BitVec.extractLsb'_eq_self]
theorem l3_vd (op : BitVec 10) (vd : BitVec 10) (va : BitVec 10) (vb : BitVec 10) (vc : BitVec 10) (mods : BitVec 6) (clamp : BitVec 2) (dscale : BitVec 4) (look : BitVec 4) (cmask : BitVec 4) (mreg : BitVec 4) (ty : BitVec 4) (route : BitVec 6) (aux : BitVec 12) :
    BitVec.extractLsb' (n := 96) 76 10 (op ++ vd ++ va ++ vb ++ vc ++ mods ++ clamp ++ dscale ++ look ++ cmask ++ mreg ++ ty ++ route ++ aux) = vd := by
  iterate 12 rw [BitVec.extractLsb'_append_eq_of_le (by decide)]
  rw [BitVec.extractLsb'_append_eq_right]
theorem l3_va (op : BitVec 10) (vd : BitVec 10) (va : BitVec 10) (vb : BitVec 10) (vc : BitVec 10) (mods : BitVec 6) (clamp : BitVec 2) (dscale : BitVec 4) (look : BitVec 4) (cmask : BitVec 4) (mreg : BitVec 4) (ty : BitVec 4) (route : BitVec 6) (aux : BitVec 12) :
    BitVec.extractLsb' (n := 96) 66 10 (op ++ vd ++ va ++ vb ++ vc ++ mods ++ clamp ++ dscale ++ look ++ cmask ++ mreg ++ ty ++ route ++ aux) = va := by
  iterate 11 rw [BitVec.extractLsb'_append_eq_of_le (by decide)]
  rw [BitVec.extractLsb'_append_eq_right]
theorem l3_vb (op : BitVec 10) (vd : BitVec 10) (va : BitVec 10) (vb : BitVec 10) (vc : BitVec 10) (mods : BitVec 6) (clamp : BitVec 2) (dscale : BitVec 4) (look : BitVec 4) (cmask : BitVec 4) (mreg : BitVec 4) (ty : BitVec 4) (route : BitVec 6) (aux : BitVec 12) :
    BitVec.extractLsb' (n := 96) 56 10 (op ++ vd ++ va ++ vb ++ vc ++ mods ++ clamp ++ dscale ++ look ++ cmask ++ mreg ++ ty ++ route ++ aux) = vb := by
  iterate 10 rw [BitVec.extractLsb'_append_eq_of_le (by decide)]
  rw [BitVec.extractLsb'_append_eq_right]
theorem l3_vc (op : BitVec 10) (vd : BitVec 10) (va : BitVec 10) (vb : BitVec 10) (vc : BitVec 10) (mods : BitVec 6) (clamp : BitVec 2) (dscale : BitVec 4) (look : BitVec 4) (cmask : BitVec 4) (mreg : BitVec 4) (ty : BitVec 4) (route : BitVec 6) (aux : BitVec 12) :
    BitVec.extractLsb' (n := 96) 46 10 (op ++ vd ++ va ++ vb ++ vc ++ mods ++ clamp ++ dscale ++ look ++ cmask ++ mreg ++ ty ++ route ++ aux) = vc := by
  iterate 9 rw [BitVec.extractLsb'_append_eq_of_le (by decide)]
  rw [BitVec.extractLsb'_append_eq_right]
theorem l3_mods (op : BitVec 10) (vd : BitVec 10) (va : BitVec 10) (vb : BitVec 10) (vc : BitVec 10) (mods : BitVec 6) (clamp : BitVec 2) (dscale : BitVec 4) (look : BitVec 4) (cmask : BitVec 4) (mreg : BitVec 4) (ty : BitVec 4) (route : BitVec 6) (aux : BitVec 12) :
    BitVec.extractLsb' (n := 96) 40 6 (op ++ vd ++ va ++ vb ++ vc ++ mods ++ clamp ++ dscale ++ look ++ cmask ++ mreg ++ ty ++ route ++ aux) = mods := by
  iterate 8 rw [BitVec.extractLsb'_append_eq_of_le (by decide)]
  rw [BitVec.extractLsb'_append_eq_right]
theorem l3_clamp (op : BitVec 10) (vd : BitVec 10) (va : BitVec 10) (vb : BitVec 10) (vc : BitVec 10) (mods : BitVec 6) (clamp : BitVec 2) (dscale : BitVec 4) (look : BitVec 4) (cmask : BitVec 4) (mreg : BitVec 4) (ty : BitVec 4) (route : BitVec 6) (aux : BitVec 12) :
    BitVec.extractLsb' (n := 96) 38 2 (op ++ vd ++ va ++ vb ++ vc ++ mods ++ clamp ++ dscale ++ look ++ cmask ++ mreg ++ ty ++ route ++ aux) = clamp := by
  iterate 7 rw [BitVec.extractLsb'_append_eq_of_le (by decide)]
  rw [BitVec.extractLsb'_append_eq_right]
theorem l3_dscale (op : BitVec 10) (vd : BitVec 10) (va : BitVec 10) (vb : BitVec 10) (vc : BitVec 10) (mods : BitVec 6) (clamp : BitVec 2) (dscale : BitVec 4) (look : BitVec 4) (cmask : BitVec 4) (mreg : BitVec 4) (ty : BitVec 4) (route : BitVec 6) (aux : BitVec 12) :
    BitVec.extractLsb' (n := 96) 34 4 (op ++ vd ++ va ++ vb ++ vc ++ mods ++ clamp ++ dscale ++ look ++ cmask ++ mreg ++ ty ++ route ++ aux) = dscale := by
  iterate 6 rw [BitVec.extractLsb'_append_eq_of_le (by decide)]
  rw [BitVec.extractLsb'_append_eq_right]
theorem l3_look (op : BitVec 10) (vd : BitVec 10) (va : BitVec 10) (vb : BitVec 10) (vc : BitVec 10) (mods : BitVec 6) (clamp : BitVec 2) (dscale : BitVec 4) (look : BitVec 4) (cmask : BitVec 4) (mreg : BitVec 4) (ty : BitVec 4) (route : BitVec 6) (aux : BitVec 12) :
    BitVec.extractLsb' (n := 96) 30 4 (op ++ vd ++ va ++ vb ++ vc ++ mods ++ clamp ++ dscale ++ look ++ cmask ++ mreg ++ ty ++ route ++ aux) = look := by
  iterate 5 rw [BitVec.extractLsb'_append_eq_of_le (by decide)]
  rw [BitVec.extractLsb'_append_eq_right]
theorem l3_cmask (op : BitVec 10) (vd : BitVec 10) (va : BitVec 10) (vb : BitVec 10) (vc : BitVec 10) (mods : BitVec 6) (clamp : BitVec 2) (dscale : BitVec 4) (look : BitVec 4) (cmask : BitVec 4) (mreg : BitVec 4) (ty : BitVec 4) (route : BitVec 6) (aux : BitVec 12) :
    BitVec.extractLsb' (n := 96) 26 4 (op ++ vd ++ va ++ vb ++ vc ++ mods ++ clamp ++ dscale ++ look ++ cmask ++ mreg ++ ty ++ route ++ aux) = cmask := by
  iterate 4 rw [BitVec.extractLsb'_append_eq_of_le (by decide)]
  rw [BitVec.extractLsb'_append_eq_right]
theorem l3_mreg (op : BitVec 10) (vd : BitVec 10) (va : BitVec 10) (vb : BitVec 10) (vc : BitVec 10) (mods : BitVec 6) (clamp : BitVec 2) (dscale : BitVec 4) (look : BitVec 4) (cmask : BitVec 4) (mreg : BitVec 4) (ty : BitVec 4) (route : BitVec 6) (aux : BitVec 12) :
    BitVec.extractLsb' (n := 96) 22 4 (op ++ vd ++ va ++ vb ++ vc ++ mods ++ clamp ++ dscale ++ look ++ cmask ++ mreg ++ ty ++ route ++ aux) = mreg := by
  iterate 3 rw [BitVec.extractLsb'_append_eq_of_le (by decide)]
  rw [BitVec.extractLsb'_append_eq_right]
theorem l3_ty (op : BitVec 10) (vd : BitVec 10) (va : BitVec 10) (vb : BitVec 10) (vc : BitVec 10) (mods : BitVec 6) (clamp : BitVec 2) (dscale : BitVec 4) (look : BitVec 4) (cmask : BitVec 4) (mreg : BitVec 4) (ty : BitVec 4) (route : BitVec 6) (aux : BitVec 12) :
    BitVec.extractLsb' (n := 96) 18 4 (op ++ vd ++ va ++ vb ++ vc ++ mods ++ clamp ++ dscale ++ look ++ cmask ++ mreg ++ ty ++ route ++ aux) = ty := by
  iterate 2 rw [BitVec.extractLsb'_append_eq_of_le (by decide)]
  rw [BitVec.extractLsb'_append_eq_right]
theorem l3_route (op : BitVec 10) (vd : BitVec 10) (va : BitVec 10) (vb : BitVec 10) (vc : BitVec 10) (mods : BitVec 6) (clamp : BitVec 2) (dscale : BitVec 4) (look : BitVec 4) (cmask : BitVec 4) (mreg : BitVec 4) (ty : BitVec 4) (route : BitVec 6) (aux : BitVec 12) :
    BitVec.extractLsb' (n := 96) 12 6 (op ++ vd ++ va ++ vb ++ vc ++ mods ++ clamp ++ dscale ++ look ++ cmask ++ mreg ++ ty ++ route ++ aux) = route := by
  rw [BitVec.extractLsb'_append_eq_of_le (by decide), BitVec.extractLsb'_append_eq_right]
theorem l3_aux (op : BitVec 10) (vd : BitVec 10) (va : BitVec 10) (vb : BitVec 10) (vc : BitVec 10) (mods : BitVec 6) (clamp : BitVec 2) (dscale : BitVec 4) (look : BitVec 4) (cmask : BitVec 4) (mreg : BitVec 4) (ty : BitVec 4) (route : BitVec 6) (aux : BitVec 12) :
    BitVec.extractLsb' (n := 96) 0 12 (op ++ vd ++ va ++ vb ++ vc ++ mods ++ clamp ++ dscale ++ look ++ cmask ++ mreg ++ ty ++ route ++ aux) = aux := BitVec.extractLsb'_append_eq_right

theorem lm_op (op : BitVec 10) (vd : BitVec 10) (kb : BitVec 4) (vo : BitVec 10) (scl : BitVec 2) (imm : BitVec 14) (scope : BitVec 5) (path : BitVec 3) (look : BitVec 4) (cmask : BitVec 4) (mreg : BitVec 4) (ty : BitVec 4) (aux : BitVec 12) :
    BitVec.extractLsb' (n := 96) 86 10 (op ++ vd ++ kb ++ vo ++ scl ++ imm ++ scope ++ (0 : BitVec 1) ++ path ++ (0 : BitVec 3) ++ look ++ cmask ++ mreg ++ ty ++ (0 : BitVec 6) ++ aux) = op := by
  iterate 15 rw [BitVec.extractLsb'_append_eq_of_le (by decide)]
  rw [BitVec.extractLsb'_eq_self]
theorem lm_vd (op : BitVec 10) (vd : BitVec 10) (kb : BitVec 4) (vo : BitVec 10) (scl : BitVec 2) (imm : BitVec 14) (scope : BitVec 5) (path : BitVec 3) (look : BitVec 4) (cmask : BitVec 4) (mreg : BitVec 4) (ty : BitVec 4) (aux : BitVec 12) :
    BitVec.extractLsb' (n := 96) 76 10 (op ++ vd ++ kb ++ vo ++ scl ++ imm ++ scope ++ (0 : BitVec 1) ++ path ++ (0 : BitVec 3) ++ look ++ cmask ++ mreg ++ ty ++ (0 : BitVec 6) ++ aux) = vd := by
  iterate 14 rw [BitVec.extractLsb'_append_eq_of_le (by decide)]
  rw [BitVec.extractLsb'_append_eq_right]
theorem lm_kb (op : BitVec 10) (vd : BitVec 10) (kb : BitVec 4) (vo : BitVec 10) (scl : BitVec 2) (imm : BitVec 14) (scope : BitVec 5) (path : BitVec 3) (look : BitVec 4) (cmask : BitVec 4) (mreg : BitVec 4) (ty : BitVec 4) (aux : BitVec 12) :
    BitVec.extractLsb' (n := 96) 72 4 (op ++ vd ++ kb ++ vo ++ scl ++ imm ++ scope ++ (0 : BitVec 1) ++ path ++ (0 : BitVec 3) ++ look ++ cmask ++ mreg ++ ty ++ (0 : BitVec 6) ++ aux) = kb := by
  iterate 13 rw [BitVec.extractLsb'_append_eq_of_le (by decide)]
  rw [BitVec.extractLsb'_append_eq_right]
theorem lm_vo (op : BitVec 10) (vd : BitVec 10) (kb : BitVec 4) (vo : BitVec 10) (scl : BitVec 2) (imm : BitVec 14) (scope : BitVec 5) (path : BitVec 3) (look : BitVec 4) (cmask : BitVec 4) (mreg : BitVec 4) (ty : BitVec 4) (aux : BitVec 12) :
    BitVec.extractLsb' (n := 96) 62 10 (op ++ vd ++ kb ++ vo ++ scl ++ imm ++ scope ++ (0 : BitVec 1) ++ path ++ (0 : BitVec 3) ++ look ++ cmask ++ mreg ++ ty ++ (0 : BitVec 6) ++ aux) = vo := by
  iterate 12 rw [BitVec.extractLsb'_append_eq_of_le (by decide)]
  rw [BitVec.extractLsb'_append_eq_right]
theorem lm_scl (op : BitVec 10) (vd : BitVec 10) (kb : BitVec 4) (vo : BitVec 10) (scl : BitVec 2) (imm : BitVec 14) (scope : BitVec 5) (path : BitVec 3) (look : BitVec 4) (cmask : BitVec 4) (mreg : BitVec 4) (ty : BitVec 4) (aux : BitVec 12) :
    BitVec.extractLsb' (n := 96) 60 2 (op ++ vd ++ kb ++ vo ++ scl ++ imm ++ scope ++ (0 : BitVec 1) ++ path ++ (0 : BitVec 3) ++ look ++ cmask ++ mreg ++ ty ++ (0 : BitVec 6) ++ aux) = scl := by
  iterate 11 rw [BitVec.extractLsb'_append_eq_of_le (by decide)]
  rw [BitVec.extractLsb'_append_eq_right]
theorem lm_imm (op : BitVec 10) (vd : BitVec 10) (kb : BitVec 4) (vo : BitVec 10) (scl : BitVec 2) (imm : BitVec 14) (scope : BitVec 5) (path : BitVec 3) (look : BitVec 4) (cmask : BitVec 4) (mreg : BitVec 4) (ty : BitVec 4) (aux : BitVec 12) :
    BitVec.extractLsb' (n := 96) 46 14 (op ++ vd ++ kb ++ vo ++ scl ++ imm ++ scope ++ (0 : BitVec 1) ++ path ++ (0 : BitVec 3) ++ look ++ cmask ++ mreg ++ ty ++ (0 : BitVec 6) ++ aux) = imm := by
  iterate 10 rw [BitVec.extractLsb'_append_eq_of_le (by decide)]
  rw [BitVec.extractLsb'_append_eq_right]
theorem lm_scope (op : BitVec 10) (vd : BitVec 10) (kb : BitVec 4) (vo : BitVec 10) (scl : BitVec 2) (imm : BitVec 14) (scope : BitVec 5) (path : BitVec 3) (look : BitVec 4) (cmask : BitVec 4) (mreg : BitVec 4) (ty : BitVec 4) (aux : BitVec 12) :
    BitVec.extractLsb' (n := 96) 41 5 (op ++ vd ++ kb ++ vo ++ scl ++ imm ++ scope ++ (0 : BitVec 1) ++ path ++ (0 : BitVec 3) ++ look ++ cmask ++ mreg ++ ty ++ (0 : BitVec 6) ++ aux) = scope := by
  iterate 9 rw [BitVec.extractLsb'_append_eq_of_le (by decide)]
  rw [BitVec.extractLsb'_append_eq_right]
theorem lm_z40 (op : BitVec 10) (vd : BitVec 10) (kb : BitVec 4) (vo : BitVec 10) (scl : BitVec 2) (imm : BitVec 14) (scope : BitVec 5) (path : BitVec 3) (look : BitVec 4) (cmask : BitVec 4) (mreg : BitVec 4) (ty : BitVec 4) (aux : BitVec 12) :
    BitVec.extractLsb' (n := 96) 40 1 (op ++ vd ++ kb ++ vo ++ scl ++ imm ++ scope ++ (0 : BitVec 1) ++ path ++ (0 : BitVec 3) ++ look ++ cmask ++ mreg ++ ty ++ (0 : BitVec 6) ++ aux) = (0 : BitVec 1) := by
  iterate 8 rw [BitVec.extractLsb'_append_eq_of_le (by decide)]
  rw [BitVec.extractLsb'_append_eq_right]
theorem lm_path (op : BitVec 10) (vd : BitVec 10) (kb : BitVec 4) (vo : BitVec 10) (scl : BitVec 2) (imm : BitVec 14) (scope : BitVec 5) (path : BitVec 3) (look : BitVec 4) (cmask : BitVec 4) (mreg : BitVec 4) (ty : BitVec 4) (aux : BitVec 12) :
    BitVec.extractLsb' (n := 96) 37 3 (op ++ vd ++ kb ++ vo ++ scl ++ imm ++ scope ++ (0 : BitVec 1) ++ path ++ (0 : BitVec 3) ++ look ++ cmask ++ mreg ++ ty ++ (0 : BitVec 6) ++ aux) = path := by
  iterate 7 rw [BitVec.extractLsb'_append_eq_of_le (by decide)]
  rw [BitVec.extractLsb'_append_eq_right]
theorem lm_z34 (op : BitVec 10) (vd : BitVec 10) (kb : BitVec 4) (vo : BitVec 10) (scl : BitVec 2) (imm : BitVec 14) (scope : BitVec 5) (path : BitVec 3) (look : BitVec 4) (cmask : BitVec 4) (mreg : BitVec 4) (ty : BitVec 4) (aux : BitVec 12) :
    BitVec.extractLsb' (n := 96) 34 3 (op ++ vd ++ kb ++ vo ++ scl ++ imm ++ scope ++ (0 : BitVec 1) ++ path ++ (0 : BitVec 3) ++ look ++ cmask ++ mreg ++ ty ++ (0 : BitVec 6) ++ aux) = (0 : BitVec 3) := by
  iterate 6 rw [BitVec.extractLsb'_append_eq_of_le (by decide)]
  rw [BitVec.extractLsb'_append_eq_right]
theorem lm_look (op : BitVec 10) (vd : BitVec 10) (kb : BitVec 4) (vo : BitVec 10) (scl : BitVec 2) (imm : BitVec 14) (scope : BitVec 5) (path : BitVec 3) (look : BitVec 4) (cmask : BitVec 4) (mreg : BitVec 4) (ty : BitVec 4) (aux : BitVec 12) :
    BitVec.extractLsb' (n := 96) 30 4 (op ++ vd ++ kb ++ vo ++ scl ++ imm ++ scope ++ (0 : BitVec 1) ++ path ++ (0 : BitVec 3) ++ look ++ cmask ++ mreg ++ ty ++ (0 : BitVec 6) ++ aux) = look := by
  iterate 5 rw [BitVec.extractLsb'_append_eq_of_le (by decide)]
  rw [BitVec.extractLsb'_append_eq_right]
theorem lm_cmask (op : BitVec 10) (vd : BitVec 10) (kb : BitVec 4) (vo : BitVec 10) (scl : BitVec 2) (imm : BitVec 14) (scope : BitVec 5) (path : BitVec 3) (look : BitVec 4) (cmask : BitVec 4) (mreg : BitVec 4) (ty : BitVec 4) (aux : BitVec 12) :
    BitVec.extractLsb' (n := 96) 26 4 (op ++ vd ++ kb ++ vo ++ scl ++ imm ++ scope ++ (0 : BitVec 1) ++ path ++ (0 : BitVec 3) ++ look ++ cmask ++ mreg ++ ty ++ (0 : BitVec 6) ++ aux) = cmask := by
  iterate 4 rw [BitVec.extractLsb'_append_eq_of_le (by decide)]
  rw [BitVec.extractLsb'_append_eq_right]
theorem lm_mreg (op : BitVec 10) (vd : BitVec 10) (kb : BitVec 4) (vo : BitVec 10) (scl : BitVec 2) (imm : BitVec 14) (scope : BitVec 5) (path : BitVec 3) (look : BitVec 4) (cmask : BitVec 4) (mreg : BitVec 4) (ty : BitVec 4) (aux : BitVec 12) :
    BitVec.extractLsb' (n := 96) 22 4 (op ++ vd ++ kb ++ vo ++ scl ++ imm ++ scope ++ (0 : BitVec 1) ++ path ++ (0 : BitVec 3) ++ look ++ cmask ++ mreg ++ ty ++ (0 : BitVec 6) ++ aux) = mreg := by
  iterate 3 rw [BitVec.extractLsb'_append_eq_of_le (by decide)]
  rw [BitVec.extractLsb'_append_eq_right]
theorem lm_ty (op : BitVec 10) (vd : BitVec 10) (kb : BitVec 4) (vo : BitVec 10) (scl : BitVec 2) (imm : BitVec 14) (scope : BitVec 5) (path : BitVec 3) (look : BitVec 4) (cmask : BitVec 4) (mreg : BitVec 4) (ty : BitVec 4) (aux : BitVec 12) :
    BitVec.extractLsb' (n := 96) 18 4 (op ++ vd ++ kb ++ vo ++ scl ++ imm ++ scope ++ (0 : BitVec 1) ++ path ++ (0 : BitVec 3) ++ look ++ cmask ++ mreg ++ ty ++ (0 : BitVec 6) ++ aux) = ty := by
  iterate 2 rw [BitVec.extractLsb'_append_eq_of_le (by decide)]
  rw [BitVec.extractLsb'_append_eq_right]
theorem lm_z12 (op : BitVec 10) (vd : BitVec 10) (kb : BitVec 4) (vo : BitVec 10) (scl : BitVec 2) (imm : BitVec 14) (scope : BitVec 5) (path : BitVec 3) (look : BitVec 4) (cmask : BitVec 4) (mreg : BitVec 4) (ty : BitVec 4) (aux : BitVec 12) :
    BitVec.extractLsb' (n := 96) 12 6 (op ++ vd ++ kb ++ vo ++ scl ++ imm ++ scope ++ (0 : BitVec 1) ++ path ++ (0 : BitVec 3) ++ look ++ cmask ++ mreg ++ ty ++ (0 : BitVec 6) ++ aux) = (0 : BitVec 6) := by
  rw [BitVec.extractLsb'_append_eq_of_le (by decide), BitVec.extractLsb'_append_eq_right]
theorem lm_aux (op : BitVec 10) (vd : BitVec 10) (kb : BitVec 4) (vo : BitVec 10) (scl : BitVec 2) (imm : BitVec 14) (scope : BitVec 5) (path : BitVec 3) (look : BitVec 4) (cmask : BitVec 4) (mreg : BitVec 4) (ty : BitVec 4) (aux : BitVec 12) :
    BitVec.extractLsb' (n := 96) 0 12 (op ++ vd ++ kb ++ vo ++ scl ++ imm ++ scope ++ (0 : BitVec 1) ++ path ++ (0 : BitVec 3) ++ look ++ cmask ++ mreg ++ ty ++ (0 : BitVec 6) ++ aux) = aux := BitVec.extractLsb'_append_eq_right

theorem pw_op (op : BitVec 4) (look : BitVec 4) (mreg : BitVec 4) (z : BitVec 2) (xo : BitVec 7) (xd : BitVec 10) (xa : BitVec 10) (xb : BitVec 10) (xm : BitVec 4) (yo : BitVec 7) (yd : BitVec 10) (ya : BitVec 10) (yb : BitVec 10) (ym : BitVec 4) :
    BitVec.extractLsb' (n := 96) 92 4 (op ++ look ++ mreg ++ z ++ xo ++ xd ++ xa ++ xb ++ xm ++ yo ++ yd ++ ya ++ yb ++ ym) = op := by
  iterate 13 rw [BitVec.extractLsb'_append_eq_of_le (by decide)]
  rw [BitVec.extractLsb'_eq_self]
theorem pw_look (op : BitVec 4) (look : BitVec 4) (mreg : BitVec 4) (z : BitVec 2) (xo : BitVec 7) (xd : BitVec 10) (xa : BitVec 10) (xb : BitVec 10) (xm : BitVec 4) (yo : BitVec 7) (yd : BitVec 10) (ya : BitVec 10) (yb : BitVec 10) (ym : BitVec 4) :
    BitVec.extractLsb' (n := 96) 88 4 (op ++ look ++ mreg ++ z ++ xo ++ xd ++ xa ++ xb ++ xm ++ yo ++ yd ++ ya ++ yb ++ ym) = look := by
  iterate 12 rw [BitVec.extractLsb'_append_eq_of_le (by decide)]
  rw [BitVec.extractLsb'_append_eq_right]
theorem pw_mreg (op : BitVec 4) (look : BitVec 4) (mreg : BitVec 4) (z : BitVec 2) (xo : BitVec 7) (xd : BitVec 10) (xa : BitVec 10) (xb : BitVec 10) (xm : BitVec 4) (yo : BitVec 7) (yd : BitVec 10) (ya : BitVec 10) (yb : BitVec 10) (ym : BitVec 4) :
    BitVec.extractLsb' (n := 96) 84 4 (op ++ look ++ mreg ++ z ++ xo ++ xd ++ xa ++ xb ++ xm ++ yo ++ yd ++ ya ++ yb ++ ym) = mreg := by
  iterate 11 rw [BitVec.extractLsb'_append_eq_of_le (by decide)]
  rw [BitVec.extractLsb'_append_eq_right]
theorem pw_z (op : BitVec 4) (look : BitVec 4) (mreg : BitVec 4) (z : BitVec 2) (xo : BitVec 7) (xd : BitVec 10) (xa : BitVec 10) (xb : BitVec 10) (xm : BitVec 4) (yo : BitVec 7) (yd : BitVec 10) (ya : BitVec 10) (yb : BitVec 10) (ym : BitVec 4) :
    BitVec.extractLsb' (n := 96) 82 2 (op ++ look ++ mreg ++ z ++ xo ++ xd ++ xa ++ xb ++ xm ++ yo ++ yd ++ ya ++ yb ++ ym) = z := by
  iterate 10 rw [BitVec.extractLsb'_append_eq_of_le (by decide)]
  rw [BitVec.extractLsb'_append_eq_right]
theorem pw_xo (op : BitVec 4) (look : BitVec 4) (mreg : BitVec 4) (z : BitVec 2) (xo : BitVec 7) (xd : BitVec 10) (xa : BitVec 10) (xb : BitVec 10) (xm : BitVec 4) (yo : BitVec 7) (yd : BitVec 10) (ya : BitVec 10) (yb : BitVec 10) (ym : BitVec 4) :
    BitVec.extractLsb' (n := 96) 75 7 (op ++ look ++ mreg ++ z ++ xo ++ xd ++ xa ++ xb ++ xm ++ yo ++ yd ++ ya ++ yb ++ ym) = xo := by
  iterate 9 rw [BitVec.extractLsb'_append_eq_of_le (by decide)]
  rw [BitVec.extractLsb'_append_eq_right]
theorem pw_xd (op : BitVec 4) (look : BitVec 4) (mreg : BitVec 4) (z : BitVec 2) (xo : BitVec 7) (xd : BitVec 10) (xa : BitVec 10) (xb : BitVec 10) (xm : BitVec 4) (yo : BitVec 7) (yd : BitVec 10) (ya : BitVec 10) (yb : BitVec 10) (ym : BitVec 4) :
    BitVec.extractLsb' (n := 96) 65 10 (op ++ look ++ mreg ++ z ++ xo ++ xd ++ xa ++ xb ++ xm ++ yo ++ yd ++ ya ++ yb ++ ym) = xd := by
  iterate 8 rw [BitVec.extractLsb'_append_eq_of_le (by decide)]
  rw [BitVec.extractLsb'_append_eq_right]
theorem pw_xa (op : BitVec 4) (look : BitVec 4) (mreg : BitVec 4) (z : BitVec 2) (xo : BitVec 7) (xd : BitVec 10) (xa : BitVec 10) (xb : BitVec 10) (xm : BitVec 4) (yo : BitVec 7) (yd : BitVec 10) (ya : BitVec 10) (yb : BitVec 10) (ym : BitVec 4) :
    BitVec.extractLsb' (n := 96) 55 10 (op ++ look ++ mreg ++ z ++ xo ++ xd ++ xa ++ xb ++ xm ++ yo ++ yd ++ ya ++ yb ++ ym) = xa := by
  iterate 7 rw [BitVec.extractLsb'_append_eq_of_le (by decide)]
  rw [BitVec.extractLsb'_append_eq_right]
theorem pw_xb (op : BitVec 4) (look : BitVec 4) (mreg : BitVec 4) (z : BitVec 2) (xo : BitVec 7) (xd : BitVec 10) (xa : BitVec 10) (xb : BitVec 10) (xm : BitVec 4) (yo : BitVec 7) (yd : BitVec 10) (ya : BitVec 10) (yb : BitVec 10) (ym : BitVec 4) :
    BitVec.extractLsb' (n := 96) 45 10 (op ++ look ++ mreg ++ z ++ xo ++ xd ++ xa ++ xb ++ xm ++ yo ++ yd ++ ya ++ yb ++ ym) = xb := by
  iterate 6 rw [BitVec.extractLsb'_append_eq_of_le (by decide)]
  rw [BitVec.extractLsb'_append_eq_right]
theorem pw_xm (op : BitVec 4) (look : BitVec 4) (mreg : BitVec 4) (z : BitVec 2) (xo : BitVec 7) (xd : BitVec 10) (xa : BitVec 10) (xb : BitVec 10) (xm : BitVec 4) (yo : BitVec 7) (yd : BitVec 10) (ya : BitVec 10) (yb : BitVec 10) (ym : BitVec 4) :
    BitVec.extractLsb' (n := 96) 41 4 (op ++ look ++ mreg ++ z ++ xo ++ xd ++ xa ++ xb ++ xm ++ yo ++ yd ++ ya ++ yb ++ ym) = xm := by
  iterate 5 rw [BitVec.extractLsb'_append_eq_of_le (by decide)]
  rw [BitVec.extractLsb'_append_eq_right]
theorem pw_yo (op : BitVec 4) (look : BitVec 4) (mreg : BitVec 4) (z : BitVec 2) (xo : BitVec 7) (xd : BitVec 10) (xa : BitVec 10) (xb : BitVec 10) (xm : BitVec 4) (yo : BitVec 7) (yd : BitVec 10) (ya : BitVec 10) (yb : BitVec 10) (ym : BitVec 4) :
    BitVec.extractLsb' (n := 96) 34 7 (op ++ look ++ mreg ++ z ++ xo ++ xd ++ xa ++ xb ++ xm ++ yo ++ yd ++ ya ++ yb ++ ym) = yo := by
  iterate 4 rw [BitVec.extractLsb'_append_eq_of_le (by decide)]
  rw [BitVec.extractLsb'_append_eq_right]
theorem pw_yd (op : BitVec 4) (look : BitVec 4) (mreg : BitVec 4) (z : BitVec 2) (xo : BitVec 7) (xd : BitVec 10) (xa : BitVec 10) (xb : BitVec 10) (xm : BitVec 4) (yo : BitVec 7) (yd : BitVec 10) (ya : BitVec 10) (yb : BitVec 10) (ym : BitVec 4) :
    BitVec.extractLsb' (n := 96) 24 10 (op ++ look ++ mreg ++ z ++ xo ++ xd ++ xa ++ xb ++ xm ++ yo ++ yd ++ ya ++ yb ++ ym) = yd := by
  iterate 3 rw [BitVec.extractLsb'_append_eq_of_le (by decide)]
  rw [BitVec.extractLsb'_append_eq_right]
theorem pw_ya (op : BitVec 4) (look : BitVec 4) (mreg : BitVec 4) (z : BitVec 2) (xo : BitVec 7) (xd : BitVec 10) (xa : BitVec 10) (xb : BitVec 10) (xm : BitVec 4) (yo : BitVec 7) (yd : BitVec 10) (ya : BitVec 10) (yb : BitVec 10) (ym : BitVec 4) :
    BitVec.extractLsb' (n := 96) 14 10 (op ++ look ++ mreg ++ z ++ xo ++ xd ++ xa ++ xb ++ xm ++ yo ++ yd ++ ya ++ yb ++ ym) = ya := by
  iterate 2 rw [BitVec.extractLsb'_append_eq_of_le (by decide)]
  rw [BitVec.extractLsb'_append_eq_right]
theorem pw_yb (op : BitVec 4) (look : BitVec 4) (mreg : BitVec 4) (z : BitVec 2) (xo : BitVec 7) (xd : BitVec 10) (xa : BitVec 10) (xb : BitVec 10) (xm : BitVec 4) (yo : BitVec 7) (yd : BitVec 10) (ya : BitVec 10) (yb : BitVec 10) (ym : BitVec 4) :
    BitVec.extractLsb' (n := 96) 4 10 (op ++ look ++ mreg ++ z ++ xo ++ xd ++ xa ++ xb ++ xm ++ yo ++ yd ++ ya ++ yb ++ ym) = yb := by
  rw [BitVec.extractLsb'_append_eq_of_le (by decide), BitVec.extractLsb'_append_eq_right]
theorem pw_ym (op : BitVec 4) (look : BitVec 4) (mreg : BitVec 4) (z : BitVec 2) (xo : BitVec 7) (xd : BitVec 10) (xa : BitVec 10) (xb : BitVec 10) (xm : BitVec 4) (yo : BitVec 7) (yd : BitVec 10) (ya : BitVec 10) (yb : BitVec 10) (ym : BitVec 4) :
    BitVec.extractLsb' (n := 96) 0 4 (op ++ look ++ mreg ++ z ++ xo ++ xd ++ xa ++ xb ++ xm ++ yo ++ yd ++ ya ++ yb ++ ym) = ym := BitVec.extractLsb'_append_eq_right

/-! ### Near-memory formats -/

theorem na_op (op : BitVec 6) (wd : BitVec 4) (wa : BitVec 4) (wb : BitVec 4) (wc : BitVec 4) (ty : BitVec 4) (sub : BitVec 6) (imm : BitVec 32) :
    BitVec.extractLsb' (n := 64) 58 6 (op ++ wd ++ wa ++ wb ++ wc ++ ty ++ sub ++ imm) = op := by
  iterate 7 rw [BitVec.extractLsb'_append_eq_of_le (by decide)]
  rw [BitVec.extractLsb'_eq_self]
theorem na_wd (op : BitVec 6) (wd : BitVec 4) (wa : BitVec 4) (wb : BitVec 4) (wc : BitVec 4) (ty : BitVec 4) (sub : BitVec 6) (imm : BitVec 32) :
    BitVec.extractLsb' (n := 64) 54 4 (op ++ wd ++ wa ++ wb ++ wc ++ ty ++ sub ++ imm) = wd := by
  iterate 6 rw [BitVec.extractLsb'_append_eq_of_le (by decide)]
  rw [BitVec.extractLsb'_append_eq_right]
theorem na_wa (op : BitVec 6) (wd : BitVec 4) (wa : BitVec 4) (wb : BitVec 4) (wc : BitVec 4) (ty : BitVec 4) (sub : BitVec 6) (imm : BitVec 32) :
    BitVec.extractLsb' (n := 64) 50 4 (op ++ wd ++ wa ++ wb ++ wc ++ ty ++ sub ++ imm) = wa := by
  iterate 5 rw [BitVec.extractLsb'_append_eq_of_le (by decide)]
  rw [BitVec.extractLsb'_append_eq_right]
theorem na_wb (op : BitVec 6) (wd : BitVec 4) (wa : BitVec 4) (wb : BitVec 4) (wc : BitVec 4) (ty : BitVec 4) (sub : BitVec 6) (imm : BitVec 32) :
    BitVec.extractLsb' (n := 64) 46 4 (op ++ wd ++ wa ++ wb ++ wc ++ ty ++ sub ++ imm) = wb := by
  iterate 4 rw [BitVec.extractLsb'_append_eq_of_le (by decide)]
  rw [BitVec.extractLsb'_append_eq_right]
theorem na_wc (op : BitVec 6) (wd : BitVec 4) (wa : BitVec 4) (wb : BitVec 4) (wc : BitVec 4) (ty : BitVec 4) (sub : BitVec 6) (imm : BitVec 32) :
    BitVec.extractLsb' (n := 64) 42 4 (op ++ wd ++ wa ++ wb ++ wc ++ ty ++ sub ++ imm) = wc := by
  iterate 3 rw [BitVec.extractLsb'_append_eq_of_le (by decide)]
  rw [BitVec.extractLsb'_append_eq_right]
theorem na_ty (op : BitVec 6) (wd : BitVec 4) (wa : BitVec 4) (wb : BitVec 4) (wc : BitVec 4) (ty : BitVec 4) (sub : BitVec 6) (imm : BitVec 32) :
    BitVec.extractLsb' (n := 64) 38 4 (op ++ wd ++ wa ++ wb ++ wc ++ ty ++ sub ++ imm) = ty := by
  iterate 2 rw [BitVec.extractLsb'_append_eq_of_le (by decide)]
  rw [BitVec.extractLsb'_append_eq_right]
theorem na_sub (op : BitVec 6) (wd : BitVec 4) (wa : BitVec 4) (wb : BitVec 4) (wc : BitVec 4) (ty : BitVec 4) (sub : BitVec 6) (imm : BitVec 32) :
    BitVec.extractLsb' (n := 64) 32 6 (op ++ wd ++ wa ++ wb ++ wc ++ ty ++ sub ++ imm) = sub := by
  rw [BitVec.extractLsb'_append_eq_of_le (by decide), BitVec.extractLsb'_append_eq_right]
theorem na_imm (op : BitVec 6) (wd : BitVec 4) (wa : BitVec 4) (wb : BitVec 4) (wc : BitVec 4) (ty : BitVec 4) (sub : BitVec 6) (imm : BitVec 32) :
    BitVec.extractLsb' (n := 64) 0 32 (op ++ wd ++ wa ++ wb ++ wc ++ ty ++ sub ++ imm) = imm := BitVec.extractLsb'_append_eq_right

theorem nm_op (op : BitVec 6) (wd : BitVec 4) (bslot : BitVec 4) (ty : BitVec 4) (sub : BitVec 6) (off : BitVec 32) :
    BitVec.extractLsb' (n := 64) 58 6 (op ++ wd ++ bslot ++ (0 : BitVec 8) ++ ty ++ sub ++ off) = op := by
  iterate 6 rw [BitVec.extractLsb'_append_eq_of_le (by decide)]
  rw [BitVec.extractLsb'_eq_self]
theorem nm_wd (op : BitVec 6) (wd : BitVec 4) (bslot : BitVec 4) (ty : BitVec 4) (sub : BitVec 6) (off : BitVec 32) :
    BitVec.extractLsb' (n := 64) 54 4 (op ++ wd ++ bslot ++ (0 : BitVec 8) ++ ty ++ sub ++ off) = wd := by
  iterate 5 rw [BitVec.extractLsb'_append_eq_of_le (by decide)]
  rw [BitVec.extractLsb'_append_eq_right]
theorem nm_bslot (op : BitVec 6) (wd : BitVec 4) (bslot : BitVec 4) (ty : BitVec 4) (sub : BitVec 6) (off : BitVec 32) :
    BitVec.extractLsb' (n := 64) 50 4 (op ++ wd ++ bslot ++ (0 : BitVec 8) ++ ty ++ sub ++ off) = bslot := by
  iterate 4 rw [BitVec.extractLsb'_append_eq_of_le (by decide)]
  rw [BitVec.extractLsb'_append_eq_right]
theorem nm_z42 (op : BitVec 6) (wd : BitVec 4) (bslot : BitVec 4) (ty : BitVec 4) (sub : BitVec 6) (off : BitVec 32) :
    BitVec.extractLsb' (n := 64) 42 8 (op ++ wd ++ bslot ++ (0 : BitVec 8) ++ ty ++ sub ++ off) = (0 : BitVec 8) := by
  iterate 3 rw [BitVec.extractLsb'_append_eq_of_le (by decide)]
  rw [BitVec.extractLsb'_append_eq_right]
theorem nm_ty (op : BitVec 6) (wd : BitVec 4) (bslot : BitVec 4) (ty : BitVec 4) (sub : BitVec 6) (off : BitVec 32) :
    BitVec.extractLsb' (n := 64) 38 4 (op ++ wd ++ bslot ++ (0 : BitVec 8) ++ ty ++ sub ++ off) = ty := by
  iterate 2 rw [BitVec.extractLsb'_append_eq_of_le (by decide)]
  rw [BitVec.extractLsb'_append_eq_right]
theorem nm_sub (op : BitVec 6) (wd : BitVec 4) (bslot : BitVec 4) (ty : BitVec 4) (sub : BitVec 6) (off : BitVec 32) :
    BitVec.extractLsb' (n := 64) 32 6 (op ++ wd ++ bslot ++ (0 : BitVec 8) ++ ty ++ sub ++ off) = sub := by
  rw [BitVec.extractLsb'_append_eq_of_le (by decide), BitVec.extractLsb'_append_eq_right]
theorem nm_off (op : BitVec 6) (wd : BitVec 4) (bslot : BitVec 4) (ty : BitVec 4) (sub : BitVec 6) (off : BitVec 32) :
    BitVec.extractLsb' (n := 64) 0 32 (op ++ wd ++ bslot ++ (0 : BitVec 8) ++ ty ++ sub ++ off) = off := BitVec.extractLsb'_append_eq_right

theorem nc_op (op : BitVec 6) (wa : BitVec 4) (wb : BitVec 4) (cond : BitVec 3) (ty : BitVec 4) (sub : BitVec 6) (cnt : BitVec 16) (off : BitVec 16) :
    BitVec.extractLsb' (n := 64) 58 6 (op ++ wa ++ wb ++ cond ++ (0 : BitVec 5) ++ ty ++ sub ++ cnt ++ off) = op := by
  iterate 8 rw [BitVec.extractLsb'_append_eq_of_le (by decide)]
  rw [BitVec.extractLsb'_eq_self]
theorem nc_wa (op : BitVec 6) (wa : BitVec 4) (wb : BitVec 4) (cond : BitVec 3) (ty : BitVec 4) (sub : BitVec 6) (cnt : BitVec 16) (off : BitVec 16) :
    BitVec.extractLsb' (n := 64) 54 4 (op ++ wa ++ wb ++ cond ++ (0 : BitVec 5) ++ ty ++ sub ++ cnt ++ off) = wa := by
  iterate 7 rw [BitVec.extractLsb'_append_eq_of_le (by decide)]
  rw [BitVec.extractLsb'_append_eq_right]
theorem nc_wb (op : BitVec 6) (wa : BitVec 4) (wb : BitVec 4) (cond : BitVec 3) (ty : BitVec 4) (sub : BitVec 6) (cnt : BitVec 16) (off : BitVec 16) :
    BitVec.extractLsb' (n := 64) 50 4 (op ++ wa ++ wb ++ cond ++ (0 : BitVec 5) ++ ty ++ sub ++ cnt ++ off) = wb := by
  iterate 6 rw [BitVec.extractLsb'_append_eq_of_le (by decide)]
  rw [BitVec.extractLsb'_append_eq_right]
theorem nc_cond (op : BitVec 6) (wa : BitVec 4) (wb : BitVec 4) (cond : BitVec 3) (ty : BitVec 4) (sub : BitVec 6) (cnt : BitVec 16) (off : BitVec 16) :
    BitVec.extractLsb' (n := 64) 47 3 (op ++ wa ++ wb ++ cond ++ (0 : BitVec 5) ++ ty ++ sub ++ cnt ++ off) = cond := by
  iterate 5 rw [BitVec.extractLsb'_append_eq_of_le (by decide)]
  rw [BitVec.extractLsb'_append_eq_right]
theorem nc_z42 (op : BitVec 6) (wa : BitVec 4) (wb : BitVec 4) (cond : BitVec 3) (ty : BitVec 4) (sub : BitVec 6) (cnt : BitVec 16) (off : BitVec 16) :
    BitVec.extractLsb' (n := 64) 42 5 (op ++ wa ++ wb ++ cond ++ (0 : BitVec 5) ++ ty ++ sub ++ cnt ++ off) = (0 : BitVec 5) := by
  iterate 4 rw [BitVec.extractLsb'_append_eq_of_le (by decide)]
  rw [BitVec.extractLsb'_append_eq_right]
theorem nc_ty (op : BitVec 6) (wa : BitVec 4) (wb : BitVec 4) (cond : BitVec 3) (ty : BitVec 4) (sub : BitVec 6) (cnt : BitVec 16) (off : BitVec 16) :
    BitVec.extractLsb' (n := 64) 38 4 (op ++ wa ++ wb ++ cond ++ (0 : BitVec 5) ++ ty ++ sub ++ cnt ++ off) = ty := by
  iterate 3 rw [BitVec.extractLsb'_append_eq_of_le (by decide)]
  rw [BitVec.extractLsb'_append_eq_right]
theorem nc_sub (op : BitVec 6) (wa : BitVec 4) (wb : BitVec 4) (cond : BitVec 3) (ty : BitVec 4) (sub : BitVec 6) (cnt : BitVec 16) (off : BitVec 16) :
    BitVec.extractLsb' (n := 64) 32 6 (op ++ wa ++ wb ++ cond ++ (0 : BitVec 5) ++ ty ++ sub ++ cnt ++ off) = sub := by
  iterate 2 rw [BitVec.extractLsb'_append_eq_of_le (by decide)]
  rw [BitVec.extractLsb'_append_eq_right]
theorem nc_cnt (op : BitVec 6) (wa : BitVec 4) (wb : BitVec 4) (cond : BitVec 3) (ty : BitVec 4) (sub : BitVec 6) (cnt : BitVec 16) (off : BitVec 16) :
    BitVec.extractLsb' (n := 64) 16 16 (op ++ wa ++ wb ++ cond ++ (0 : BitVec 5) ++ ty ++ sub ++ cnt ++ off) = cnt := by
  rw [BitVec.extractLsb'_append_eq_of_le (by decide), BitVec.extractLsb'_append_eq_right]
theorem nc_off (op : BitVec 6) (wa : BitVec 4) (wb : BitVec 4) (cond : BitVec 3) (ty : BitVec 4) (sub : BitVec 6) (cnt : BitVec 16) (off : BitVec 16) :
    BitVec.extractLsb' (n := 64) 0 16 (op ++ wa ++ wb ++ cond ++ (0 : BitVec 5) ++ ty ++ sub ++ cnt ++ off) = off := BitVec.extractLsb'_append_eq_right

/-! ### Words from their formats -/

/-- An L3 word decodes to the instruction of its opcode, where the entry's field rules hold. -/
theorem l3_case (op : BitVec 10) (w : L3) {c : L3 → Instr} {ok : L3 → Bool} (hop : ¬ 0x3C0 ≤ op.toNat)
    (hk : lookupKey op.toNat l3Ops = some (c, ok)) (h : ok w = true) : decodeEncoded (l3Word op w) = some (.instr (c w)) := by
  have e : ∀ x : BitVec 96, x.extractLsb' 86 10 = op → l3Of x = w → decodeLane x = .instr (c w) := by
    intro x h1 h2
    unfold decodeLane
    simp only [h1, if_neg hop, hk, h2, h, if_true]
  refine congrArg some (e _ (l3_op ..) ?_)
  simp only [l3Of, l3_vd, l3_va, l3_vb, l3_vc, l3_mods, l3_clamp, l3_dscale, l3_look, l3_cmask, l3_mreg, l3_ty, l3_route, l3_aux,
    etype_ofCode_code]

/-- An LM word. -/
theorem lm_case (op : BitVec 10) (w : LM) {c : LM → Instr} {ok : LM → Bool} (hop : ¬ 0x3C0 ≤ op.toNat)
    (h3 : lookupKey op.toNat l3Ops = none) (hk : lookupKey op.toNat lmOps = some (c, ok)) (h : ok w = true) :
    decodeEncoded (lmWord op w) = some (.instr (c w)) := by
  have e : ∀ x : BitVec 96, x.extractLsb' 86 10 = op → lmOf x = w → lmZero x = true → decodeLane x = .instr (c w) := by
    intro x h1 h2 hz
    unfold decodeLane
    simp only [h1, if_neg hop, h3, hk, h2, h, hz, Bool.and_self, if_true]
  refine congrArg some (e _ (lm_op ..) ?_ ?_)
  · simp only [lmOf, lm_vd, lm_kb, lm_vo, lm_scl, lm_imm, lm_scope, lm_path, lm_look, lm_cmask, lm_mreg, lm_ty, lm_aux,
      etype_ofCode_code]
  · simp only [lmZero, lm_z40, lm_z34, lm_z12]
    rfl

/-- An NA word. -/
theorem na_case (op : BitVec 6) (w : NA) {c : NA → Instr} {ok : NA → Bool} (hk : lookupKey op.toNat naOps = some (c, ok))
    (h : ok w = true) : decodeEncoded (naWord op w) = some (.instr (c w)) := by
  have e : ∀ x : BitVec 64, x.extractLsb' 58 6 = op → naOf x = w → decodeNm x = .instr (c w) := by
    intro x h1 h2
    unfold decodeNm
    simp only [h1, hk, h2, h, unless0, if_true]
  refine congrArg some (e _ (na_op ..) ?_)
  simp only [naOf, na_wd, na_wa, na_wb, na_wc, na_ty, na_sub, na_imm, etype_ofCode_code]

/-- An NM word. -/
theorem nm_case (op : BitVec 6) (w : NM) {c : NM → Instr} {ok : NM → Bool} (ha : lookupKey op.toNat naOps = none)
    (hk : lookupKey op.toNat nmOps = some (c, ok)) (h : ok w = true) : decodeEncoded (nmWord op w) = some (.instr (c w)) := by
  have e : ∀ x : BitVec 64, x.extractLsb' 58 6 = op → nmOf x = w → x.extractLsb' 42 8 = 0 → decodeNm x = .instr (c w) := by
    intro x h1 h2 hz
    unfold decodeNm
    simp only [h1, ha, hk, h2, h, hz, unless0, beq_self_eq_true, Bool.and_self, if_true]
  refine congrArg some (e _ (nm_op ..) ?_ (nm_z42 ..))
  simp only [nmOf, nm_wd, nm_bslot, nm_ty, nm_sub, nm_off, etype_ofCode_code]

/-- What an NC word decodes to, from its fields. -/
theorem nc_case (op : BitVec 6) (w : NC) {r : Decoded}
    (h : ∀ x : BitVec 64, x.extractLsb' 58 6 = op → ncOf x = w → x.extractLsb' 42 5 = 0 → decodeNm x = r) :
    decodeEncoded (ncWord op w) = some r := by
  refine congrArg some (h _ (nc_op ..) ?_ (nc_z42 ..))
  simp only [ncOf, nc_wa, nc_wb, nc_cond, nc_ty, nc_sub, nc_cnt, nc_off, etype_ofCode_code]

/-- The idle slot has every field zero. -/
theorem idle_zero : Slot.idle.zero = true := rfl

/-- Opcodes with the top four bits set are the pair words' (R67). -/
theorem pair_op {v : BitVec 10} (h : v.extractLsb' 6 4 = 0xF) : 0x3C0 ≤ v.toNat := by
  have := congrArg BitVec.toNat h
  simp [BitVec.extractLsb'_toNat, Nat.shiftRight_eq_div_pow] at this
  omega

/-- What a pair word decodes to, from its fields. -/
theorem pw_case (look mreg : BitVec 4) (xo : BitVec 7) (x : Slot) (yo : BitVec 7) (y : Slot) {r : Decoded}
    (h : ∀ w : BitVec 96, w.extractLsb' 88 4 = look → w.extractLsb' 84 4 = mreg → w.extractLsb' 75 7 = xo → w.extractLsb' 34 7 = yo →
      w.extractLsb' 82 2 = 0 → slotX w = x → slotY w = y → decodePair w = r) :
    decodeEncoded (pairWord look mreg xo x yo y) = some r := by
  have e : ∀ w : BitVec 96, w.extractLsb' 92 4 = 0xF → decodePair w = r → decodeLane w = r := by
    intro w h1 h2
    unfold decodeLane
    rw [← h2]
    exact if_pos (pair_op (by rw [← extract_part w 86 10 6 4 (by decide)]; exact h1))
  refine congrArg some (e _ (pw_op ..) (h _ (pw_look ..) (pw_mreg ..) (pw_xo ..) (pw_yo ..) (pw_z ..) ?_ ?_))
  · simp only [slotX, pw_xd, pw_xa, pw_xb, pw_xm]
  · simp only [slotY, pw_yd, pw_ya, pw_yb, pw_ym]

end Sys2Proof.Laws
end

