-- ==== Sys2Proof/Laws/State.lean ====
section
/-! SUPPORT. What each update of the state leaves in each field (all by rfl), and the laws of the sparse stores. -/

namespace Sys2Proof.Laws

open Sys2Proof.Machine

/-! ### Sparse stores -/

theorem lookup_serase_same {α : Type} (k : Nat) (l : Store α) : lookupKey k (serase k l) = none := by
  induction l with
  | nil => rfl
  | cons p r ih =>
    obtain ⟨j, b⟩ := p
    by_cases h : j = k <;> simp_all [serase, lookupKey]

theorem lookup_serase_ne {α : Type} {j k : Nat} (l : Store α) (h : j ≠ k) : lookupKey j (serase k l) = lookupKey j l := by
  induction l with
  | nil => rfl
  | cons p r ih =>
    obtain ⟨i, b⟩ := p
    by_cases hi : i = k
    · subst hi
      simp only [serase, List.filter_cons, beq_self_eq_true, Bool.not_true, Bool.false_eq_true, if_false, lookupKey, if_neg h.symm]
      exact ih
    · by_cases hj : i = j <;> simp_all [serase, lookupKey]

theorem lookup_sins_same {α : Type} (k : Nat) (a : α) (l : Store α) (h : lookupKey k l = none) :
    lookupKey k (sins k a l) = some a := by
  induction l with
  | nil => simp [sins, lookupKey]
  | cons p r ih =>
    obtain ⟨j, b⟩ := p
    by_cases hj : j = k
    · simp [lookupKey, hj] at h
    · simp only [lookupKey, if_neg hj] at h
      unfold sins
      split
      · simp [lookupKey]
      · simp [lookupKey, hj, ih h]

theorem lookup_sins_ne {α : Type} {j k : Nat} (a : α) (l : Store α) (h : j ≠ k) : lookupKey j (sins k a l) = lookupKey j l := by
  induction l with
  | nil => simp [sins, lookupKey, h.symm]
  | cons p r ih =>
    obtain ⟨i, b⟩ := p
    unfold sins
    split
    · simp [lookupKey, h.symm]
    · simp [lookupKey, ih]

/-- A key reads the value last written to it. -/
@[simp] theorem sget_sset_same {α : Type} [DecidableEq α] (d : α) (k : Nat) (a : α) (l : Store α) :
    sget d k (sset d k a l) = a := by
  unfold sset sget
  by_cases h : a = d
  · rw [if_pos h, lookup_serase_same]; exact h.symm
  · rw [if_neg h, lookup_sins_same _ _ _ (lookup_serase_same ..)]

/-- A write leaves every other key alone. -/
theorem sget_sset_ne {α : Type} [DecidableEq α] (d : α) {j k : Nat} (a : α) (l : Store α) (h : j ≠ k) :
    sget d j (sset d k a l) = sget d j l := by
  unfold sset sget
  by_cases h' : a = d
  · rw [if_pos h', lookup_serase_ne _ h]
  · rw [if_neg h', lookup_sins_ne _ _ h, lookup_serase_ne _ h]

theorem serase_serase {α : Type} (k : Nat) (l : Store α) : serase k (serase k l) = serase k l := by
  simp [serase, List.filter_filter]

theorem serase_sins {α : Type} (k : Nat) (a : α) (l : Store α) : serase k (sins k a l) = serase k l := by
  induction l with
  | nil => simp [sins, serase]
  | cons p r ih =>
    obtain ⟨j, b⟩ := p
    unfold sins
    split
    · simp [serase]
    · unfold serase at ih ⊢
      simp only [List.filter_cons, ih]

/-- The last write of a key counts. -/
@[simp] theorem sset_sset {α : Type} [DecidableEq α] (d : α) (k : Nat) (a b : α) (l : Store α) :
    sset d k a (sset d k b l) = sset d k a l := by
  have e : serase k (sset d k b l) = serase k l := by
    unfold sset
    split
    · exact serase_serase ..
    · rw [serase_sins, serase_serase]
  show (if a = d then serase k (sset d k b l) else sins k a (serase k (sset d k b l))) = _
  rw [e]
  rfl

/-- The canonical form: keys rising strictly, and no default. -/
theorem swf_iff {α : Type} [DecidableEq α] (d : α) (l : Store α) :
    swf d l = true ↔ l.Pairwise (fun p q => p.1 < q.1) ∧ ∀ p ∈ l, p.2 ≠ d := by
  simp [swf]

/-- Taking entries out keeps the canonical form. -/
theorem swf_filter {α : Type} [DecidableEq α] (d : α) (f : Nat × α → Bool) {l : Store α} (h : swf d l = true) :
    swf d (l.filter f) = true := by
  rw [swf_iff] at h ⊢
  exact ⟨h.1.filter f, fun p hp => h.2 p (List.mem_filter.1 hp).1⟩

theorem swf_serase {α : Type} [DecidableEq α] (d : α) (k : Nat) {l : Store α} (h : swf d l = true) : swf d (serase k l) = true :=
  swf_filter d _ h

theorem mem_sins {α : Type} {k : Nat} {a : α} {l : Store α} {p : Nat × α} (h : p ∈ sins k a l) : p = (k, a) ∨ p ∈ l := by
  induction l with
  | nil => simpa [sins] using h
  | cons q r ih =>
    obtain ⟨j, b⟩ := q
    unfold sins at h
    split at h
    · simpa using h
    · simp only [List.mem_cons] at h ⊢
      obtain h | h := h
      · exact .inr (.inl h)
      · obtain h | h := ih h
        · exact .inl h
        · exact .inr (.inr h)

theorem swf_sins {α : Type} [DecidableEq α] (d : α) (k : Nat) (a : α) {l : Store α} (ha : a ≠ d) (hk : ∀ p ∈ l, p.1 ≠ k)
    (h : swf d l = true) : swf d (sins k a l) = true := by
  rw [swf_iff] at h ⊢
  refine ⟨?_, fun p hp => ?_⟩
  · obtain ⟨h, -⟩ := h
    induction l with
    | nil => simp [sins]
    | cons q r ih =>
      obtain ⟨j, b⟩ := q
      obtain ⟨h1, h2⟩ := List.pairwise_cons.1 h
      have hj : j ≠ k := hk (j, b) (List.mem_cons_self ..)
      unfold sins
      split
      · next hlt =>
        refine List.pairwise_cons.2 ⟨fun p hp => ?_, h⟩
        obtain rfl | hp := List.mem_cons.1 hp
        · exact hlt
        · exact Nat.lt_trans hlt (h1 p hp)
      · next hlt =>
        refine List.pairwise_cons.2 ⟨fun p hp => ?_, ih (fun p hp => hk p (List.mem_cons_of_mem _ hp)) h2⟩
        obtain rfl | hp := mem_sins hp
        · show j < k
          omega
        · exact h1 p hp
  · obtain rfl | hp := mem_sins hp
    · exact ha
    · exact h.2 p hp

/-- A write keeps the canonical form. -/
theorem swf_sset {α : Type} [DecidableEq α] (d : α) (k : Nat) (a : α) {l : Store α} (h : swf d l = true) :
    swf d (sset d k a l) = true := by
  unfold sset
  split
  · exact swf_serase d k h
  · next ha => exact swf_sins d k a ha (fun p hp => by simpa [serase] using (List.mem_filter.1 hp).2) (swf_serase d k h)

/-! ### Reads after the updates of one agent -/

@[simp] theorem setG_g (s : State) (g : Group) : (s.setG g).g = g := sget_sset_same ..
@[simp] theorem modG_g (s : State) (f : Group → Group) : (s.modG f).g = f s.g := sget_sset_same ..
@[simp] theorem setGroupAt_groupAt (s : State) (c k : Nat) (g : Group) : (s.setGroupAt c k g).groupAt c k = g := sget_sset_same ..
@[simp] theorem setCore_coreAt (s : State) (c : Nat) (x : Core) : (s.setCore c x).coreAt c = x := sget_sset_same ..
@[simp] theorem setDie_dieAt (s : State) (c : Nat) (x : Die) : (s.setDie c x).dieAt c = x := sget_sset_same ..
@[simp] theorem setStack_stackAt (s : State) (c : Nat) (x : Stack) : (s.setStack c x).stackAt c = x := sget_sset_same ..
@[simp] theorem setCtx_ctxAt (s : State) (c : Nat) (x : Ctx) : (s.setCtx c x).ctxAt c = x := sget_sset_same ..
@[simp] theorem setFlow_flowAt (s : State) (c : Nat) (x : Flow) : (s.setFlow c x).flowAt c = x := sget_sset_same ..

@[simp] theorem setG_setG (s : State) (g h : Group) : (s.setG h).setG g = s.setG g := by
  show State.setGroupAt _ _ _ _ = _
  simp only [State.setG, State.setGroupAt, sset_sset]

/-- Two changes of the executing group are one. -/
@[simp] theorem modG_modG (s : State) (f f' : Group → Group) : (s.modG f).modG f' = s.modG fun g => f' (f g) := by
  unfold State.modG
  rw [setG_g, setG_setG]

/-- A change of the executing group leaves every other group. -/
theorem setG_other (s : State) (g : Group) {k : Nat} (h : k ≠ 48 * s.cur.core + s.cur.slot) :
    sget Group.init k (s.setG g).groups = sget Group.init k s.groups := sget_sset_ne _ _ _ h

/-! ### Registers of a group -/

@[simp] theorem sreg_zero (g : Group) : g.sreg 0 = 0 := rfl
@[simp] theorem setS_zero (g : Group) (v : Word) : g.setS 0 v = g := rfl
theorem setS_of_ne (g : Group) {d : SReg} (v : Word) (h : d ≠ 0) : g.setS d v = { g with s := sset 0 d.toNat v g.s } := if_neg h

/-- What sd reads after a write to it: s0 reads zero (R26). -/
theorem setS_sreg (g : Group) (d : SReg) (v : Word) : (g.setS d v).sreg d = if d = 0 then 0 else v := by
  by_cases h : d = 0
  · subst h; rfl
  · rw [setS_of_ne g v h]
    simp only [Group.sreg, if_neg h, sget_sset_same]

/-- A write to sd leaves every other scalar register. -/
theorem setS_sreg_ne (g : Group) {d r : SReg} (v : Word) (h : r ≠ d) : (g.setS d v).sreg r = g.sreg r := by
  by_cases hd : d = 0
  · subst hd; rfl
  · have hn : r.toNat ≠ d.toNat := fun e => h (BitVec.eq_of_toNat_eq e)
    rw [setS_of_ne g v hd]
    simp only [Group.sreg, sget_sset_ne 0 v g.s hn]

/-- A write to a scalar register changes no field but the registers. -/
theorem setS_eq (g : Group) (d : SReg) (v : Word) : g.setS d v = { g with s := (g.setS d v).s } := by
  by_cases h : d = 0
  · subst h; rfl
  · rw [setS_of_ne g v h]

theorem setV_vreg (g : Group) (r lane : Nat) (x : W32) : (g.setV r lane x).vreg r lane = x := by
  simp [Group.vreg, Group.setV]

theorem setV_vreg_ne (g : Group) {r lane r' lane' : Nat} (x : W32) (h : 64 * r' + lane' ≠ 64 * r + lane) :
    (g.setV r lane x).vreg r' lane' = g.vreg r' lane' := by
  simp [Group.vreg, Group.setV, sget_sset_ne _ _ _ h]

theorem setM_mreg (g : Group) (m : Nat) (x : Word) : (g.setM m x).mreg m = x &&& widthMask g.width := by
  simp [Group.mreg, Group.setM, BitVec.and_assoc]

theorem setM_mreg_ne (g : Group) {m m' : Nat} (x : Word) (h : m' ≠ m) : (g.setM m x).mreg m' = g.mreg m' := by
  simp [Group.mreg, Group.setM, sget_sset_ne _ _ _ h]

/-! ### State.setGroupAt -/

@[simp] theorem setGroupAt_time (s : State) (a b : Nat) (x : Group) : (s.setGroupAt a b x).time = s.time := rfl
@[simp] theorem setGroupAt_tick (s : State) (a b : Nat) (x : Group) : (s.setGroupAt a b x).tick = s.tick := rfl
@[simp] theorem setGroupAt_moves (s : State) (a b : Nat) (x : Group) : (s.setGroupAt a b x).moves = s.moves := rfl
@[simp] theorem setGroupAt_cur (s : State) (a b : Nat) (x : Group) : (s.setGroupAt a b x).cur = s.cur := rfl
@[simp] theorem setGroupAt_mem (s : State) (a b : Nat) (x : Group) : (s.setGroupAt a b x).mem = s.mem := rfl
@[simp] theorem setGroupAt_marks (s : State) (a b : Nat) (x : Group) : (s.setGroupAt a b x).marks = s.marks := rfl
@[simp] theorem setGroupAt_cipher (s : State) (a b : Nat) (x : Group) : (s.setGroupAt a b x).cipher = s.cipher := rfl
@[simp] theorem setGroupAt_tags (s : State) (a b : Nat) (x : Group) : (s.setGroupAt a b x).tags = s.tags := rfl
@[simp] theorem setGroupAt_encOn (s : State) (a b : Nat) (x : Group) : (s.setGroupAt a b x).encOn = s.encOn := rfl
@[simp] theorem setGroupAt_nextKey (s : State) (a b : Nat) (x : Group) : (s.setGroupAt a b x).nextKey = s.nextKey := rfl
@[simp] theorem setGroupAt_frames (s : State) (a b : Nat) (x : Group) : (s.setGroupAt a b x).frames = s.frames := rfl
@[simp] theorem setGroupAt_ctxs (s : State) (a b : Nat) (x : Group) : (s.setGroupAt a b x).ctxs = s.ctxs := rfl
@[simp] theorem setGroupAt_cores (s : State) (a b : Nat) (x : Group) : (s.setGroupAt a b x).cores = s.cores := rfl
@[simp] theorem setGroupAt_dies (s : State) (a b : Nat) (x : Group) : (s.setGroupAt a b x).dies = s.dies := rfl
@[simp] theorem setGroupAt_hbmStacks (s : State) (a b : Nat) (x : Group) : (s.setGroupAt a b x).hbmStacks = s.hbmStacks := rfl
@[simp] theorem setGroupAt_teams (s : State) (a b : Nat) (x : Group) : (s.setGroupAt a b x).teams = s.teams := rfl
@[simp] theorem setGroupAt_grids (s : State) (a b : Nat) (x : Group) : (s.setGroupAt a b x).grids = s.grids := rfl
@[simp] theorem setGroupAt_rr (s : State) (a b : Nat) (x : Group) : (s.setGroupAt a b x).rr = s.rr := rfl
@[simp] theorem setGroupAt_ecmds (s : State) (a b : Nat) (x : Group) : (s.setGroupAt a b x).ecmds = s.ecmds := rfl
@[simp] theorem setGroupAt_nextCmd (s : State) (a b : Nat) (x : Group) : (s.setGroupAt a b x).nextCmd = s.nextCmd := rfl
@[simp] theorem setGroupAt_flows (s : State) (a b : Nat) (x : Group) : (s.setGroupAt a b x).flows = s.flows := rfl
@[simp] theorem setGroupAt_domains (s : State) (a b : Nat) (x : Group) : (s.setGroupAt a b x).domains = s.domains := rfl
@[simp] theorem setGroupAt_iters (s : State) (a b : Nat) (x : Group) : (s.setGroupAt a b x).iters = s.iters := rfl
@[simp] theorem setGroupAt_stable (s : State) (a b : Nat) (x : Group) : (s.setGroupAt a b x).stable = s.stable := rfl
@[simp] theorem setGroupAt_eqx (s : State) (a b : Nat) (x : Group) : (s.setGroupAt a b x).eqx = s.eqx := rfl
@[simp] theorem setGroupAt_events (s : State) (a b : Nat) (x : Group) : (s.setGroupAt a b x).events = s.events := rfl
@[simp] theorem setGroupAt_out (s : State) (a b : Nat) (x : Group) : (s.setGroupAt a b x).out = s.out := rfl
@[simp] theorem setGroupAt_mailbox (s : State) (a b : Nat) (x : Group) : (s.setGroupAt a b x).mailbox = s.mailbox := rfl
@[simp] theorem setGroupAt_inbox (s : State) (a b : Nat) (x : Group) : (s.setGroupAt a b x).inbox = s.inbox := rfl
@[simp] theorem setGroupAt_bar2 (s : State) (a b : Nat) (x : Group) : (s.setGroupAt a b x).bar2 = s.bar2 := rfl
@[simp] theorem setGroupAt_priQueue (s : State) (a b : Nat) (x : Group) : (s.setGroupAt a b x).priQueue = s.priQueue := rfl
@[simp] theorem setGroupAt_priOut (s : State) (a b : Nat) (x : Group) : (s.setGroupAt a b x).priOut = s.priOut := rfl
@[simp] theorem setGroupAt_ats (s : State) (a b : Nat) (x : Group) : (s.setGroupAt a b x).ats = s.ats := rfl
@[simp] theorem setGroupAt_atsQueue (s : State) (a b : Nat) (x : Group) : (s.setGroupAt a b x).atsQueue = s.atsQueue := rfl
@[simp] theorem setGroupAt_cap (s : State) (a b : Nat) (x : Group) : (s.setGroupAt a b x).cap = s.cap := rfl
@[simp] theorem setGroupAt_fw (s : State) (a b : Nat) (x : Group) : (s.setGroupAt a b x).fw = s.fw := rfl
@[simp] theorem setGroupAt_inReset (s : State) (a b : Nat) (x : Group) : (s.setGroupAt a b x).inReset = s.inReset := rfl
@[simp] theorem setGroupAt_scrubPeriod (s : State) (a b : Nat) (x : Group) : (s.setGroupAt a b x).scrubPeriod = s.scrubPeriod := rfl
@[simp] theorem setGroupAt_filterPeriod (s : State) (a b : Nat) (x : Group) : (s.setGroupAt a b x).filterPeriod = s.filterPeriod := rfl
@[simp] theorem setGroupAt_repeatAt (s : State) (a b : Nat) (x : Group) : (s.setGroupAt a b x).repeatAt = s.repeatAt := rfl
@[simp] theorem setGroupAt_vigil (s : State) (a b : Nat) (x : Group) : (s.setGroupAt a b x).vigil = s.vigil := rfl
@[simp] theorem setGroupAt_samples (s : State) (a b : Nat) (x : Group) : (s.setGroupAt a b x).samples = s.samples := rfl
@[simp] theorem setGroupAt_sampledAt (s : State) (a b : Nat) (x : Group) : (s.setGroupAt a b x).sampledAt = s.sampledAt := rfl

/-! ### State.setG -/

@[simp] theorem setG_time (s : State) (x : Group) : (s.setG x).time = s.time := rfl
@[simp] theorem setG_tick (s : State) (x : Group) : (s.setG x).tick = s.tick := rfl
@[simp] theorem setG_moves (s : State) (x : Group) : (s.setG x).moves = s.moves := rfl
@[simp] theorem setG_cur (s : State) (x : Group) : (s.setG x).cur = s.cur := rfl
@[simp] theorem setG_mem (s : State) (x : Group) : (s.setG x).mem = s.mem := rfl
@[simp] theorem setG_marks (s : State) (x : Group) : (s.setG x).marks = s.marks := rfl
@[simp] theorem setG_cipher (s : State) (x : Group) : (s.setG x).cipher = s.cipher := rfl
@[simp] theorem setG_tags (s : State) (x : Group) : (s.setG x).tags = s.tags := rfl
@[simp] theorem setG_encOn (s : State) (x : Group) : (s.setG x).encOn = s.encOn := rfl
@[simp] theorem setG_nextKey (s : State) (x : Group) : (s.setG x).nextKey = s.nextKey := rfl
@[simp] theorem setG_frames (s : State) (x : Group) : (s.setG x).frames = s.frames := rfl
@[simp] theorem setG_ctxs (s : State) (x : Group) : (s.setG x).ctxs = s.ctxs := rfl
@[simp] theorem setG_cores (s : State) (x : Group) : (s.setG x).cores = s.cores := rfl
@[simp] theorem setG_dies (s : State) (x : Group) : (s.setG x).dies = s.dies := rfl
@[simp] theorem setG_hbmStacks (s : State) (x : Group) : (s.setG x).hbmStacks = s.hbmStacks := rfl
@[simp] theorem setG_teams (s : State) (x : Group) : (s.setG x).teams = s.teams := rfl
@[simp] theorem setG_grids (s : State) (x : Group) : (s.setG x).grids = s.grids := rfl
@[simp] theorem setG_rr (s : State) (x : Group) : (s.setG x).rr = s.rr := rfl
@[simp] theorem setG_ecmds (s : State) (x : Group) : (s.setG x).ecmds = s.ecmds := rfl
@[simp] theorem setG_nextCmd (s : State) (x : Group) : (s.setG x).nextCmd = s.nextCmd := rfl
@[simp] theorem setG_flows (s : State) (x : Group) : (s.setG x).flows = s.flows := rfl
@[simp] theorem setG_domains (s : State) (x : Group) : (s.setG x).domains = s.domains := rfl
@[simp] theorem setG_iters (s : State) (x : Group) : (s.setG x).iters = s.iters := rfl
@[simp] theorem setG_stable (s : State) (x : Group) : (s.setG x).stable = s.stable := rfl
@[simp] theorem setG_eqx (s : State) (x : Group) : (s.setG x).eqx = s.eqx := rfl
@[simp] theorem setG_events (s : State) (x : Group) : (s.setG x).events = s.events := rfl
@[simp] theorem setG_out (s : State) (x : Group) : (s.setG x).out = s.out := rfl
@[simp] theorem setG_mailbox (s : State) (x : Group) : (s.setG x).mailbox = s.mailbox := rfl
@[simp] theorem setG_inbox (s : State) (x : Group) : (s.setG x).inbox = s.inbox := rfl
@[simp] theorem setG_bar2 (s : State) (x : Group) : (s.setG x).bar2 = s.bar2 := rfl
@[simp] theorem setG_priQueue (s : State) (x : Group) : (s.setG x).priQueue = s.priQueue := rfl
@[simp] theorem setG_priOut (s : State) (x : Group) : (s.setG x).priOut = s.priOut := rfl
@[simp] theorem setG_ats (s : State) (x : Group) : (s.setG x).ats = s.ats := rfl
@[simp] theorem setG_atsQueue (s : State) (x : Group) : (s.setG x).atsQueue = s.atsQueue := rfl
@[simp] theorem setG_cap (s : State) (x : Group) : (s.setG x).cap = s.cap := rfl
@[simp] theorem setG_fw (s : State) (x : Group) : (s.setG x).fw = s.fw := rfl
@[simp] theorem setG_inReset (s : State) (x : Group) : (s.setG x).inReset = s.inReset := rfl
@[simp] theorem setG_scrubPeriod (s : State) (x : Group) : (s.setG x).scrubPeriod = s.scrubPeriod := rfl
@[simp] theorem setG_filterPeriod (s : State) (x : Group) : (s.setG x).filterPeriod = s.filterPeriod := rfl
@[simp] theorem setG_repeatAt (s : State) (x : Group) : (s.setG x).repeatAt = s.repeatAt := rfl
@[simp] theorem setG_vigil (s : State) (x : Group) : (s.setG x).vigil = s.vigil := rfl
@[simp] theorem setG_samples (s : State) (x : Group) : (s.setG x).samples = s.samples := rfl
@[simp] theorem setG_sampledAt (s : State) (x : Group) : (s.setG x).sampledAt = s.sampledAt := rfl

/-! ### State.modG -/

@[simp] theorem modG_time (s : State) (x : Group → Group) : (s.modG x).time = s.time := rfl
@[simp] theorem modG_tick (s : State) (x : Group → Group) : (s.modG x).tick = s.tick := rfl
@[simp] theorem modG_moves (s : State) (x : Group → Group) : (s.modG x).moves = s.moves := rfl
@[simp] theorem modG_cur (s : State) (x : Group → Group) : (s.modG x).cur = s.cur := rfl
@[simp] theorem modG_mem (s : State) (x : Group → Group) : (s.modG x).mem = s.mem := rfl
@[simp] theorem modG_marks (s : State) (x : Group → Group) : (s.modG x).marks = s.marks := rfl
@[simp] theorem modG_cipher (s : State) (x : Group → Group) : (s.modG x).cipher = s.cipher := rfl
@[simp] theorem modG_tags (s : State) (x : Group → Group) : (s.modG x).tags = s.tags := rfl
@[simp] theorem modG_encOn (s : State) (x : Group → Group) : (s.modG x).encOn = s.encOn := rfl
@[simp] theorem modG_nextKey (s : State) (x : Group → Group) : (s.modG x).nextKey = s.nextKey := rfl
@[simp] theorem modG_frames (s : State) (x : Group → Group) : (s.modG x).frames = s.frames := rfl
@[simp] theorem modG_ctxs (s : State) (x : Group → Group) : (s.modG x).ctxs = s.ctxs := rfl
@[simp] theorem modG_cores (s : State) (x : Group → Group) : (s.modG x).cores = s.cores := rfl
@[simp] theorem modG_dies (s : State) (x : Group → Group) : (s.modG x).dies = s.dies := rfl
@[simp] theorem modG_hbmStacks (s : State) (x : Group → Group) : (s.modG x).hbmStacks = s.hbmStacks := rfl
@[simp] theorem modG_teams (s : State) (x : Group → Group) : (s.modG x).teams = s.teams := rfl
@[simp] theorem modG_grids (s : State) (x : Group → Group) : (s.modG x).grids = s.grids := rfl
@[simp] theorem modG_rr (s : State) (x : Group → Group) : (s.modG x).rr = s.rr := rfl
@[simp] theorem modG_ecmds (s : State) (x : Group → Group) : (s.modG x).ecmds = s.ecmds := rfl
@[simp] theorem modG_nextCmd (s : State) (x : Group → Group) : (s.modG x).nextCmd = s.nextCmd := rfl
@[simp] theorem modG_flows (s : State) (x : Group → Group) : (s.modG x).flows = s.flows := rfl
@[simp] theorem modG_domains (s : State) (x : Group → Group) : (s.modG x).domains = s.domains := rfl
@[simp] theorem modG_iters (s : State) (x : Group → Group) : (s.modG x).iters = s.iters := rfl
@[simp] theorem modG_stable (s : State) (x : Group → Group) : (s.modG x).stable = s.stable := rfl
@[simp] theorem modG_eqx (s : State) (x : Group → Group) : (s.modG x).eqx = s.eqx := rfl
@[simp] theorem modG_events (s : State) (x : Group → Group) : (s.modG x).events = s.events := rfl
@[simp] theorem modG_out (s : State) (x : Group → Group) : (s.modG x).out = s.out := rfl
@[simp] theorem modG_mailbox (s : State) (x : Group → Group) : (s.modG x).mailbox = s.mailbox := rfl
@[simp] theorem modG_inbox (s : State) (x : Group → Group) : (s.modG x).inbox = s.inbox := rfl
@[simp] theorem modG_bar2 (s : State) (x : Group → Group) : (s.modG x).bar2 = s.bar2 := rfl
@[simp] theorem modG_priQueue (s : State) (x : Group → Group) : (s.modG x).priQueue = s.priQueue := rfl
@[simp] theorem modG_priOut (s : State) (x : Group → Group) : (s.modG x).priOut = s.priOut := rfl
@[simp] theorem modG_ats (s : State) (x : Group → Group) : (s.modG x).ats = s.ats := rfl
@[simp] theorem modG_atsQueue (s : State) (x : Group → Group) : (s.modG x).atsQueue = s.atsQueue := rfl
@[simp] theorem modG_cap (s : State) (x : Group → Group) : (s.modG x).cap = s.cap := rfl
@[simp] theorem modG_fw (s : State) (x : Group → Group) : (s.modG x).fw = s.fw := rfl
@[simp] theorem modG_inReset (s : State) (x : Group → Group) : (s.modG x).inReset = s.inReset := rfl
@[simp] theorem modG_scrubPeriod (s : State) (x : Group → Group) : (s.modG x).scrubPeriod = s.scrubPeriod := rfl
@[simp] theorem modG_filterPeriod (s : State) (x : Group → Group) : (s.modG x).filterPeriod = s.filterPeriod := rfl
@[simp] theorem modG_repeatAt (s : State) (x : Group → Group) : (s.modG x).repeatAt = s.repeatAt := rfl
@[simp] theorem modG_vigil (s : State) (x : Group → Group) : (s.modG x).vigil = s.vigil := rfl
@[simp] theorem modG_samples (s : State) (x : Group → Group) : (s.modG x).samples = s.samples := rfl
@[simp] theorem modG_sampledAt (s : State) (x : Group → Group) : (s.modG x).sampledAt = s.sampledAt := rfl

/-! ### State.setCore -/

@[simp] theorem setCore_time (s : State) (a : Nat) (x : Core) : (s.setCore a x).time = s.time := rfl
@[simp] theorem setCore_tick (s : State) (a : Nat) (x : Core) : (s.setCore a x).tick = s.tick := rfl
@[simp] theorem setCore_moves (s : State) (a : Nat) (x : Core) : (s.setCore a x).moves = s.moves := rfl
@[simp] theorem setCore_cur (s : State) (a : Nat) (x : Core) : (s.setCore a x).cur = s.cur := rfl
@[simp] theorem setCore_mem (s : State) (a : Nat) (x : Core) : (s.setCore a x).mem = s.mem := rfl
@[simp] theorem setCore_marks (s : State) (a : Nat) (x : Core) : (s.setCore a x).marks = s.marks := rfl
@[simp] theorem setCore_cipher (s : State) (a : Nat) (x : Core) : (s.setCore a x).cipher = s.cipher := rfl
@[simp] theorem setCore_tags (s : State) (a : Nat) (x : Core) : (s.setCore a x).tags = s.tags := rfl
@[simp] theorem setCore_encOn (s : State) (a : Nat) (x : Core) : (s.setCore a x).encOn = s.encOn := rfl
@[simp] theorem setCore_nextKey (s : State) (a : Nat) (x : Core) : (s.setCore a x).nextKey = s.nextKey := rfl
@[simp] theorem setCore_frames (s : State) (a : Nat) (x : Core) : (s.setCore a x).frames = s.frames := rfl
@[simp] theorem setCore_ctxs (s : State) (a : Nat) (x : Core) : (s.setCore a x).ctxs = s.ctxs := rfl
@[simp] theorem setCore_groups (s : State) (a : Nat) (x : Core) : (s.setCore a x).groups = s.groups := rfl
@[simp] theorem setCore_dies (s : State) (a : Nat) (x : Core) : (s.setCore a x).dies = s.dies := rfl
@[simp] theorem setCore_hbmStacks (s : State) (a : Nat) (x : Core) : (s.setCore a x).hbmStacks = s.hbmStacks := rfl
@[simp] theorem setCore_teams (s : State) (a : Nat) (x : Core) : (s.setCore a x).teams = s.teams := rfl
@[simp] theorem setCore_grids (s : State) (a : Nat) (x : Core) : (s.setCore a x).grids = s.grids := rfl
@[simp] theorem setCore_rr (s : State) (a : Nat) (x : Core) : (s.setCore a x).rr = s.rr := rfl
@[simp] theorem setCore_ecmds (s : State) (a : Nat) (x : Core) : (s.setCore a x).ecmds = s.ecmds := rfl
@[simp] theorem setCore_nextCmd (s : State) (a : Nat) (x : Core) : (s.setCore a x).nextCmd = s.nextCmd := rfl
@[simp] theorem setCore_flows (s : State) (a : Nat) (x : Core) : (s.setCore a x).flows = s.flows := rfl
@[simp] theorem setCore_domains (s : State) (a : Nat) (x : Core) : (s.setCore a x).domains = s.domains := rfl
@[simp] theorem setCore_iters (s : State) (a : Nat) (x : Core) : (s.setCore a x).iters = s.iters := rfl
@[simp] theorem setCore_stable (s : State) (a : Nat) (x : Core) : (s.setCore a x).stable = s.stable := rfl
@[simp] theorem setCore_eqx (s : State) (a : Nat) (x : Core) : (s.setCore a x).eqx = s.eqx := rfl
@[simp] theorem setCore_events (s : State) (a : Nat) (x : Core) : (s.setCore a x).events = s.events := rfl
@[simp] theorem setCore_out (s : State) (a : Nat) (x : Core) : (s.setCore a x).out = s.out := rfl
@[simp] theorem setCore_mailbox (s : State) (a : Nat) (x : Core) : (s.setCore a x).mailbox = s.mailbox := rfl
@[simp] theorem setCore_inbox (s : State) (a : Nat) (x : Core) : (s.setCore a x).inbox = s.inbox := rfl
@[simp] theorem setCore_bar2 (s : State) (a : Nat) (x : Core) : (s.setCore a x).bar2 = s.bar2 := rfl
@[simp] theorem setCore_priQueue (s : State) (a : Nat) (x : Core) : (s.setCore a x).priQueue = s.priQueue := rfl
@[simp] theorem setCore_priOut (s : State) (a : Nat) (x : Core) : (s.setCore a x).priOut = s.priOut := rfl
@[simp] theorem setCore_ats (s : State) (a : Nat) (x : Core) : (s.setCore a x).ats = s.ats := rfl
@[simp] theorem setCore_atsQueue (s : State) (a : Nat) (x : Core) : (s.setCore a x).atsQueue = s.atsQueue := rfl
@[simp] theorem setCore_cap (s : State) (a : Nat) (x : Core) : (s.setCore a x).cap = s.cap := rfl
@[simp] theorem setCore_fw (s : State) (a : Nat) (x : Core) : (s.setCore a x).fw = s.fw := rfl
@[simp] theorem setCore_inReset (s : State) (a : Nat) (x : Core) : (s.setCore a x).inReset = s.inReset := rfl
@[simp] theorem setCore_scrubPeriod (s : State) (a : Nat) (x : Core) : (s.setCore a x).scrubPeriod = s.scrubPeriod := rfl
@[simp] theorem setCore_filterPeriod (s : State) (a : Nat) (x : Core) : (s.setCore a x).filterPeriod = s.filterPeriod := rfl
@[simp] theorem setCore_repeatAt (s : State) (a : Nat) (x : Core) : (s.setCore a x).repeatAt = s.repeatAt := rfl
@[simp] theorem setCore_vigil (s : State) (a : Nat) (x : Core) : (s.setCore a x).vigil = s.vigil := rfl
@[simp] theorem setCore_samples (s : State) (a : Nat) (x : Core) : (s.setCore a x).samples = s.samples := rfl
@[simp] theorem setCore_sampledAt (s : State) (a : Nat) (x : Core) : (s.setCore a x).sampledAt = s.sampledAt := rfl

/-! ### State.setDie -/

@[simp] theorem setDie_time (s : State) (a : Nat) (x : Die) : (s.setDie a x).time = s.time := rfl
@[simp] theorem setDie_tick (s : State) (a : Nat) (x : Die) : (s.setDie a x).tick = s.tick := rfl
@[simp] theorem setDie_moves (s : State) (a : Nat) (x : Die) : (s.setDie a x).moves = s.moves := rfl
@[simp] theorem setDie_cur (s : State) (a : Nat) (x : Die) : (s.setDie a x).cur = s.cur := rfl
@[simp] theorem setDie_mem (s : State) (a : Nat) (x : Die) : (s.setDie a x).mem = s.mem := rfl
@[simp] theorem setDie_marks (s : State) (a : Nat) (x : Die) : (s.setDie a x).marks = s.marks := rfl
@[simp] theorem setDie_cipher (s : State) (a : Nat) (x : Die) : (s.setDie a x).cipher = s.cipher := rfl
@[simp] theorem setDie_tags (s : State) (a : Nat) (x : Die) : (s.setDie a x).tags = s.tags := rfl
@[simp] theorem setDie_encOn (s : State) (a : Nat) (x : Die) : (s.setDie a x).encOn = s.encOn := rfl
@[simp] theorem setDie_nextKey (s : State) (a : Nat) (x : Die) : (s.setDie a x).nextKey = s.nextKey := rfl
@[simp] theorem setDie_frames (s : State) (a : Nat) (x : Die) : (s.setDie a x).frames = s.frames := rfl
@[simp] theorem setDie_ctxs (s : State) (a : Nat) (x : Die) : (s.setDie a x).ctxs = s.ctxs := rfl
@[simp] theorem setDie_groups (s : State) (a : Nat) (x : Die) : (s.setDie a x).groups = s.groups := rfl
@[simp] theorem setDie_cores (s : State) (a : Nat) (x : Die) : (s.setDie a x).cores = s.cores := rfl
@[simp] theorem setDie_hbmStacks (s : State) (a : Nat) (x : Die) : (s.setDie a x).hbmStacks = s.hbmStacks := rfl
@[simp] theorem setDie_teams (s : State) (a : Nat) (x : Die) : (s.setDie a x).teams = s.teams := rfl
@[simp] theorem setDie_grids (s : State) (a : Nat) (x : Die) : (s.setDie a x).grids = s.grids := rfl
@[simp] theorem setDie_rr (s : State) (a : Nat) (x : Die) : (s.setDie a x).rr = s.rr := rfl
@[simp] theorem setDie_ecmds (s : State) (a : Nat) (x : Die) : (s.setDie a x).ecmds = s.ecmds := rfl
@[simp] theorem setDie_nextCmd (s : State) (a : Nat) (x : Die) : (s.setDie a x).nextCmd = s.nextCmd := rfl
@[simp] theorem setDie_flows (s : State) (a : Nat) (x : Die) : (s.setDie a x).flows = s.flows := rfl
@[simp] theorem setDie_domains (s : State) (a : Nat) (x : Die) : (s.setDie a x).domains = s.domains := rfl
@[simp] theorem setDie_iters (s : State) (a : Nat) (x : Die) : (s.setDie a x).iters = s.iters := rfl
@[simp] theorem setDie_stable (s : State) (a : Nat) (x : Die) : (s.setDie a x).stable = s.stable := rfl
@[simp] theorem setDie_eqx (s : State) (a : Nat) (x : Die) : (s.setDie a x).eqx = s.eqx := rfl
@[simp] theorem setDie_events (s : State) (a : Nat) (x : Die) : (s.setDie a x).events = s.events := rfl
@[simp] theorem setDie_out (s : State) (a : Nat) (x : Die) : (s.setDie a x).out = s.out := rfl
@[simp] theorem setDie_mailbox (s : State) (a : Nat) (x : Die) : (s.setDie a x).mailbox = s.mailbox := rfl
@[simp] theorem setDie_inbox (s : State) (a : Nat) (x : Die) : (s.setDie a x).inbox = s.inbox := rfl
@[simp] theorem setDie_bar2 (s : State) (a : Nat) (x : Die) : (s.setDie a x).bar2 = s.bar2 := rfl
@[simp] theorem setDie_priQueue (s : State) (a : Nat) (x : Die) : (s.setDie a x).priQueue = s.priQueue := rfl
@[simp] theorem setDie_priOut (s : State) (a : Nat) (x : Die) : (s.setDie a x).priOut = s.priOut := rfl
@[simp] theorem setDie_ats (s : State) (a : Nat) (x : Die) : (s.setDie a x).ats = s.ats := rfl
@[simp] theorem setDie_atsQueue (s : State) (a : Nat) (x : Die) : (s.setDie a x).atsQueue = s.atsQueue := rfl
@[simp] theorem setDie_cap (s : State) (a : Nat) (x : Die) : (s.setDie a x).cap = s.cap := rfl
@[simp] theorem setDie_fw (s : State) (a : Nat) (x : Die) : (s.setDie a x).fw = s.fw := rfl
@[simp] theorem setDie_inReset (s : State) (a : Nat) (x : Die) : (s.setDie a x).inReset = s.inReset := rfl
@[simp] theorem setDie_scrubPeriod (s : State) (a : Nat) (x : Die) : (s.setDie a x).scrubPeriod = s.scrubPeriod := rfl
@[simp] theorem setDie_filterPeriod (s : State) (a : Nat) (x : Die) : (s.setDie a x).filterPeriod = s.filterPeriod := rfl
@[simp] theorem setDie_repeatAt (s : State) (a : Nat) (x : Die) : (s.setDie a x).repeatAt = s.repeatAt := rfl
@[simp] theorem setDie_vigil (s : State) (a : Nat) (x : Die) : (s.setDie a x).vigil = s.vigil := rfl
@[simp] theorem setDie_samples (s : State) (a : Nat) (x : Die) : (s.setDie a x).samples = s.samples := rfl
@[simp] theorem setDie_sampledAt (s : State) (a : Nat) (x : Die) : (s.setDie a x).sampledAt = s.sampledAt := rfl

/-! ### State.setStack -/

@[simp] theorem setStack_time (s : State) (a : Nat) (x : Stack) : (s.setStack a x).time = s.time := rfl
@[simp] theorem setStack_tick (s : State) (a : Nat) (x : Stack) : (s.setStack a x).tick = s.tick := rfl
@[simp] theorem setStack_moves (s : State) (a : Nat) (x : Stack) : (s.setStack a x).moves = s.moves := rfl
@[simp] theorem setStack_cur (s : State) (a : Nat) (x : Stack) : (s.setStack a x).cur = s.cur := rfl
@[simp] theorem setStack_mem (s : State) (a : Nat) (x : Stack) : (s.setStack a x).mem = s.mem := rfl
@[simp] theorem setStack_marks (s : State) (a : Nat) (x : Stack) : (s.setStack a x).marks = s.marks := rfl
@[simp] theorem setStack_cipher (s : State) (a : Nat) (x : Stack) : (s.setStack a x).cipher = s.cipher := rfl
@[simp] theorem setStack_tags (s : State) (a : Nat) (x : Stack) : (s.setStack a x).tags = s.tags := rfl
@[simp] theorem setStack_encOn (s : State) (a : Nat) (x : Stack) : (s.setStack a x).encOn = s.encOn := rfl
@[simp] theorem setStack_nextKey (s : State) (a : Nat) (x : Stack) : (s.setStack a x).nextKey = s.nextKey := rfl
@[simp] theorem setStack_frames (s : State) (a : Nat) (x : Stack) : (s.setStack a x).frames = s.frames := rfl
@[simp] theorem setStack_ctxs (s : State) (a : Nat) (x : Stack) : (s.setStack a x).ctxs = s.ctxs := rfl
@[simp] theorem setStack_groups (s : State) (a : Nat) (x : Stack) : (s.setStack a x).groups = s.groups := rfl
@[simp] theorem setStack_cores (s : State) (a : Nat) (x : Stack) : (s.setStack a x).cores = s.cores := rfl
@[simp] theorem setStack_dies (s : State) (a : Nat) (x : Stack) : (s.setStack a x).dies = s.dies := rfl
@[simp] theorem setStack_teams (s : State) (a : Nat) (x : Stack) : (s.setStack a x).teams = s.teams := rfl
@[simp] theorem setStack_grids (s : State) (a : Nat) (x : Stack) : (s.setStack a x).grids = s.grids := rfl
@[simp] theorem setStack_rr (s : State) (a : Nat) (x : Stack) : (s.setStack a x).rr = s.rr := rfl
@[simp] theorem setStack_ecmds (s : State) (a : Nat) (x : Stack) : (s.setStack a x).ecmds = s.ecmds := rfl
@[simp] theorem setStack_nextCmd (s : State) (a : Nat) (x : Stack) : (s.setStack a x).nextCmd = s.nextCmd := rfl
@[simp] theorem setStack_flows (s : State) (a : Nat) (x : Stack) : (s.setStack a x).flows = s.flows := rfl
@[simp] theorem setStack_domains (s : State) (a : Nat) (x : Stack) : (s.setStack a x).domains = s.domains := rfl
@[simp] theorem setStack_iters (s : State) (a : Nat) (x : Stack) : (s.setStack a x).iters = s.iters := rfl
@[simp] theorem setStack_stable (s : State) (a : Nat) (x : Stack) : (s.setStack a x).stable = s.stable := rfl
@[simp] theorem setStack_eqx (s : State) (a : Nat) (x : Stack) : (s.setStack a x).eqx = s.eqx := rfl
@[simp] theorem setStack_events (s : State) (a : Nat) (x : Stack) : (s.setStack a x).events = s.events := rfl
@[simp] theorem setStack_out (s : State) (a : Nat) (x : Stack) : (s.setStack a x).out = s.out := rfl
@[simp] theorem setStack_mailbox (s : State) (a : Nat) (x : Stack) : (s.setStack a x).mailbox = s.mailbox := rfl
@[simp] theorem setStack_inbox (s : State) (a : Nat) (x : Stack) : (s.setStack a x).inbox = s.inbox := rfl
@[simp] theorem setStack_bar2 (s : State) (a : Nat) (x : Stack) : (s.setStack a x).bar2 = s.bar2 := rfl
@[simp] theorem setStack_priQueue (s : State) (a : Nat) (x : Stack) : (s.setStack a x).priQueue = s.priQueue := rfl
@[simp] theorem setStack_priOut (s : State) (a : Nat) (x : Stack) : (s.setStack a x).priOut = s.priOut := rfl
@[simp] theorem setStack_ats (s : State) (a : Nat) (x : Stack) : (s.setStack a x).ats = s.ats := rfl
@[simp] theorem setStack_atsQueue (s : State) (a : Nat) (x : Stack) : (s.setStack a x).atsQueue = s.atsQueue := rfl
@[simp] theorem setStack_cap (s : State) (a : Nat) (x : Stack) : (s.setStack a x).cap = s.cap := rfl
@[simp] theorem setStack_fw (s : State) (a : Nat) (x : Stack) : (s.setStack a x).fw = s.fw := rfl
@[simp] theorem setStack_inReset (s : State) (a : Nat) (x : Stack) : (s.setStack a x).inReset = s.inReset := rfl
@[simp] theorem setStack_scrubPeriod (s : State) (a : Nat) (x : Stack) : (s.setStack a x).scrubPeriod = s.scrubPeriod := rfl
@[simp] theorem setStack_filterPeriod (s : State) (a : Nat) (x : Stack) : (s.setStack a x).filterPeriod = s.filterPeriod := rfl
@[simp] theorem setStack_repeatAt (s : State) (a : Nat) (x : Stack) : (s.setStack a x).repeatAt = s.repeatAt := rfl
@[simp] theorem setStack_vigil (s : State) (a : Nat) (x : Stack) : (s.setStack a x).vigil = s.vigil := rfl
@[simp] theorem setStack_samples (s : State) (a : Nat) (x : Stack) : (s.setStack a x).samples = s.samples := rfl
@[simp] theorem setStack_sampledAt (s : State) (a : Nat) (x : Stack) : (s.setStack a x).sampledAt = s.sampledAt := rfl

/-! ### State.setCtx -/

@[simp] theorem setCtx_time (s : State) (a : Nat) (x : Ctx) : (s.setCtx a x).time = s.time := rfl
@[simp] theorem setCtx_tick (s : State) (a : Nat) (x : Ctx) : (s.setCtx a x).tick = s.tick := rfl
@[simp] theorem setCtx_moves (s : State) (a : Nat) (x : Ctx) : (s.setCtx a x).moves = s.moves := rfl
@[simp] theorem setCtx_cur (s : State) (a : Nat) (x : Ctx) : (s.setCtx a x).cur = s.cur := rfl
@[simp] theorem setCtx_mem (s : State) (a : Nat) (x : Ctx) : (s.setCtx a x).mem = s.mem := rfl
@[simp] theorem setCtx_marks (s : State) (a : Nat) (x : Ctx) : (s.setCtx a x).marks = s.marks := rfl
@[simp] theorem setCtx_cipher (s : State) (a : Nat) (x : Ctx) : (s.setCtx a x).cipher = s.cipher := rfl
@[simp] theorem setCtx_tags (s : State) (a : Nat) (x : Ctx) : (s.setCtx a x).tags = s.tags := rfl
@[simp] theorem setCtx_encOn (s : State) (a : Nat) (x : Ctx) : (s.setCtx a x).encOn = s.encOn := rfl
@[simp] theorem setCtx_nextKey (s : State) (a : Nat) (x : Ctx) : (s.setCtx a x).nextKey = s.nextKey := rfl
@[simp] theorem setCtx_frames (s : State) (a : Nat) (x : Ctx) : (s.setCtx a x).frames = s.frames := rfl
@[simp] theorem setCtx_groups (s : State) (a : Nat) (x : Ctx) : (s.setCtx a x).groups = s.groups := rfl
@[simp] theorem setCtx_cores (s : State) (a : Nat) (x : Ctx) : (s.setCtx a x).cores = s.cores := rfl
@[simp] theorem setCtx_dies (s : State) (a : Nat) (x : Ctx) : (s.setCtx a x).dies = s.dies := rfl
@[simp] theorem setCtx_hbmStacks (s : State) (a : Nat) (x : Ctx) : (s.setCtx a x).hbmStacks = s.hbmStacks := rfl
@[simp] theorem setCtx_teams (s : State) (a : Nat) (x : Ctx) : (s.setCtx a x).teams = s.teams := rfl
@[simp] theorem setCtx_grids (s : State) (a : Nat) (x : Ctx) : (s.setCtx a x).grids = s.grids := rfl
@[simp] theorem setCtx_rr (s : State) (a : Nat) (x : Ctx) : (s.setCtx a x).rr = s.rr := rfl
@[simp] theorem setCtx_ecmds (s : State) (a : Nat) (x : Ctx) : (s.setCtx a x).ecmds = s.ecmds := rfl
@[simp] theorem setCtx_nextCmd (s : State) (a : Nat) (x : Ctx) : (s.setCtx a x).nextCmd = s.nextCmd := rfl
@[simp] theorem setCtx_flows (s : State) (a : Nat) (x : Ctx) : (s.setCtx a x).flows = s.flows := rfl
@[simp] theorem setCtx_domains (s : State) (a : Nat) (x : Ctx) : (s.setCtx a x).domains = s.domains := rfl
@[simp] theorem setCtx_iters (s : State) (a : Nat) (x : Ctx) : (s.setCtx a x).iters = s.iters := rfl
@[simp] theorem setCtx_stable (s : State) (a : Nat) (x : Ctx) : (s.setCtx a x).stable = s.stable := rfl
@[simp] theorem setCtx_eqx (s : State) (a : Nat) (x : Ctx) : (s.setCtx a x).eqx = s.eqx := rfl
@[simp] theorem setCtx_events (s : State) (a : Nat) (x : Ctx) : (s.setCtx a x).events = s.events := rfl
@[simp] theorem setCtx_out (s : State) (a : Nat) (x : Ctx) : (s.setCtx a x).out = s.out := rfl
@[simp] theorem setCtx_mailbox (s : State) (a : Nat) (x : Ctx) : (s.setCtx a x).mailbox = s.mailbox := rfl
@[simp] theorem setCtx_inbox (s : State) (a : Nat) (x : Ctx) : (s.setCtx a x).inbox = s.inbox := rfl
@[simp] theorem setCtx_bar2 (s : State) (a : Nat) (x : Ctx) : (s.setCtx a x).bar2 = s.bar2 := rfl
@[simp] theorem setCtx_priQueue (s : State) (a : Nat) (x : Ctx) : (s.setCtx a x).priQueue = s.priQueue := rfl
@[simp] theorem setCtx_priOut (s : State) (a : Nat) (x : Ctx) : (s.setCtx a x).priOut = s.priOut := rfl
@[simp] theorem setCtx_ats (s : State) (a : Nat) (x : Ctx) : (s.setCtx a x).ats = s.ats := rfl
@[simp] theorem setCtx_atsQueue (s : State) (a : Nat) (x : Ctx) : (s.setCtx a x).atsQueue = s.atsQueue := rfl
@[simp] theorem setCtx_cap (s : State) (a : Nat) (x : Ctx) : (s.setCtx a x).cap = s.cap := rfl
@[simp] theorem setCtx_fw (s : State) (a : Nat) (x : Ctx) : (s.setCtx a x).fw = s.fw := rfl
@[simp] theorem setCtx_inReset (s : State) (a : Nat) (x : Ctx) : (s.setCtx a x).inReset = s.inReset := rfl
@[simp] theorem setCtx_scrubPeriod (s : State) (a : Nat) (x : Ctx) : (s.setCtx a x).scrubPeriod = s.scrubPeriod := rfl
@[simp] theorem setCtx_filterPeriod (s : State) (a : Nat) (x : Ctx) : (s.setCtx a x).filterPeriod = s.filterPeriod := rfl
@[simp] theorem setCtx_repeatAt (s : State) (a : Nat) (x : Ctx) : (s.setCtx a x).repeatAt = s.repeatAt := rfl
@[simp] theorem setCtx_vigil (s : State) (a : Nat) (x : Ctx) : (s.setCtx a x).vigil = s.vigil := rfl
@[simp] theorem setCtx_samples (s : State) (a : Nat) (x : Ctx) : (s.setCtx a x).samples = s.samples := rfl
@[simp] theorem setCtx_sampledAt (s : State) (a : Nat) (x : Ctx) : (s.setCtx a x).sampledAt = s.sampledAt := rfl

/-! ### State.setFlow -/

@[simp] theorem setFlow_time (s : State) (a : Nat) (x : Flow) : (s.setFlow a x).time = s.time := rfl
@[simp] theorem setFlow_tick (s : State) (a : Nat) (x : Flow) : (s.setFlow a x).tick = s.tick := rfl
@[simp] theorem setFlow_moves (s : State) (a : Nat) (x : Flow) : (s.setFlow a x).moves = s.moves := rfl
@[simp] theorem setFlow_cur (s : State) (a : Nat) (x : Flow) : (s.setFlow a x).cur = s.cur := rfl
@[simp] theorem setFlow_mem (s : State) (a : Nat) (x : Flow) : (s.setFlow a x).mem = s.mem := rfl
@[simp] theorem setFlow_marks (s : State) (a : Nat) (x : Flow) : (s.setFlow a x).marks = s.marks := rfl
@[simp] theorem setFlow_cipher (s : State) (a : Nat) (x : Flow) : (s.setFlow a x).cipher = s.cipher := rfl
@[simp] theorem setFlow_tags (s : State) (a : Nat) (x : Flow) : (s.setFlow a x).tags = s.tags := rfl
@[simp] theorem setFlow_encOn (s : State) (a : Nat) (x : Flow) : (s.setFlow a x).encOn = s.encOn := rfl
@[simp] theorem setFlow_nextKey (s : State) (a : Nat) (x : Flow) : (s.setFlow a x).nextKey = s.nextKey := rfl
@[simp] theorem setFlow_frames (s : State) (a : Nat) (x : Flow) : (s.setFlow a x).frames = s.frames := rfl
@[simp] theorem setFlow_ctxs (s : State) (a : Nat) (x : Flow) : (s.setFlow a x).ctxs = s.ctxs := rfl
@[simp] theorem setFlow_groups (s : State) (a : Nat) (x : Flow) : (s.setFlow a x).groups = s.groups := rfl
@[simp] theorem setFlow_cores (s : State) (a : Nat) (x : Flow) : (s.setFlow a x).cores = s.cores := rfl
@[simp] theorem setFlow_dies (s : State) (a : Nat) (x : Flow) : (s.setFlow a x).dies = s.dies := rfl
@[simp] theorem setFlow_hbmStacks (s : State) (a : Nat) (x : Flow) : (s.setFlow a x).hbmStacks = s.hbmStacks := rfl
@[simp] theorem setFlow_teams (s : State) (a : Nat) (x : Flow) : (s.setFlow a x).teams = s.teams := rfl
@[simp] theorem setFlow_grids (s : State) (a : Nat) (x : Flow) : (s.setFlow a x).grids = s.grids := rfl
@[simp] theorem setFlow_rr (s : State) (a : Nat) (x : Flow) : (s.setFlow a x).rr = s.rr := rfl
@[simp] theorem setFlow_ecmds (s : State) (a : Nat) (x : Flow) : (s.setFlow a x).ecmds = s.ecmds := rfl
@[simp] theorem setFlow_nextCmd (s : State) (a : Nat) (x : Flow) : (s.setFlow a x).nextCmd = s.nextCmd := rfl
@[simp] theorem setFlow_domains (s : State) (a : Nat) (x : Flow) : (s.setFlow a x).domains = s.domains := rfl
@[simp] theorem setFlow_iters (s : State) (a : Nat) (x : Flow) : (s.setFlow a x).iters = s.iters := rfl
@[simp] theorem setFlow_stable (s : State) (a : Nat) (x : Flow) : (s.setFlow a x).stable = s.stable := rfl
@[simp] theorem setFlow_eqx (s : State) (a : Nat) (x : Flow) : (s.setFlow a x).eqx = s.eqx := rfl
@[simp] theorem setFlow_events (s : State) (a : Nat) (x : Flow) : (s.setFlow a x).events = s.events := rfl
@[simp] theorem setFlow_out (s : State) (a : Nat) (x : Flow) : (s.setFlow a x).out = s.out := rfl
@[simp] theorem setFlow_mailbox (s : State) (a : Nat) (x : Flow) : (s.setFlow a x).mailbox = s.mailbox := rfl
@[simp] theorem setFlow_inbox (s : State) (a : Nat) (x : Flow) : (s.setFlow a x).inbox = s.inbox := rfl
@[simp] theorem setFlow_bar2 (s : State) (a : Nat) (x : Flow) : (s.setFlow a x).bar2 = s.bar2 := rfl
@[simp] theorem setFlow_priQueue (s : State) (a : Nat) (x : Flow) : (s.setFlow a x).priQueue = s.priQueue := rfl
@[simp] theorem setFlow_priOut (s : State) (a : Nat) (x : Flow) : (s.setFlow a x).priOut = s.priOut := rfl
@[simp] theorem setFlow_ats (s : State) (a : Nat) (x : Flow) : (s.setFlow a x).ats = s.ats := rfl
@[simp] theorem setFlow_atsQueue (s : State) (a : Nat) (x : Flow) : (s.setFlow a x).atsQueue = s.atsQueue := rfl
@[simp] theorem setFlow_cap (s : State) (a : Nat) (x : Flow) : (s.setFlow a x).cap = s.cap := rfl
@[simp] theorem setFlow_fw (s : State) (a : Nat) (x : Flow) : (s.setFlow a x).fw = s.fw := rfl
@[simp] theorem setFlow_inReset (s : State) (a : Nat) (x : Flow) : (s.setFlow a x).inReset = s.inReset := rfl
@[simp] theorem setFlow_scrubPeriod (s : State) (a : Nat) (x : Flow) : (s.setFlow a x).scrubPeriod = s.scrubPeriod := rfl
@[simp] theorem setFlow_filterPeriod (s : State) (a : Nat) (x : Flow) : (s.setFlow a x).filterPeriod = s.filterPeriod := rfl
@[simp] theorem setFlow_repeatAt (s : State) (a : Nat) (x : Flow) : (s.setFlow a x).repeatAt = s.repeatAt := rfl
@[simp] theorem setFlow_vigil (s : State) (a : Nat) (x : Flow) : (s.setFlow a x).vigil = s.vigil := rfl
@[simp] theorem setFlow_samples (s : State) (a : Nat) (x : Flow) : (s.setFlow a x).samples = s.samples := rfl
@[simp] theorem setFlow_sampledAt (s : State) (a : Nat) (x : Flow) : (s.setFlow a x).sampledAt = s.sampledAt := rfl

/-! ### State.setTeam -/

@[simp] theorem setTeam_time (s : State) (a : Nat) (x : Team) : (s.setTeam a x).time = s.time := rfl
@[simp] theorem setTeam_tick (s : State) (a : Nat) (x : Team) : (s.setTeam a x).tick = s.tick := rfl
@[simp] theorem setTeam_moves (s : State) (a : Nat) (x : Team) : (s.setTeam a x).moves = s.moves := rfl
@[simp] theorem setTeam_cur (s : State) (a : Nat) (x : Team) : (s.setTeam a x).cur = s.cur := rfl
@[simp] theorem setTeam_mem (s : State) (a : Nat) (x : Team) : (s.setTeam a x).mem = s.mem := rfl
@[simp] theorem setTeam_marks (s : State) (a : Nat) (x : Team) : (s.setTeam a x).marks = s.marks := rfl
@[simp] theorem setTeam_cipher (s : State) (a : Nat) (x : Team) : (s.setTeam a x).cipher = s.cipher := rfl
@[simp] theorem setTeam_tags (s : State) (a : Nat) (x : Team) : (s.setTeam a x).tags = s.tags := rfl
@[simp] theorem setTeam_encOn (s : State) (a : Nat) (x : Team) : (s.setTeam a x).encOn = s.encOn := rfl
@[simp] theorem setTeam_nextKey (s : State) (a : Nat) (x : Team) : (s.setTeam a x).nextKey = s.nextKey := rfl
@[simp] theorem setTeam_frames (s : State) (a : Nat) (x : Team) : (s.setTeam a x).frames = s.frames := rfl
@[simp] theorem setTeam_ctxs (s : State) (a : Nat) (x : Team) : (s.setTeam a x).ctxs = s.ctxs := rfl
@[simp] theorem setTeam_groups (s : State) (a : Nat) (x : Team) : (s.setTeam a x).groups = s.groups := rfl
@[simp] theorem setTeam_cores (s : State) (a : Nat) (x : Team) : (s.setTeam a x).cores = s.cores := rfl
@[simp] theorem setTeam_dies (s : State) (a : Nat) (x : Team) : (s.setTeam a x).dies = s.dies := rfl
@[simp] theorem setTeam_hbmStacks (s : State) (a : Nat) (x : Team) : (s.setTeam a x).hbmStacks = s.hbmStacks := rfl
@[simp] theorem setTeam_grids (s : State) (a : Nat) (x : Team) : (s.setTeam a x).grids = s.grids := rfl
@[simp] theorem setTeam_rr (s : State) (a : Nat) (x : Team) : (s.setTeam a x).rr = s.rr := rfl
@[simp] theorem setTeam_ecmds (s : State) (a : Nat) (x : Team) : (s.setTeam a x).ecmds = s.ecmds := rfl
@[simp] theorem setTeam_nextCmd (s : State) (a : Nat) (x : Team) : (s.setTeam a x).nextCmd = s.nextCmd := rfl
@[simp] theorem setTeam_flows (s : State) (a : Nat) (x : Team) : (s.setTeam a x).flows = s.flows := rfl
@[simp] theorem setTeam_domains (s : State) (a : Nat) (x : Team) : (s.setTeam a x).domains = s.domains := rfl
@[simp] theorem setTeam_iters (s : State) (a : Nat) (x : Team) : (s.setTeam a x).iters = s.iters := rfl
@[simp] theorem setTeam_stable (s : State) (a : Nat) (x : Team) : (s.setTeam a x).stable = s.stable := rfl
@[simp] theorem setTeam_eqx (s : State) (a : Nat) (x : Team) : (s.setTeam a x).eqx = s.eqx := rfl
@[simp] theorem setTeam_events (s : State) (a : Nat) (x : Team) : (s.setTeam a x).events = s.events := rfl
@[simp] theorem setTeam_out (s : State) (a : Nat) (x : Team) : (s.setTeam a x).out = s.out := rfl
@[simp] theorem setTeam_mailbox (s : State) (a : Nat) (x : Team) : (s.setTeam a x).mailbox = s.mailbox := rfl
@[simp] theorem setTeam_inbox (s : State) (a : Nat) (x : Team) : (s.setTeam a x).inbox = s.inbox := rfl
@[simp] theorem setTeam_bar2 (s : State) (a : Nat) (x : Team) : (s.setTeam a x).bar2 = s.bar2 := rfl
@[simp] theorem setTeam_priQueue (s : State) (a : Nat) (x : Team) : (s.setTeam a x).priQueue = s.priQueue := rfl
@[simp] theorem setTeam_priOut (s : State) (a : Nat) (x : Team) : (s.setTeam a x).priOut = s.priOut := rfl
@[simp] theorem setTeam_ats (s : State) (a : Nat) (x : Team) : (s.setTeam a x).ats = s.ats := rfl
@[simp] theorem setTeam_atsQueue (s : State) (a : Nat) (x : Team) : (s.setTeam a x).atsQueue = s.atsQueue := rfl
@[simp] theorem setTeam_cap (s : State) (a : Nat) (x : Team) : (s.setTeam a x).cap = s.cap := rfl
@[simp] theorem setTeam_fw (s : State) (a : Nat) (x : Team) : (s.setTeam a x).fw = s.fw := rfl
@[simp] theorem setTeam_inReset (s : State) (a : Nat) (x : Team) : (s.setTeam a x).inReset = s.inReset := rfl
@[simp] theorem setTeam_scrubPeriod (s : State) (a : Nat) (x : Team) : (s.setTeam a x).scrubPeriod = s.scrubPeriod := rfl
@[simp] theorem setTeam_filterPeriod (s : State) (a : Nat) (x : Team) : (s.setTeam a x).filterPeriod = s.filterPeriod := rfl
@[simp] theorem setTeam_repeatAt (s : State) (a : Nat) (x : Team) : (s.setTeam a x).repeatAt = s.repeatAt := rfl
@[simp] theorem setTeam_vigil (s : State) (a : Nat) (x : Team) : (s.setTeam a x).vigil = s.vigil := rfl
@[simp] theorem setTeam_samples (s : State) (a : Nat) (x : Team) : (s.setTeam a x).samples = s.samples := rfl
@[simp] theorem setTeam_sampledAt (s : State) (a : Nat) (x : Team) : (s.setTeam a x).sampledAt = s.sampledAt := rfl

/-! ### State.setGrid -/

@[simp] theorem setGrid_time (s : State) (a : Nat) (x : Grid) : (s.setGrid a x).time = s.time := rfl
@[simp] theorem setGrid_tick (s : State) (a : Nat) (x : Grid) : (s.setGrid a x).tick = s.tick := rfl
@[simp] theorem setGrid_moves (s : State) (a : Nat) (x : Grid) : (s.setGrid a x).moves = s.moves := rfl
@[simp] theorem setGrid_cur (s : State) (a : Nat) (x : Grid) : (s.setGrid a x).cur = s.cur := rfl
@[simp] theorem setGrid_mem (s : State) (a : Nat) (x : Grid) : (s.setGrid a x).mem = s.mem := rfl
@[simp] theorem setGrid_marks (s : State) (a : Nat) (x : Grid) : (s.setGrid a x).marks = s.marks := rfl
@[simp] theorem setGrid_cipher (s : State) (a : Nat) (x : Grid) : (s.setGrid a x).cipher = s.cipher := rfl
@[simp] theorem setGrid_tags (s : State) (a : Nat) (x : Grid) : (s.setGrid a x).tags = s.tags := rfl
@[simp] theorem setGrid_encOn (s : State) (a : Nat) (x : Grid) : (s.setGrid a x).encOn = s.encOn := rfl
@[simp] theorem setGrid_nextKey (s : State) (a : Nat) (x : Grid) : (s.setGrid a x).nextKey = s.nextKey := rfl
@[simp] theorem setGrid_frames (s : State) (a : Nat) (x : Grid) : (s.setGrid a x).frames = s.frames := rfl
@[simp] theorem setGrid_ctxs (s : State) (a : Nat) (x : Grid) : (s.setGrid a x).ctxs = s.ctxs := rfl
@[simp] theorem setGrid_groups (s : State) (a : Nat) (x : Grid) : (s.setGrid a x).groups = s.groups := rfl
@[simp] theorem setGrid_cores (s : State) (a : Nat) (x : Grid) : (s.setGrid a x).cores = s.cores := rfl
@[simp] theorem setGrid_dies (s : State) (a : Nat) (x : Grid) : (s.setGrid a x).dies = s.dies := rfl
@[simp] theorem setGrid_hbmStacks (s : State) (a : Nat) (x : Grid) : (s.setGrid a x).hbmStacks = s.hbmStacks := rfl
@[simp] theorem setGrid_teams (s : State) (a : Nat) (x : Grid) : (s.setGrid a x).teams = s.teams := rfl
@[simp] theorem setGrid_rr (s : State) (a : Nat) (x : Grid) : (s.setGrid a x).rr = s.rr := rfl
@[simp] theorem setGrid_ecmds (s : State) (a : Nat) (x : Grid) : (s.setGrid a x).ecmds = s.ecmds := rfl
@[simp] theorem setGrid_nextCmd (s : State) (a : Nat) (x : Grid) : (s.setGrid a x).nextCmd = s.nextCmd := rfl
@[simp] theorem setGrid_flows (s : State) (a : Nat) (x : Grid) : (s.setGrid a x).flows = s.flows := rfl
@[simp] theorem setGrid_domains (s : State) (a : Nat) (x : Grid) : (s.setGrid a x).domains = s.domains := rfl
@[simp] theorem setGrid_iters (s : State) (a : Nat) (x : Grid) : (s.setGrid a x).iters = s.iters := rfl
@[simp] theorem setGrid_stable (s : State) (a : Nat) (x : Grid) : (s.setGrid a x).stable = s.stable := rfl
@[simp] theorem setGrid_eqx (s : State) (a : Nat) (x : Grid) : (s.setGrid a x).eqx = s.eqx := rfl
@[simp] theorem setGrid_events (s : State) (a : Nat) (x : Grid) : (s.setGrid a x).events = s.events := rfl
@[simp] theorem setGrid_out (s : State) (a : Nat) (x : Grid) : (s.setGrid a x).out = s.out := rfl
@[simp] theorem setGrid_mailbox (s : State) (a : Nat) (x : Grid) : (s.setGrid a x).mailbox = s.mailbox := rfl
@[simp] theorem setGrid_inbox (s : State) (a : Nat) (x : Grid) : (s.setGrid a x).inbox = s.inbox := rfl
@[simp] theorem setGrid_bar2 (s : State) (a : Nat) (x : Grid) : (s.setGrid a x).bar2 = s.bar2 := rfl
@[simp] theorem setGrid_priQueue (s : State) (a : Nat) (x : Grid) : (s.setGrid a x).priQueue = s.priQueue := rfl
@[simp] theorem setGrid_priOut (s : State) (a : Nat) (x : Grid) : (s.setGrid a x).priOut = s.priOut := rfl
@[simp] theorem setGrid_ats (s : State) (a : Nat) (x : Grid) : (s.setGrid a x).ats = s.ats := rfl
@[simp] theorem setGrid_atsQueue (s : State) (a : Nat) (x : Grid) : (s.setGrid a x).atsQueue = s.atsQueue := rfl
@[simp] theorem setGrid_cap (s : State) (a : Nat) (x : Grid) : (s.setGrid a x).cap = s.cap := rfl
@[simp] theorem setGrid_fw (s : State) (a : Nat) (x : Grid) : (s.setGrid a x).fw = s.fw := rfl
@[simp] theorem setGrid_inReset (s : State) (a : Nat) (x : Grid) : (s.setGrid a x).inReset = s.inReset := rfl
@[simp] theorem setGrid_scrubPeriod (s : State) (a : Nat) (x : Grid) : (s.setGrid a x).scrubPeriod = s.scrubPeriod := rfl
@[simp] theorem setGrid_filterPeriod (s : State) (a : Nat) (x : Grid) : (s.setGrid a x).filterPeriod = s.filterPeriod := rfl
@[simp] theorem setGrid_repeatAt (s : State) (a : Nat) (x : Grid) : (s.setGrid a x).repeatAt = s.repeatAt := rfl
@[simp] theorem setGrid_vigil (s : State) (a : Nat) (x : Grid) : (s.setGrid a x).vigil = s.vigil := rfl
@[simp] theorem setGrid_samples (s : State) (a : Nat) (x : Grid) : (s.setGrid a x).samples = s.samples := rfl
@[simp] theorem setGrid_sampledAt (s : State) (a : Nat) (x : Grid) : (s.setGrid a x).sampledAt = s.sampledAt := rfl

/-! ### State.event -/

@[simp] theorem event_time (s : State) (x : MgmtEvent) : (s.event x).time = s.time := rfl
@[simp] theorem event_tick (s : State) (x : MgmtEvent) : (s.event x).tick = s.tick := rfl
@[simp] theorem event_moves (s : State) (x : MgmtEvent) : (s.event x).moves = s.moves := rfl
@[simp] theorem event_cur (s : State) (x : MgmtEvent) : (s.event x).cur = s.cur := rfl
@[simp] theorem event_mem (s : State) (x : MgmtEvent) : (s.event x).mem = s.mem := rfl
@[simp] theorem event_marks (s : State) (x : MgmtEvent) : (s.event x).marks = s.marks := rfl
@[simp] theorem event_cipher (s : State) (x : MgmtEvent) : (s.event x).cipher = s.cipher := rfl
@[simp] theorem event_tags (s : State) (x : MgmtEvent) : (s.event x).tags = s.tags := rfl
@[simp] theorem event_encOn (s : State) (x : MgmtEvent) : (s.event x).encOn = s.encOn := rfl
@[simp] theorem event_nextKey (s : State) (x : MgmtEvent) : (s.event x).nextKey = s.nextKey := rfl
@[simp] theorem event_frames (s : State) (x : MgmtEvent) : (s.event x).frames = s.frames := rfl
@[simp] theorem event_ctxs (s : State) (x : MgmtEvent) : (s.event x).ctxs = s.ctxs := rfl
@[simp] theorem event_groups (s : State) (x : MgmtEvent) : (s.event x).groups = s.groups := rfl
@[simp] theorem event_cores (s : State) (x : MgmtEvent) : (s.event x).cores = s.cores := rfl
@[simp] theorem event_dies (s : State) (x : MgmtEvent) : (s.event x).dies = s.dies := rfl
@[simp] theorem event_hbmStacks (s : State) (x : MgmtEvent) : (s.event x).hbmStacks = s.hbmStacks := rfl
@[simp] theorem event_teams (s : State) (x : MgmtEvent) : (s.event x).teams = s.teams := rfl
@[simp] theorem event_grids (s : State) (x : MgmtEvent) : (s.event x).grids = s.grids := rfl
@[simp] theorem event_rr (s : State) (x : MgmtEvent) : (s.event x).rr = s.rr := rfl
@[simp] theorem event_ecmds (s : State) (x : MgmtEvent) : (s.event x).ecmds = s.ecmds := rfl
@[simp] theorem event_nextCmd (s : State) (x : MgmtEvent) : (s.event x).nextCmd = s.nextCmd := rfl
@[simp] theorem event_flows (s : State) (x : MgmtEvent) : (s.event x).flows = s.flows := rfl
@[simp] theorem event_domains (s : State) (x : MgmtEvent) : (s.event x).domains = s.domains := rfl
@[simp] theorem event_iters (s : State) (x : MgmtEvent) : (s.event x).iters = s.iters := rfl
@[simp] theorem event_stable (s : State) (x : MgmtEvent) : (s.event x).stable = s.stable := rfl
@[simp] theorem event_eqx (s : State) (x : MgmtEvent) : (s.event x).eqx = s.eqx := rfl
@[simp] theorem event_out (s : State) (x : MgmtEvent) : (s.event x).out = s.out := rfl
@[simp] theorem event_mailbox (s : State) (x : MgmtEvent) : (s.event x).mailbox = s.mailbox := rfl
@[simp] theorem event_inbox (s : State) (x : MgmtEvent) : (s.event x).inbox = s.inbox := rfl
@[simp] theorem event_bar2 (s : State) (x : MgmtEvent) : (s.event x).bar2 = s.bar2 := rfl
@[simp] theorem event_priQueue (s : State) (x : MgmtEvent) : (s.event x).priQueue = s.priQueue := rfl
@[simp] theorem event_priOut (s : State) (x : MgmtEvent) : (s.event x).priOut = s.priOut := rfl
@[simp] theorem event_ats (s : State) (x : MgmtEvent) : (s.event x).ats = s.ats := rfl
@[simp] theorem event_atsQueue (s : State) (x : MgmtEvent) : (s.event x).atsQueue = s.atsQueue := rfl
@[simp] theorem event_cap (s : State) (x : MgmtEvent) : (s.event x).cap = s.cap := rfl
@[simp] theorem event_fw (s : State) (x : MgmtEvent) : (s.event x).fw = s.fw := rfl
@[simp] theorem event_inReset (s : State) (x : MgmtEvent) : (s.event x).inReset = s.inReset := rfl
@[simp] theorem event_scrubPeriod (s : State) (x : MgmtEvent) : (s.event x).scrubPeriod = s.scrubPeriod := rfl
@[simp] theorem event_filterPeriod (s : State) (x : MgmtEvent) : (s.event x).filterPeriod = s.filterPeriod := rfl
@[simp] theorem event_repeatAt (s : State) (x : MgmtEvent) : (s.event x).repeatAt = s.repeatAt := rfl
@[simp] theorem event_vigil (s : State) (x : MgmtEvent) : (s.event x).vigil = s.vigil := rfl
@[simp] theorem event_samples (s : State) (x : MgmtEvent) : (s.event x).samples = s.samples := rfl
@[simp] theorem event_sampledAt (s : State) (x : MgmtEvent) : (s.event x).sampledAt = s.sampledAt := rfl

/-! ### State.send -/

@[simp] theorem send_time (s : State) (x : Out) : (s.send x).time = s.time := rfl
@[simp] theorem send_tick (s : State) (x : Out) : (s.send x).tick = s.tick := rfl
@[simp] theorem send_moves (s : State) (x : Out) : (s.send x).moves = s.moves := rfl
@[simp] theorem send_cur (s : State) (x : Out) : (s.send x).cur = s.cur := rfl
@[simp] theorem send_mem (s : State) (x : Out) : (s.send x).mem = s.mem := rfl
@[simp] theorem send_marks (s : State) (x : Out) : (s.send x).marks = s.marks := rfl
@[simp] theorem send_cipher (s : State) (x : Out) : (s.send x).cipher = s.cipher := rfl
@[simp] theorem send_tags (s : State) (x : Out) : (s.send x).tags = s.tags := rfl
@[simp] theorem send_encOn (s : State) (x : Out) : (s.send x).encOn = s.encOn := rfl
@[simp] theorem send_nextKey (s : State) (x : Out) : (s.send x).nextKey = s.nextKey := rfl
@[simp] theorem send_frames (s : State) (x : Out) : (s.send x).frames = s.frames := rfl
@[simp] theorem send_ctxs (s : State) (x : Out) : (s.send x).ctxs = s.ctxs := rfl
@[simp] theorem send_groups (s : State) (x : Out) : (s.send x).groups = s.groups := rfl
@[simp] theorem send_cores (s : State) (x : Out) : (s.send x).cores = s.cores := rfl
@[simp] theorem send_dies (s : State) (x : Out) : (s.send x).dies = s.dies := rfl
@[simp] theorem send_hbmStacks (s : State) (x : Out) : (s.send x).hbmStacks = s.hbmStacks := rfl
@[simp] theorem send_teams (s : State) (x : Out) : (s.send x).teams = s.teams := rfl
@[simp] theorem send_grids (s : State) (x : Out) : (s.send x).grids = s.grids := rfl
@[simp] theorem send_rr (s : State) (x : Out) : (s.send x).rr = s.rr := rfl
@[simp] theorem send_ecmds (s : State) (x : Out) : (s.send x).ecmds = s.ecmds := rfl
@[simp] theorem send_nextCmd (s : State) (x : Out) : (s.send x).nextCmd = s.nextCmd := rfl
@[simp] theorem send_flows (s : State) (x : Out) : (s.send x).flows = s.flows := rfl
@[simp] theorem send_domains (s : State) (x : Out) : (s.send x).domains = s.domains := rfl
@[simp] theorem send_iters (s : State) (x : Out) : (s.send x).iters = s.iters := rfl
@[simp] theorem send_stable (s : State) (x : Out) : (s.send x).stable = s.stable := rfl
@[simp] theorem send_eqx (s : State) (x : Out) : (s.send x).eqx = s.eqx := rfl
@[simp] theorem send_events (s : State) (x : Out) : (s.send x).events = s.events := rfl
@[simp] theorem send_mailbox (s : State) (x : Out) : (s.send x).mailbox = s.mailbox := rfl
@[simp] theorem send_inbox (s : State) (x : Out) : (s.send x).inbox = s.inbox := rfl
@[simp] theorem send_bar2 (s : State) (x : Out) : (s.send x).bar2 = s.bar2 := rfl
@[simp] theorem send_priQueue (s : State) (x : Out) : (s.send x).priQueue = s.priQueue := rfl
@[simp] theorem send_priOut (s : State) (x : Out) : (s.send x).priOut = s.priOut := rfl
@[simp] theorem send_ats (s : State) (x : Out) : (s.send x).ats = s.ats := rfl
@[simp] theorem send_atsQueue (s : State) (x : Out) : (s.send x).atsQueue = s.atsQueue := rfl
@[simp] theorem send_cap (s : State) (x : Out) : (s.send x).cap = s.cap := rfl
@[simp] theorem send_fw (s : State) (x : Out) : (s.send x).fw = s.fw := rfl
@[simp] theorem send_inReset (s : State) (x : Out) : (s.send x).inReset = s.inReset := rfl
@[simp] theorem send_scrubPeriod (s : State) (x : Out) : (s.send x).scrubPeriod = s.scrubPeriod := rfl
@[simp] theorem send_filterPeriod (s : State) (x : Out) : (s.send x).filterPeriod = s.filterPeriod := rfl
@[simp] theorem send_repeatAt (s : State) (x : Out) : (s.send x).repeatAt = s.repeatAt := rfl
@[simp] theorem send_vigil (s : State) (x : Out) : (s.send x).vigil = s.vigil := rfl
@[simp] theorem send_samples (s : State) (x : Out) : (s.send x).samples = s.samples := rfl
@[simp] theorem send_sampledAt (s : State) (x : Out) : (s.send x).sampledAt = s.sampledAt := rfl

/-! ### State.nextPc -/

@[simp] theorem nextPc_time (s : State) : (s.nextPc).time = s.time := rfl
@[simp] theorem nextPc_tick (s : State) : (s.nextPc).tick = s.tick := rfl
@[simp] theorem nextPc_moves (s : State) : (s.nextPc).moves = s.moves := rfl
@[simp] theorem nextPc_cur (s : State) : (s.nextPc).cur = s.cur := rfl
@[simp] theorem nextPc_mem (s : State) : (s.nextPc).mem = s.mem := rfl
@[simp] theorem nextPc_marks (s : State) : (s.nextPc).marks = s.marks := rfl
@[simp] theorem nextPc_cipher (s : State) : (s.nextPc).cipher = s.cipher := rfl
@[simp] theorem nextPc_tags (s : State) : (s.nextPc).tags = s.tags := rfl
@[simp] theorem nextPc_encOn (s : State) : (s.nextPc).encOn = s.encOn := rfl
@[simp] theorem nextPc_nextKey (s : State) : (s.nextPc).nextKey = s.nextKey := rfl
@[simp] theorem nextPc_frames (s : State) : (s.nextPc).frames = s.frames := rfl
@[simp] theorem nextPc_ctxs (s : State) : (s.nextPc).ctxs = s.ctxs := rfl
@[simp] theorem nextPc_cores (s : State) : (s.nextPc).cores = s.cores := rfl
@[simp] theorem nextPc_dies (s : State) : (s.nextPc).dies = s.dies := rfl
@[simp] theorem nextPc_hbmStacks (s : State) : (s.nextPc).hbmStacks = s.hbmStacks := rfl
@[simp] theorem nextPc_teams (s : State) : (s.nextPc).teams = s.teams := rfl
@[simp] theorem nextPc_grids (s : State) : (s.nextPc).grids = s.grids := rfl
@[simp] theorem nextPc_rr (s : State) : (s.nextPc).rr = s.rr := rfl
@[simp] theorem nextPc_ecmds (s : State) : (s.nextPc).ecmds = s.ecmds := rfl
@[simp] theorem nextPc_nextCmd (s : State) : (s.nextPc).nextCmd = s.nextCmd := rfl
@[simp] theorem nextPc_flows (s : State) : (s.nextPc).flows = s.flows := rfl
@[simp] theorem nextPc_domains (s : State) : (s.nextPc).domains = s.domains := rfl
@[simp] theorem nextPc_iters (s : State) : (s.nextPc).iters = s.iters := rfl
@[simp] theorem nextPc_stable (s : State) : (s.nextPc).stable = s.stable := rfl
@[simp] theorem nextPc_eqx (s : State) : (s.nextPc).eqx = s.eqx := rfl
@[simp] theorem nextPc_events (s : State) : (s.nextPc).events = s.events := rfl
@[simp] theorem nextPc_out (s : State) : (s.nextPc).out = s.out := rfl
@[simp] theorem nextPc_mailbox (s : State) : (s.nextPc).mailbox = s.mailbox := rfl
@[simp] theorem nextPc_inbox (s : State) : (s.nextPc).inbox = s.inbox := rfl
@[simp] theorem nextPc_bar2 (s : State) : (s.nextPc).bar2 = s.bar2 := rfl
@[simp] theorem nextPc_priQueue (s : State) : (s.nextPc).priQueue = s.priQueue := rfl
@[simp] theorem nextPc_priOut (s : State) : (s.nextPc).priOut = s.priOut := rfl
@[simp] theorem nextPc_ats (s : State) : (s.nextPc).ats = s.ats := rfl
@[simp] theorem nextPc_atsQueue (s : State) : (s.nextPc).atsQueue = s.atsQueue := rfl
@[simp] theorem nextPc_cap (s : State) : (s.nextPc).cap = s.cap := rfl
@[simp] theorem nextPc_fw (s : State) : (s.nextPc).fw = s.fw := rfl
@[simp] theorem nextPc_inReset (s : State) : (s.nextPc).inReset = s.inReset := rfl
@[simp] theorem nextPc_scrubPeriod (s : State) : (s.nextPc).scrubPeriod = s.scrubPeriod := rfl
@[simp] theorem nextPc_filterPeriod (s : State) : (s.nextPc).filterPeriod = s.filterPeriod := rfl
@[simp] theorem nextPc_repeatAt (s : State) : (s.nextPc).repeatAt = s.repeatAt := rfl
@[simp] theorem nextPc_vigil (s : State) : (s.nextPc).vigil = s.vigil := rfl
@[simp] theorem nextPc_samples (s : State) : (s.nextPc).samples = s.samples := rfl
@[simp] theorem nextPc_sampledAt (s : State) : (s.nextPc).sampledAt = s.sampledAt := rfl

/-! ### State.jump -/

@[simp] theorem jump_time (s : State) (x : Word) : (s.jump x).time = s.time := rfl
@[simp] theorem jump_tick (s : State) (x : Word) : (s.jump x).tick = s.tick := rfl
@[simp] theorem jump_moves (s : State) (x : Word) : (s.jump x).moves = s.moves := rfl
@[simp] theorem jump_cur (s : State) (x : Word) : (s.jump x).cur = s.cur := rfl
@[simp] theorem jump_mem (s : State) (x : Word) : (s.jump x).mem = s.mem := rfl
@[simp] theorem jump_marks (s : State) (x : Word) : (s.jump x).marks = s.marks := rfl
@[simp] theorem jump_cipher (s : State) (x : Word) : (s.jump x).cipher = s.cipher := rfl
@[simp] theorem jump_tags (s : State) (x : Word) : (s.jump x).tags = s.tags := rfl
@[simp] theorem jump_encOn (s : State) (x : Word) : (s.jump x).encOn = s.encOn := rfl
@[simp] theorem jump_nextKey (s : State) (x : Word) : (s.jump x).nextKey = s.nextKey := rfl
@[simp] theorem jump_frames (s : State) (x : Word) : (s.jump x).frames = s.frames := rfl
@[simp] theorem jump_ctxs (s : State) (x : Word) : (s.jump x).ctxs = s.ctxs := rfl
@[simp] theorem jump_cores (s : State) (x : Word) : (s.jump x).cores = s.cores := rfl
@[simp] theorem jump_dies (s : State) (x : Word) : (s.jump x).dies = s.dies := rfl
@[simp] theorem jump_hbmStacks (s : State) (x : Word) : (s.jump x).hbmStacks = s.hbmStacks := rfl
@[simp] theorem jump_teams (s : State) (x : Word) : (s.jump x).teams = s.teams := rfl
@[simp] theorem jump_grids (s : State) (x : Word) : (s.jump x).grids = s.grids := rfl
@[simp] theorem jump_rr (s : State) (x : Word) : (s.jump x).rr = s.rr := rfl
@[simp] theorem jump_ecmds (s : State) (x : Word) : (s.jump x).ecmds = s.ecmds := rfl
@[simp] theorem jump_nextCmd (s : State) (x : Word) : (s.jump x).nextCmd = s.nextCmd := rfl
@[simp] theorem jump_flows (s : State) (x : Word) : (s.jump x).flows = s.flows := rfl
@[simp] theorem jump_domains (s : State) (x : Word) : (s.jump x).domains = s.domains := rfl
@[simp] theorem jump_iters (s : State) (x : Word) : (s.jump x).iters = s.iters := rfl
@[simp] theorem jump_stable (s : State) (x : Word) : (s.jump x).stable = s.stable := rfl
@[simp] theorem jump_eqx (s : State) (x : Word) : (s.jump x).eqx = s.eqx := rfl
@[simp] theorem jump_events (s : State) (x : Word) : (s.jump x).events = s.events := rfl
@[simp] theorem jump_out (s : State) (x : Word) : (s.jump x).out = s.out := rfl
@[simp] theorem jump_mailbox (s : State) (x : Word) : (s.jump x).mailbox = s.mailbox := rfl
@[simp] theorem jump_inbox (s : State) (x : Word) : (s.jump x).inbox = s.inbox := rfl
@[simp] theorem jump_bar2 (s : State) (x : Word) : (s.jump x).bar2 = s.bar2 := rfl
@[simp] theorem jump_priQueue (s : State) (x : Word) : (s.jump x).priQueue = s.priQueue := rfl
@[simp] theorem jump_priOut (s : State) (x : Word) : (s.jump x).priOut = s.priOut := rfl
@[simp] theorem jump_ats (s : State) (x : Word) : (s.jump x).ats = s.ats := rfl
@[simp] theorem jump_atsQueue (s : State) (x : Word) : (s.jump x).atsQueue = s.atsQueue := rfl
@[simp] theorem jump_cap (s : State) (x : Word) : (s.jump x).cap = s.cap := rfl
@[simp] theorem jump_fw (s : State) (x : Word) : (s.jump x).fw = s.fw := rfl
@[simp] theorem jump_inReset (s : State) (x : Word) : (s.jump x).inReset = s.inReset := rfl
@[simp] theorem jump_scrubPeriod (s : State) (x : Word) : (s.jump x).scrubPeriod = s.scrubPeriod := rfl
@[simp] theorem jump_filterPeriod (s : State) (x : Word) : (s.jump x).filterPeriod = s.filterPeriod := rfl
@[simp] theorem jump_repeatAt (s : State) (x : Word) : (s.jump x).repeatAt = s.repeatAt := rfl
@[simp] theorem jump_vigil (s : State) (x : Word) : (s.jump x).vigil = s.vigil := rfl
@[simp] theorem jump_samples (s : State) (x : Word) : (s.jump x).samples = s.samples := rfl
@[simp] theorem jump_sampledAt (s : State) (x : Word) : (s.jump x).sampledAt = s.sampledAt := rfl

/-! ### State.withKey -/

@[simp] theorem withKey_time (s : State) (x : Option Nat) : (s.withKey x).time = s.time := rfl
@[simp] theorem withKey_tick (s : State) (x : Option Nat) : (s.withKey x).tick = s.tick := rfl
@[simp] theorem withKey_moves (s : State) (x : Option Nat) : (s.withKey x).moves = s.moves := rfl
@[simp] theorem withKey_mem (s : State) (x : Option Nat) : (s.withKey x).mem = s.mem := rfl
@[simp] theorem withKey_marks (s : State) (x : Option Nat) : (s.withKey x).marks = s.marks := rfl
@[simp] theorem withKey_cipher (s : State) (x : Option Nat) : (s.withKey x).cipher = s.cipher := rfl
@[simp] theorem withKey_tags (s : State) (x : Option Nat) : (s.withKey x).tags = s.tags := rfl
@[simp] theorem withKey_encOn (s : State) (x : Option Nat) : (s.withKey x).encOn = s.encOn := rfl
@[simp] theorem withKey_nextKey (s : State) (x : Option Nat) : (s.withKey x).nextKey = s.nextKey := rfl
@[simp] theorem withKey_frames (s : State) (x : Option Nat) : (s.withKey x).frames = s.frames := rfl
@[simp] theorem withKey_ctxs (s : State) (x : Option Nat) : (s.withKey x).ctxs = s.ctxs := rfl
@[simp] theorem withKey_groups (s : State) (x : Option Nat) : (s.withKey x).groups = s.groups := rfl
@[simp] theorem withKey_cores (s : State) (x : Option Nat) : (s.withKey x).cores = s.cores := rfl
@[simp] theorem withKey_dies (s : State) (x : Option Nat) : (s.withKey x).dies = s.dies := rfl
@[simp] theorem withKey_hbmStacks (s : State) (x : Option Nat) : (s.withKey x).hbmStacks = s.hbmStacks := rfl
@[simp] theorem withKey_teams (s : State) (x : Option Nat) : (s.withKey x).teams = s.teams := rfl
@[simp] theorem withKey_grids (s : State) (x : Option Nat) : (s.withKey x).grids = s.grids := rfl
@[simp] theorem withKey_rr (s : State) (x : Option Nat) : (s.withKey x).rr = s.rr := rfl
@[simp] theorem withKey_ecmds (s : State) (x : Option Nat) : (s.withKey x).ecmds = s.ecmds := rfl
@[simp] theorem withKey_nextCmd (s : State) (x : Option Nat) : (s.withKey x).nextCmd = s.nextCmd := rfl
@[simp] theorem withKey_flows (s : State) (x : Option Nat) : (s.withKey x).flows = s.flows := rfl
@[simp] theorem withKey_domains (s : State) (x : Option Nat) : (s.withKey x).domains = s.domains := rfl
@[simp] theorem withKey_iters (s : State) (x : Option Nat) : (s.withKey x).iters = s.iters := rfl
@[simp] theorem withKey_stable (s : State) (x : Option Nat) : (s.withKey x).stable = s.stable := rfl
@[simp] theorem withKey_eqx (s : State) (x : Option Nat) : (s.withKey x).eqx = s.eqx := rfl
@[simp] theorem withKey_events (s : State) (x : Option Nat) : (s.withKey x).events = s.events := rfl
@[simp] theorem withKey_out (s : State) (x : Option Nat) : (s.withKey x).out = s.out := rfl
@[simp] theorem withKey_mailbox (s : State) (x : Option Nat) : (s.withKey x).mailbox = s.mailbox := rfl
@[simp] theorem withKey_inbox (s : State) (x : Option Nat) : (s.withKey x).inbox = s.inbox := rfl
@[simp] theorem withKey_bar2 (s : State) (x : Option Nat) : (s.withKey x).bar2 = s.bar2 := rfl
@[simp] theorem withKey_priQueue (s : State) (x : Option Nat) : (s.withKey x).priQueue = s.priQueue := rfl
@[simp] theorem withKey_priOut (s : State) (x : Option Nat) : (s.withKey x).priOut = s.priOut := rfl
@[simp] theorem withKey_ats (s : State) (x : Option Nat) : (s.withKey x).ats = s.ats := rfl
@[simp] theorem withKey_atsQueue (s : State) (x : Option Nat) : (s.withKey x).atsQueue = s.atsQueue := rfl
@[simp] theorem withKey_cap (s : State) (x : Option Nat) : (s.withKey x).cap = s.cap := rfl
@[simp] theorem withKey_fw (s : State) (x : Option Nat) : (s.withKey x).fw = s.fw := rfl
@[simp] theorem withKey_inReset (s : State) (x : Option Nat) : (s.withKey x).inReset = s.inReset := rfl
@[simp] theorem withKey_scrubPeriod (s : State) (x : Option Nat) : (s.withKey x).scrubPeriod = s.scrubPeriod := rfl
@[simp] theorem withKey_filterPeriod (s : State) (x : Option Nat) : (s.withKey x).filterPeriod = s.filterPeriod := rfl
@[simp] theorem withKey_repeatAt (s : State) (x : Option Nat) : (s.withKey x).repeatAt = s.repeatAt := rfl
@[simp] theorem withKey_vigil (s : State) (x : Option Nat) : (s.withKey x).vigil = s.vigil := rfl
@[simp] theorem withKey_samples (s : State) (x : Option Nat) : (s.withKey x).samples = s.samples := rfl
@[simp] theorem withKey_sampledAt (s : State) (x : Option Nat) : (s.withKey x).sampledAt = s.sampledAt := rfl

/-! ### State.setByte -/

@[simp] theorem setByte_time (s : State) (a : Nat) (x : Byte) : (s.setByte a x).time = s.time := rfl
@[simp] theorem setByte_tick (s : State) (a : Nat) (x : Byte) : (s.setByte a x).tick = s.tick := rfl
@[simp] theorem setByte_moves (s : State) (a : Nat) (x : Byte) : (s.setByte a x).moves = s.moves := rfl
@[simp] theorem setByte_cur (s : State) (a : Nat) (x : Byte) : (s.setByte a x).cur = s.cur := rfl
@[simp] theorem setByte_marks (s : State) (a : Nat) (x : Byte) : (s.setByte a x).marks = s.marks := rfl
@[simp] theorem setByte_cipher (s : State) (a : Nat) (x : Byte) : (s.setByte a x).cipher = s.cipher := rfl
@[simp] theorem setByte_tags (s : State) (a : Nat) (x : Byte) : (s.setByte a x).tags = s.tags := rfl
@[simp] theorem setByte_encOn (s : State) (a : Nat) (x : Byte) : (s.setByte a x).encOn = s.encOn := rfl
@[simp] theorem setByte_nextKey (s : State) (a : Nat) (x : Byte) : (s.setByte a x).nextKey = s.nextKey := rfl
@[simp] theorem setByte_frames (s : State) (a : Nat) (x : Byte) : (s.setByte a x).frames = s.frames := rfl
@[simp] theorem setByte_ctxs (s : State) (a : Nat) (x : Byte) : (s.setByte a x).ctxs = s.ctxs := rfl
@[simp] theorem setByte_groups (s : State) (a : Nat) (x : Byte) : (s.setByte a x).groups = s.groups := rfl
@[simp] theorem setByte_cores (s : State) (a : Nat) (x : Byte) : (s.setByte a x).cores = s.cores := rfl
@[simp] theorem setByte_dies (s : State) (a : Nat) (x : Byte) : (s.setByte a x).dies = s.dies := rfl
@[simp] theorem setByte_hbmStacks (s : State) (a : Nat) (x : Byte) : (s.setByte a x).hbmStacks = s.hbmStacks := rfl
@[simp] theorem setByte_teams (s : State) (a : Nat) (x : Byte) : (s.setByte a x).teams = s.teams := rfl
@[simp] theorem setByte_grids (s : State) (a : Nat) (x : Byte) : (s.setByte a x).grids = s.grids := rfl
@[simp] theorem setByte_rr (s : State) (a : Nat) (x : Byte) : (s.setByte a x).rr = s.rr := rfl
@[simp] theorem setByte_ecmds (s : State) (a : Nat) (x : Byte) : (s.setByte a x).ecmds = s.ecmds := rfl
@[simp] theorem setByte_nextCmd (s : State) (a : Nat) (x : Byte) : (s.setByte a x).nextCmd = s.nextCmd := rfl
@[simp] theorem setByte_flows (s : State) (a : Nat) (x : Byte) : (s.setByte a x).flows = s.flows := rfl
@[simp] theorem setByte_domains (s : State) (a : Nat) (x : Byte) : (s.setByte a x).domains = s.domains := rfl
@[simp] theorem setByte_iters (s : State) (a : Nat) (x : Byte) : (s.setByte a x).iters = s.iters := rfl
@[simp] theorem setByte_stable (s : State) (a : Nat) (x : Byte) : (s.setByte a x).stable = s.stable := rfl
@[simp] theorem setByte_events (s : State) (a : Nat) (x : Byte) : (s.setByte a x).events = s.events := rfl
@[simp] theorem setByte_out (s : State) (a : Nat) (x : Byte) : (s.setByte a x).out = s.out := rfl
@[simp] theorem setByte_mailbox (s : State) (a : Nat) (x : Byte) : (s.setByte a x).mailbox = s.mailbox := rfl
@[simp] theorem setByte_inbox (s : State) (a : Nat) (x : Byte) : (s.setByte a x).inbox = s.inbox := rfl
@[simp] theorem setByte_bar2 (s : State) (a : Nat) (x : Byte) : (s.setByte a x).bar2 = s.bar2 := rfl
@[simp] theorem setByte_priQueue (s : State) (a : Nat) (x : Byte) : (s.setByte a x).priQueue = s.priQueue := rfl
@[simp] theorem setByte_priOut (s : State) (a : Nat) (x : Byte) : (s.setByte a x).priOut = s.priOut := rfl
@[simp] theorem setByte_ats (s : State) (a : Nat) (x : Byte) : (s.setByte a x).ats = s.ats := rfl
@[simp] theorem setByte_atsQueue (s : State) (a : Nat) (x : Byte) : (s.setByte a x).atsQueue = s.atsQueue := rfl
@[simp] theorem setByte_cap (s : State) (a : Nat) (x : Byte) : (s.setByte a x).cap = s.cap := rfl
@[simp] theorem setByte_fw (s : State) (a : Nat) (x : Byte) : (s.setByte a x).fw = s.fw := rfl
@[simp] theorem setByte_inReset (s : State) (a : Nat) (x : Byte) : (s.setByte a x).inReset = s.inReset := rfl
@[simp] theorem setByte_scrubPeriod (s : State) (a : Nat) (x : Byte) : (s.setByte a x).scrubPeriod = s.scrubPeriod := rfl
@[simp] theorem setByte_filterPeriod (s : State) (a : Nat) (x : Byte) : (s.setByte a x).filterPeriod = s.filterPeriod := rfl
@[simp] theorem setByte_repeatAt (s : State) (a : Nat) (x : Byte) : (s.setByte a x).repeatAt = s.repeatAt := rfl
@[simp] theorem setByte_vigil (s : State) (a : Nat) (x : Byte) : (s.setByte a x).vigil = s.vigil := rfl
@[simp] theorem setByte_samples (s : State) (a : Nat) (x : Byte) : (s.setByte a x).samples = s.samples := rfl
@[simp] theorem setByte_sampledAt (s : State) (a : Nat) (x : Byte) : (s.setByte a x).sampledAt = s.sampledAt := rfl

/-! ### Group.setV -/

@[simp] theorem setV_st (g : Group) (r l : Nat) (x : W32) : (g.setV r l x).st = g.st := rfl
@[simp] theorem setV_team (g : Group) (r l : Nat) (x : W32) : (g.setV r l x).team = g.team := rfl
@[simp] theorem setV_gidx (g : Group) (r l : Nat) (x : W32) : (g.setV r l x).gidx = g.gidx := rfl
@[simp] theorem setV_width (g : Group) (r l : Nat) (x : W32) : (g.setV r l x).width = g.width := rfl
@[simp] theorem setV_spc (g : Group) (r l : Nat) (x : W32) : (g.setV r l x).spc = g.spc := rfl
@[simp] theorem setV_lpc (g : Group) (r l : Nat) (x : W32) : (g.setV r l x).lpc = g.lpc := rfl
@[simp] theorem setV_s (g : Group) (r l : Nat) (x : W32) : (g.setV r l x).s = g.s := rfl
@[simp] theorem setV_k (g : Group) (r l : Nat) (x : W32) : (g.setV r l x).k = g.k := rfl
@[simp] theorem setV_m (g : Group) (r l : Nat) (x : W32) : (g.setV r l x).m = g.m := rfl
@[simp] theorem setV_em (g : Group) (r l : Nat) (x : W32) : (g.setV r l x).em = g.em := rfl
@[simp] theorem setV_status (g : Group) (r l : Nat) (x : W32) : (g.setV r l x).status = g.status := rfl
@[simp] theorem setV_cause (g : Group) (r l : Nat) (x : W32) : (g.setV r l x).cause = g.cause := rfl
@[simp] theorem setV_epcs (g : Group) (r l : Nat) (x : W32) : (g.setV r l x).epcs = g.epcs := rfl
@[simp] theorem setV_epcl (g : Group) (r l : Nat) (x : W32) : (g.setV r l x).epcl = g.epcl := rfl
@[simp] theorem setV_faultva (g : Group) (r l : Nat) (x : W32) : (g.setV r l x).faultva = g.faultva := rfl
@[simp] theorem setV_faultmask (g : Group) (r l : Nat) (x : W32) : (g.setV r l x).faultmask = g.faultmask := rfl
@[simp] theorem setV_faultprog (g : Group) (r l : Nat) (x : W32) : (g.setV r l x).faultprog = g.faultprog := rfl
@[simp] theorem setV_fmt (g : Group) (r l : Nat) (x : W32) : (g.setV r l x).fmt = g.fmt := rfl
@[simp] theorem setV_rngkey (g : Group) (r l : Nat) (x : W32) : (g.setV r l x).rngkey = g.rngkey := rfl
@[simp] theorem setV_slim (g : Group) (r l : Nat) (x : W32) : (g.setV r l x).slim = g.slim := rfl
@[simp] theorem setV_fmtS (g : Group) (r l : Nat) (x : W32) : (g.setV r l x).fmtS = g.fmtS := rfl
@[simp] theorem setV_rngkeyS (g : Group) (r l : Nat) (x : W32) : (g.setV r l x).rngkeyS = g.rngkeyS := rfl
@[simp] theorem setV_slimS (g : Group) (r l : Nat) (x : W32) : (g.setV r l x).slimS = g.slimS := rfl
@[simp] theorem setV_cls (g : Group) (r l : Nat) (x : W32) : (g.setV r l x).cls = g.cls := rfl
@[simp] theorem setV_auditclass (g : Group) (r l : Nat) (x : W32) : (g.setV r l x).auditclass = g.auditclass := rfl
@[simp] theorem setV_ctxid (g : Group) (r l : Nat) (x : W32) : (g.setV r l x).ctxid = g.ctxid := rfl
@[simp] theorem setV_lq (g : Group) (r l : Nat) (x : W32) : (g.setV r l x).lq = g.lq := rfl
@[simp] theorem setV_run (g : Group) (r l : Nat) (x : W32) : (g.setV r l x).run = g.run := rfl
@[simp] theorem setV_nextBlk (g : Group) (r l : Nat) (x : W32) : (g.setV r l x).nextBlk = g.nextBlk := rfl
@[simp] theorem setV_nextRegion (g : Group) (r l : Nat) (x : W32) : (g.setV r l x).nextRegion = g.nextRegion := rfl
@[simp] theorem setV_ret (g : Group) (r l : Nat) (x : W32) : (g.setV r l x).ret = g.ret := rfl
@[simp] theorem setV_rstack (g : Group) (r l : Nat) (x : W32) : (g.setV r l x).rstack = g.rstack := rfl
@[simp] theorem setV_windows (g : Group) (r l : Nat) (x : W32) : (g.setV r l x).windows = g.windows := rfl
@[simp] theorem setV_waitingWords (g : Group) (r l : Nat) (x : W32) : (g.setV r l x).waitingWords = g.waitingWords := rfl
@[simp] theorem setV_abandoned (g : Group) (r l : Nat) (x : W32) : (g.setV r l x).abandoned = g.abandoned := rfl
@[simp] theorem setV_shadow (g : Group) (r l : Nat) (x : W32) : (g.setV r l x).shadow = g.shadow := rfl
@[simp] theorem setV_inflight (g : Group) (r l : Nat) (x : W32) : (g.setV r l x).inflight = g.inflight := rfl
@[simp] theorem setV_assistRec (g : Group) (r l : Nat) (x : W32) : (g.setV r l x).assistRec = g.assistRec := rfl
@[simp] theorem setV_assists (g : Group) (r l : Nat) (x : W32) : (g.setV r l x).assists = g.assists := rfl
@[simp] theorem setV_sdraw (g : Group) (r l : Nat) (x : W32) : (g.setV r l x).sdraw = g.sdraw := rfl
@[simp] theorem setV_draw (g : Group) (r l : Nat) (x : W32) : (g.setV r l x).draw = g.draw := rfl
@[simp] theorem setV_nextTok (g : Group) (r l : Nat) (x : W32) : (g.setV r l x).nextTok = g.nextTok := rfl
@[simp] theorem setV_tokDone (g : Group) (r l : Nat) (x : W32) : (g.setV r l x).tokDone = g.tokDone := rfl
@[simp] theorem setV_nextBatch (g : Group) (r l : Nat) (x : W32) : (g.setV r l x).nextBatch = g.nextBatch := rfl
@[simp] theorem setV_tickets (g : Group) (r l : Nat) (x : W32) : (g.setV r l x).tickets = g.tickets := rfl
@[simp] theorem setV_nextTicket (g : Group) (r l : Nat) (x : W32) : (g.setV r l x).nextTicket = g.nextTicket := rfl
@[simp] theorem setV_baseRows (g : Group) (r l : Nat) (x : W32) : (g.setV r l x).baseRows = g.baseRows := rfl
@[simp] theorem setV_ext (g : Group) (r l : Nat) (x : W32) : (g.setV r l x).ext = g.ext := rfl
@[simp] theorem setV_extRows (g : Group) (r l : Nat) (x : W32) : (g.setV r l x).extRows = g.extRows := rfl
@[simp] theorem setV_rpf (g : Group) (r l : Nat) (x : W32) : (g.setV r l x).rpf = g.rpf := rfl
@[simp] theorem setV_age (g : Group) (r l : Nat) (x : W32) : (g.setV r l x).age = g.age := rfl
@[simp] theorem setV_lastIssue (g : Group) (r l : Nat) (x : W32) : (g.setV r l x).lastIssue = g.lastIssue := rfl
@[simp] theorem setV_starved (g : Group) (r l : Nat) (x : W32) : (g.setV r l x).starved = g.starved := rfl
@[simp] theorem setV_issued (g : Group) (r l : Nat) (x : W32) : (g.setV r l x).issued = g.issued := rfl
@[simp] theorem setV_deadline (g : Group) (r l : Nat) (x : W32) : (g.setV r l x).deadline = g.deadline := rfl
@[simp] theorem setV_barPhase (g : Group) (r l : Nat) (x : W32) : (g.setV r l x).barPhase = g.barPhase := rfl
@[simp] theorem setV_barWaits (g : Group) (r l : Nat) (x : W32) : (g.setV r l x).barWaits = g.barWaits := rfl
@[simp] theorem setV_sWait (g : Group) (r l : Nat) (x : W32) : (g.setV r l x).sWait = g.sWait := rfl
@[simp] theorem setV_lWait (g : Group) (r l : Nat) (x : W32) : (g.setV r l x).lWait = g.lWait := rfl
@[simp] theorem setV_exiting (g : Group) (r l : Nat) (x : W32) : (g.setV r l x).exiting = g.exiting := rfl
@[simp] theorem setV_stopped (g : Group) (r l : Nat) (x : W32) : (g.setV r l x).stopped = g.stopped := rfl
@[simp] theorem setV_nmPending (g : Group) (r l : Nat) (x : W32) : (g.setV r l x).nmPending = g.nmPending := rfl
@[simp] theorem setV_nmPoison (g : Group) (r l : Nat) (x : W32) : (g.setV r l x).nmPoison = g.nmPoison := rfl
@[simp] theorem setV_pageReq (g : Group) (r l : Nat) (x : W32) : (g.setV r l x).pageReq = g.pageReq := rfl
@[simp] theorem setV_stackSlot (g : Group) (r l : Nat) (x : W32) : (g.setV r l x).stackSlot = g.stackSlot := rfl
@[simp] theorem setV_fault (g : Group) (r l : Nat) (x : W32) : (g.setV r l x).fault = g.fault := rfl
@[simp] theorem setV_badV (g : Group) (r l : Nat) (x : W32) : (g.setV r l x).badV = g.badV.filter (fun k => k != 64 * r + l) := rfl

/-! ### Group.setM -/

@[simp] theorem setM_st (g : Group) (a : Nat) (x : Word) : (g.setM a x).st = g.st := rfl
@[simp] theorem setM_team (g : Group) (a : Nat) (x : Word) : (g.setM a x).team = g.team := rfl
@[simp] theorem setM_gidx (g : Group) (a : Nat) (x : Word) : (g.setM a x).gidx = g.gidx := rfl
@[simp] theorem setM_width (g : Group) (a : Nat) (x : Word) : (g.setM a x).width = g.width := rfl
@[simp] theorem setM_spc (g : Group) (a : Nat) (x : Word) : (g.setM a x).spc = g.spc := rfl
@[simp] theorem setM_lpc (g : Group) (a : Nat) (x : Word) : (g.setM a x).lpc = g.lpc := rfl
@[simp] theorem setM_s (g : Group) (a : Nat) (x : Word) : (g.setM a x).s = g.s := rfl
@[simp] theorem setM_k (g : Group) (a : Nat) (x : Word) : (g.setM a x).k = g.k := rfl
@[simp] theorem setM_em (g : Group) (a : Nat) (x : Word) : (g.setM a x).em = g.em := rfl
@[simp] theorem setM_v (g : Group) (a : Nat) (x : Word) : (g.setM a x).v = g.v := rfl
@[simp] theorem setM_badV (g : Group) (a : Nat) (x : Word) : (g.setM a x).badV = g.badV := rfl
@[simp] theorem setM_status (g : Group) (a : Nat) (x : Word) : (g.setM a x).status = g.status := rfl
@[simp] theorem setM_cause (g : Group) (a : Nat) (x : Word) : (g.setM a x).cause = g.cause := rfl
@[simp] theorem setM_epcs (g : Group) (a : Nat) (x : Word) : (g.setM a x).epcs = g.epcs := rfl
@[simp] theorem setM_epcl (g : Group) (a : Nat) (x : Word) : (g.setM a x).epcl = g.epcl := rfl
@[simp] theorem setM_faultva (g : Group) (a : Nat) (x : Word) : (g.setM a x).faultva = g.faultva := rfl
@[simp] theorem setM_faultmask (g : Group) (a : Nat) (x : Word) : (g.setM a x).faultmask = g.faultmask := rfl
@[simp] theorem setM_faultprog (g : Group) (a : Nat) (x : Word) : (g.setM a x).faultprog = g.faultprog := rfl
@[simp] theorem setM_fmt (g : Group) (a : Nat) (x : Word) : (g.setM a x).fmt = g.fmt := rfl
@[simp] theorem setM_rngkey (g : Group) (a : Nat) (x : Word) : (g.setM a x).rngkey = g.rngkey := rfl
@[simp] theorem setM_slim (g : Group) (a : Nat) (x : Word) : (g.setM a x).slim = g.slim := rfl
@[simp] theorem setM_fmtS (g : Group) (a : Nat) (x : Word) : (g.setM a x).fmtS = g.fmtS := rfl
@[simp] theorem setM_rngkeyS (g : Group) (a : Nat) (x : Word) : (g.setM a x).rngkeyS = g.rngkeyS := rfl
@[simp] theorem setM_slimS (g : Group) (a : Nat) (x : Word) : (g.setM a x).slimS = g.slimS := rfl
@[simp] theorem setM_cls (g : Group) (a : Nat) (x : Word) : (g.setM a x).cls = g.cls := rfl
@[simp] theorem setM_auditclass (g : Group) (a : Nat) (x : Word) : (g.setM a x).auditclass = g.auditclass := rfl
@[simp] theorem setM_ctxid (g : Group) (a : Nat) (x : Word) : (g.setM a x).ctxid = g.ctxid := rfl
@[simp] theorem setM_lq (g : Group) (a : Nat) (x : Word) : (g.setM a x).lq = g.lq := rfl
@[simp] theorem setM_run (g : Group) (a : Nat) (x : Word) : (g.setM a x).run = g.run := rfl
@[simp] theorem setM_nextBlk (g : Group) (a : Nat) (x : Word) : (g.setM a x).nextBlk = g.nextBlk := rfl
@[simp] theorem setM_nextRegion (g : Group) (a : Nat) (x : Word) : (g.setM a x).nextRegion = g.nextRegion := rfl
@[simp] theorem setM_ret (g : Group) (a : Nat) (x : Word) : (g.setM a x).ret = g.ret := rfl
@[simp] theorem setM_rstack (g : Group) (a : Nat) (x : Word) : (g.setM a x).rstack = g.rstack := rfl
@[simp] theorem setM_windows (g : Group) (a : Nat) (x : Word) : (g.setM a x).windows = g.windows := rfl
@[simp] theorem setM_waitingWords (g : Group) (a : Nat) (x : Word) : (g.setM a x).waitingWords = g.waitingWords := rfl
@[simp] theorem setM_abandoned (g : Group) (a : Nat) (x : Word) : (g.setM a x).abandoned = g.abandoned := rfl
@[simp] theorem setM_shadow (g : Group) (a : Nat) (x : Word) : (g.setM a x).shadow = g.shadow := rfl
@[simp] theorem setM_inflight (g : Group) (a : Nat) (x : Word) : (g.setM a x).inflight = g.inflight := rfl
@[simp] theorem setM_assistRec (g : Group) (a : Nat) (x : Word) : (g.setM a x).assistRec = g.assistRec := rfl
@[simp] theorem setM_assists (g : Group) (a : Nat) (x : Word) : (g.setM a x).assists = g.assists := rfl
@[simp] theorem setM_sdraw (g : Group) (a : Nat) (x : Word) : (g.setM a x).sdraw = g.sdraw := rfl
@[simp] theorem setM_draw (g : Group) (a : Nat) (x : Word) : (g.setM a x).draw = g.draw := rfl
@[simp] theorem setM_nextTok (g : Group) (a : Nat) (x : Word) : (g.setM a x).nextTok = g.nextTok := rfl
@[simp] theorem setM_tokDone (g : Group) (a : Nat) (x : Word) : (g.setM a x).tokDone = g.tokDone := rfl
@[simp] theorem setM_nextBatch (g : Group) (a : Nat) (x : Word) : (g.setM a x).nextBatch = g.nextBatch := rfl
@[simp] theorem setM_tickets (g : Group) (a : Nat) (x : Word) : (g.setM a x).tickets = g.tickets := rfl
@[simp] theorem setM_nextTicket (g : Group) (a : Nat) (x : Word) : (g.setM a x).nextTicket = g.nextTicket := rfl
@[simp] theorem setM_baseRows (g : Group) (a : Nat) (x : Word) : (g.setM a x).baseRows = g.baseRows := rfl
@[simp] theorem setM_ext (g : Group) (a : Nat) (x : Word) : (g.setM a x).ext = g.ext := rfl
@[simp] theorem setM_extRows (g : Group) (a : Nat) (x : Word) : (g.setM a x).extRows = g.extRows := rfl
@[simp] theorem setM_rpf (g : Group) (a : Nat) (x : Word) : (g.setM a x).rpf = g.rpf := rfl
@[simp] theorem setM_age (g : Group) (a : Nat) (x : Word) : (g.setM a x).age = g.age := rfl
@[simp] theorem setM_lastIssue (g : Group) (a : Nat) (x : Word) : (g.setM a x).lastIssue = g.lastIssue := rfl
@[simp] theorem setM_starved (g : Group) (a : Nat) (x : Word) : (g.setM a x).starved = g.starved := rfl
@[simp] theorem setM_issued (g : Group) (a : Nat) (x : Word) : (g.setM a x).issued = g.issued := rfl
@[simp] theorem setM_deadline (g : Group) (a : Nat) (x : Word) : (g.setM a x).deadline = g.deadline := rfl
@[simp] theorem setM_barPhase (g : Group) (a : Nat) (x : Word) : (g.setM a x).barPhase = g.barPhase := rfl
@[simp] theorem setM_barWaits (g : Group) (a : Nat) (x : Word) : (g.setM a x).barWaits = g.barWaits := rfl
@[simp] theorem setM_sWait (g : Group) (a : Nat) (x : Word) : (g.setM a x).sWait = g.sWait := rfl
@[simp] theorem setM_lWait (g : Group) (a : Nat) (x : Word) : (g.setM a x).lWait = g.lWait := rfl
@[simp] theorem setM_exiting (g : Group) (a : Nat) (x : Word) : (g.setM a x).exiting = g.exiting := rfl
@[simp] theorem setM_stopped (g : Group) (a : Nat) (x : Word) : (g.setM a x).stopped = g.stopped := rfl
@[simp] theorem setM_nmPending (g : Group) (a : Nat) (x : Word) : (g.setM a x).nmPending = g.nmPending := rfl
@[simp] theorem setM_nmPoison (g : Group) (a : Nat) (x : Word) : (g.setM a x).nmPoison = g.nmPoison := rfl
@[simp] theorem setM_pageReq (g : Group) (a : Nat) (x : Word) : (g.setM a x).pageReq = g.pageReq := rfl
@[simp] theorem setM_stackSlot (g : Group) (a : Nat) (x : Word) : (g.setM a x).stackSlot = g.stackSlot := rfl
@[simp] theorem setM_fault (g : Group) (a : Nat) (x : Word) : (g.setM a x).fault = g.fault := rfl

/-! ### Group.setMode -/

@[simp] theorem setMode_st (g : Group) (x : Mode) : (g.setMode x).st = g.st := rfl
@[simp] theorem setMode_team (g : Group) (x : Mode) : (g.setMode x).team = g.team := rfl
@[simp] theorem setMode_gidx (g : Group) (x : Mode) : (g.setMode x).gidx = g.gidx := rfl
@[simp] theorem setMode_width (g : Group) (x : Mode) : (g.setMode x).width = g.width := rfl
@[simp] theorem setMode_spc (g : Group) (x : Mode) : (g.setMode x).spc = g.spc := rfl
@[simp] theorem setMode_lpc (g : Group) (x : Mode) : (g.setMode x).lpc = g.lpc := rfl
@[simp] theorem setMode_s (g : Group) (x : Mode) : (g.setMode x).s = g.s := rfl
@[simp] theorem setMode_k (g : Group) (x : Mode) : (g.setMode x).k = g.k := rfl
@[simp] theorem setMode_m (g : Group) (x : Mode) : (g.setMode x).m = g.m := rfl
@[simp] theorem setMode_em (g : Group) (x : Mode) : (g.setMode x).em = g.em := rfl
@[simp] theorem setMode_v (g : Group) (x : Mode) : (g.setMode x).v = g.v := rfl
@[simp] theorem setMode_badV (g : Group) (x : Mode) : (g.setMode x).badV = g.badV := rfl
@[simp] theorem setMode_cause (g : Group) (x : Mode) : (g.setMode x).cause = g.cause := rfl
@[simp] theorem setMode_epcs (g : Group) (x : Mode) : (g.setMode x).epcs = g.epcs := rfl
@[simp] theorem setMode_epcl (g : Group) (x : Mode) : (g.setMode x).epcl = g.epcl := rfl
@[simp] theorem setMode_faultva (g : Group) (x : Mode) : (g.setMode x).faultva = g.faultva := rfl
@[simp] theorem setMode_faultmask (g : Group) (x : Mode) : (g.setMode x).faultmask = g.faultmask := rfl
@[simp] theorem setMode_faultprog (g : Group) (x : Mode) : (g.setMode x).faultprog = g.faultprog := rfl
@[simp] theorem setMode_fmt (g : Group) (x : Mode) : (g.setMode x).fmt = g.fmt := rfl
@[simp] theorem setMode_rngkey (g : Group) (x : Mode) : (g.setMode x).rngkey = g.rngkey := rfl
@[simp] theorem setMode_slim (g : Group) (x : Mode) : (g.setMode x).slim = g.slim := rfl
@[simp] theorem setMode_fmtS (g : Group) (x : Mode) : (g.setMode x).fmtS = g.fmtS := rfl
@[simp] theorem setMode_rngkeyS (g : Group) (x : Mode) : (g.setMode x).rngkeyS = g.rngkeyS := rfl
@[simp] theorem setMode_slimS (g : Group) (x : Mode) : (g.setMode x).slimS = g.slimS := rfl
@[simp] theorem setMode_cls (g : Group) (x : Mode) : (g.setMode x).cls = g.cls := rfl
@[simp] theorem setMode_auditclass (g : Group) (x : Mode) : (g.setMode x).auditclass = g.auditclass := rfl
@[simp] theorem setMode_ctxid (g : Group) (x : Mode) : (g.setMode x).ctxid = g.ctxid := rfl
@[simp] theorem setMode_lq (g : Group) (x : Mode) : (g.setMode x).lq = g.lq := rfl
@[simp] theorem setMode_run (g : Group) (x : Mode) : (g.setMode x).run = g.run := rfl
@[simp] theorem setMode_nextBlk (g : Group) (x : Mode) : (g.setMode x).nextBlk = g.nextBlk := rfl
@[simp] theorem setMode_nextRegion (g : Group) (x : Mode) : (g.setMode x).nextRegion = g.nextRegion := rfl
@[simp] theorem setMode_ret (g : Group) (x : Mode) : (g.setMode x).ret = g.ret := rfl
@[simp] theorem setMode_rstack (g : Group) (x : Mode) : (g.setMode x).rstack = g.rstack := rfl
@[simp] theorem setMode_windows (g : Group) (x : Mode) : (g.setMode x).windows = g.windows := rfl
@[simp] theorem setMode_waitingWords (g : Group) (x : Mode) : (g.setMode x).waitingWords = g.waitingWords := rfl
@[simp] theorem setMode_abandoned (g : Group) (x : Mode) : (g.setMode x).abandoned = g.abandoned := rfl
@[simp] theorem setMode_shadow (g : Group) (x : Mode) : (g.setMode x).shadow = g.shadow := rfl
@[simp] theorem setMode_inflight (g : Group) (x : Mode) : (g.setMode x).inflight = g.inflight := rfl
@[simp] theorem setMode_assistRec (g : Group) (x : Mode) : (g.setMode x).assistRec = g.assistRec := rfl
@[simp] theorem setMode_assists (g : Group) (x : Mode) : (g.setMode x).assists = g.assists := rfl
@[simp] theorem setMode_sdraw (g : Group) (x : Mode) : (g.setMode x).sdraw = g.sdraw := rfl
@[simp] theorem setMode_draw (g : Group) (x : Mode) : (g.setMode x).draw = g.draw := rfl
@[simp] theorem setMode_nextTok (g : Group) (x : Mode) : (g.setMode x).nextTok = g.nextTok := rfl
@[simp] theorem setMode_tokDone (g : Group) (x : Mode) : (g.setMode x).tokDone = g.tokDone := rfl
@[simp] theorem setMode_nextBatch (g : Group) (x : Mode) : (g.setMode x).nextBatch = g.nextBatch := rfl
@[simp] theorem setMode_tickets (g : Group) (x : Mode) : (g.setMode x).tickets = g.tickets := rfl
@[simp] theorem setMode_nextTicket (g : Group) (x : Mode) : (g.setMode x).nextTicket = g.nextTicket := rfl
@[simp] theorem setMode_baseRows (g : Group) (x : Mode) : (g.setMode x).baseRows = g.baseRows := rfl
@[simp] theorem setMode_ext (g : Group) (x : Mode) : (g.setMode x).ext = g.ext := rfl
@[simp] theorem setMode_extRows (g : Group) (x : Mode) : (g.setMode x).extRows = g.extRows := rfl
@[simp] theorem setMode_rpf (g : Group) (x : Mode) : (g.setMode x).rpf = g.rpf := rfl
@[simp] theorem setMode_age (g : Group) (x : Mode) : (g.setMode x).age = g.age := rfl
@[simp] theorem setMode_lastIssue (g : Group) (x : Mode) : (g.setMode x).lastIssue = g.lastIssue := rfl
@[simp] theorem setMode_starved (g : Group) (x : Mode) : (g.setMode x).starved = g.starved := rfl
@[simp] theorem setMode_issued (g : Group) (x : Mode) : (g.setMode x).issued = g.issued := rfl
@[simp] theorem setMode_deadline (g : Group) (x : Mode) : (g.setMode x).deadline = g.deadline := rfl
@[simp] theorem setMode_barPhase (g : Group) (x : Mode) : (g.setMode x).barPhase = g.barPhase := rfl
@[simp] theorem setMode_barWaits (g : Group) (x : Mode) : (g.setMode x).barWaits = g.barWaits := rfl
@[simp] theorem setMode_sWait (g : Group) (x : Mode) : (g.setMode x).sWait = g.sWait := rfl
@[simp] theorem setMode_lWait (g : Group) (x : Mode) : (g.setMode x).lWait = g.lWait := rfl
@[simp] theorem setMode_exiting (g : Group) (x : Mode) : (g.setMode x).exiting = g.exiting := rfl
@[simp] theorem setMode_stopped (g : Group) (x : Mode) : (g.setMode x).stopped = g.stopped := rfl
@[simp] theorem setMode_nmPending (g : Group) (x : Mode) : (g.setMode x).nmPending = g.nmPending := rfl
@[simp] theorem setMode_nmPoison (g : Group) (x : Mode) : (g.setMode x).nmPoison = g.nmPoison := rfl
@[simp] theorem setMode_pageReq (g : Group) (x : Mode) : (g.setMode x).pageReq = g.pageReq := rfl
@[simp] theorem setMode_stackSlot (g : Group) (x : Mode) : (g.setMode x).stackSlot = g.stackSlot := rfl
@[simp] theorem setMode_fault (g : Group) (x : Mode) : (g.setMode x).fault = g.fault := rfl

/-! ### Group.raise -/

@[simp] theorem raise_st (g : Group) (x : BitVec 7) : (g.raise x).st = g.st := rfl
@[simp] theorem raise_team (g : Group) (x : BitVec 7) : (g.raise x).team = g.team := rfl
@[simp] theorem raise_gidx (g : Group) (x : BitVec 7) : (g.raise x).gidx = g.gidx := rfl
@[simp] theorem raise_width (g : Group) (x : BitVec 7) : (g.raise x).width = g.width := rfl
@[simp] theorem raise_spc (g : Group) (x : BitVec 7) : (g.raise x).spc = g.spc := rfl
@[simp] theorem raise_lpc (g : Group) (x : BitVec 7) : (g.raise x).lpc = g.lpc := rfl
@[simp] theorem raise_s (g : Group) (x : BitVec 7) : (g.raise x).s = g.s := rfl
@[simp] theorem raise_k (g : Group) (x : BitVec 7) : (g.raise x).k = g.k := rfl
@[simp] theorem raise_m (g : Group) (x : BitVec 7) : (g.raise x).m = g.m := rfl
@[simp] theorem raise_em (g : Group) (x : BitVec 7) : (g.raise x).em = g.em := rfl
@[simp] theorem raise_v (g : Group) (x : BitVec 7) : (g.raise x).v = g.v := rfl
@[simp] theorem raise_badV (g : Group) (x : BitVec 7) : (g.raise x).badV = g.badV := rfl
@[simp] theorem raise_cause (g : Group) (x : BitVec 7) : (g.raise x).cause = g.cause := rfl
@[simp] theorem raise_epcs (g : Group) (x : BitVec 7) : (g.raise x).epcs = g.epcs := rfl
@[simp] theorem raise_epcl (g : Group) (x : BitVec 7) : (g.raise x).epcl = g.epcl := rfl
@[simp] theorem raise_faultva (g : Group) (x : BitVec 7) : (g.raise x).faultva = g.faultva := rfl
@[simp] theorem raise_faultmask (g : Group) (x : BitVec 7) : (g.raise x).faultmask = g.faultmask := rfl
@[simp] theorem raise_faultprog (g : Group) (x : BitVec 7) : (g.raise x).faultprog = g.faultprog := rfl
@[simp] theorem raise_fmt (g : Group) (x : BitVec 7) : (g.raise x).fmt = g.fmt := rfl
@[simp] theorem raise_rngkey (g : Group) (x : BitVec 7) : (g.raise x).rngkey = g.rngkey := rfl
@[simp] theorem raise_slim (g : Group) (x : BitVec 7) : (g.raise x).slim = g.slim := rfl
@[simp] theorem raise_fmtS (g : Group) (x : BitVec 7) : (g.raise x).fmtS = g.fmtS := rfl
@[simp] theorem raise_rngkeyS (g : Group) (x : BitVec 7) : (g.raise x).rngkeyS = g.rngkeyS := rfl
@[simp] theorem raise_slimS (g : Group) (x : BitVec 7) : (g.raise x).slimS = g.slimS := rfl
@[simp] theorem raise_cls (g : Group) (x : BitVec 7) : (g.raise x).cls = g.cls := rfl
@[simp] theorem raise_auditclass (g : Group) (x : BitVec 7) : (g.raise x).auditclass = g.auditclass := rfl
@[simp] theorem raise_ctxid (g : Group) (x : BitVec 7) : (g.raise x).ctxid = g.ctxid := rfl
@[simp] theorem raise_lq (g : Group) (x : BitVec 7) : (g.raise x).lq = g.lq := rfl
@[simp] theorem raise_run (g : Group) (x : BitVec 7) : (g.raise x).run = g.run := rfl
@[simp] theorem raise_nextBlk (g : Group) (x : BitVec 7) : (g.raise x).nextBlk = g.nextBlk := rfl
@[simp] theorem raise_nextRegion (g : Group) (x : BitVec 7) : (g.raise x).nextRegion = g.nextRegion := rfl
@[simp] theorem raise_ret (g : Group) (x : BitVec 7) : (g.raise x).ret = g.ret := rfl
@[simp] theorem raise_rstack (g : Group) (x : BitVec 7) : (g.raise x).rstack = g.rstack := rfl
@[simp] theorem raise_windows (g : Group) (x : BitVec 7) : (g.raise x).windows = g.windows := rfl
@[simp] theorem raise_waitingWords (g : Group) (x : BitVec 7) : (g.raise x).waitingWords = g.waitingWords := rfl
@[simp] theorem raise_abandoned (g : Group) (x : BitVec 7) : (g.raise x).abandoned = g.abandoned := rfl
@[simp] theorem raise_shadow (g : Group) (x : BitVec 7) : (g.raise x).shadow = g.shadow := rfl
@[simp] theorem raise_inflight (g : Group) (x : BitVec 7) : (g.raise x).inflight = g.inflight := rfl
@[simp] theorem raise_assistRec (g : Group) (x : BitVec 7) : (g.raise x).assistRec = g.assistRec := rfl
@[simp] theorem raise_assists (g : Group) (x : BitVec 7) : (g.raise x).assists = g.assists := rfl
@[simp] theorem raise_sdraw (g : Group) (x : BitVec 7) : (g.raise x).sdraw = g.sdraw := rfl
@[simp] theorem raise_draw (g : Group) (x : BitVec 7) : (g.raise x).draw = g.draw := rfl
@[simp] theorem raise_nextTok (g : Group) (x : BitVec 7) : (g.raise x).nextTok = g.nextTok := rfl
@[simp] theorem raise_tokDone (g : Group) (x : BitVec 7) : (g.raise x).tokDone = g.tokDone := rfl
@[simp] theorem raise_nextBatch (g : Group) (x : BitVec 7) : (g.raise x).nextBatch = g.nextBatch := rfl
@[simp] theorem raise_tickets (g : Group) (x : BitVec 7) : (g.raise x).tickets = g.tickets := rfl
@[simp] theorem raise_nextTicket (g : Group) (x : BitVec 7) : (g.raise x).nextTicket = g.nextTicket := rfl
@[simp] theorem raise_baseRows (g : Group) (x : BitVec 7) : (g.raise x).baseRows = g.baseRows := rfl
@[simp] theorem raise_ext (g : Group) (x : BitVec 7) : (g.raise x).ext = g.ext := rfl
@[simp] theorem raise_extRows (g : Group) (x : BitVec 7) : (g.raise x).extRows = g.extRows := rfl
@[simp] theorem raise_rpf (g : Group) (x : BitVec 7) : (g.raise x).rpf = g.rpf := rfl
@[simp] theorem raise_age (g : Group) (x : BitVec 7) : (g.raise x).age = g.age := rfl
@[simp] theorem raise_lastIssue (g : Group) (x : BitVec 7) : (g.raise x).lastIssue = g.lastIssue := rfl
@[simp] theorem raise_starved (g : Group) (x : BitVec 7) : (g.raise x).starved = g.starved := rfl
@[simp] theorem raise_issued (g : Group) (x : BitVec 7) : (g.raise x).issued = g.issued := rfl
@[simp] theorem raise_deadline (g : Group) (x : BitVec 7) : (g.raise x).deadline = g.deadline := rfl
@[simp] theorem raise_barPhase (g : Group) (x : BitVec 7) : (g.raise x).barPhase = g.barPhase := rfl
@[simp] theorem raise_barWaits (g : Group) (x : BitVec 7) : (g.raise x).barWaits = g.barWaits := rfl
@[simp] theorem raise_sWait (g : Group) (x : BitVec 7) : (g.raise x).sWait = g.sWait := rfl
@[simp] theorem raise_lWait (g : Group) (x : BitVec 7) : (g.raise x).lWait = g.lWait := rfl
@[simp] theorem raise_exiting (g : Group) (x : BitVec 7) : (g.raise x).exiting = g.exiting := rfl
@[simp] theorem raise_stopped (g : Group) (x : BitVec 7) : (g.raise x).stopped = g.stopped := rfl
@[simp] theorem raise_nmPending (g : Group) (x : BitVec 7) : (g.raise x).nmPending = g.nmPending := rfl
@[simp] theorem raise_nmPoison (g : Group) (x : BitVec 7) : (g.raise x).nmPoison = g.nmPoison := rfl
@[simp] theorem raise_pageReq (g : Group) (x : BitVec 7) : (g.raise x).pageReq = g.pageReq := rfl
@[simp] theorem raise_stackSlot (g : Group) (x : BitVec 7) : (g.raise x).stackSlot = g.stackSlot := rfl
@[simp] theorem raise_fault (g : Group) (x : BitVec 7) : (g.raise x).fault = g.fault := rfl

/-! ### Group.tmiss -/

@[simp] theorem tmiss_st (g : Group) : (g.tmiss).st = g.st := rfl
@[simp] theorem tmiss_team (g : Group) : (g.tmiss).team = g.team := rfl
@[simp] theorem tmiss_gidx (g : Group) : (g.tmiss).gidx = g.gidx := rfl
@[simp] theorem tmiss_width (g : Group) : (g.tmiss).width = g.width := rfl
@[simp] theorem tmiss_spc (g : Group) : (g.tmiss).spc = g.spc := rfl
@[simp] theorem tmiss_lpc (g : Group) : (g.tmiss).lpc = g.lpc := rfl
@[simp] theorem tmiss_s (g : Group) : (g.tmiss).s = g.s := rfl
@[simp] theorem tmiss_k (g : Group) : (g.tmiss).k = g.k := rfl
@[simp] theorem tmiss_m (g : Group) : (g.tmiss).m = g.m := rfl
@[simp] theorem tmiss_em (g : Group) : (g.tmiss).em = g.em := rfl
@[simp] theorem tmiss_v (g : Group) : (g.tmiss).v = g.v := rfl
@[simp] theorem tmiss_badV (g : Group) : (g.tmiss).badV = g.badV := rfl
@[simp] theorem tmiss_cause (g : Group) : (g.tmiss).cause = g.cause := rfl
@[simp] theorem tmiss_epcs (g : Group) : (g.tmiss).epcs = g.epcs := rfl
@[simp] theorem tmiss_epcl (g : Group) : (g.tmiss).epcl = g.epcl := rfl
@[simp] theorem tmiss_faultva (g : Group) : (g.tmiss).faultva = g.faultva := rfl
@[simp] theorem tmiss_faultmask (g : Group) : (g.tmiss).faultmask = g.faultmask := rfl
@[simp] theorem tmiss_faultprog (g : Group) : (g.tmiss).faultprog = g.faultprog := rfl
@[simp] theorem tmiss_fmt (g : Group) : (g.tmiss).fmt = g.fmt := rfl
@[simp] theorem tmiss_rngkey (g : Group) : (g.tmiss).rngkey = g.rngkey := rfl
@[simp] theorem tmiss_slim (g : Group) : (g.tmiss).slim = g.slim := rfl
@[simp] theorem tmiss_fmtS (g : Group) : (g.tmiss).fmtS = g.fmtS := rfl
@[simp] theorem tmiss_rngkeyS (g : Group) : (g.tmiss).rngkeyS = g.rngkeyS := rfl
@[simp] theorem tmiss_slimS (g : Group) : (g.tmiss).slimS = g.slimS := rfl
@[simp] theorem tmiss_cls (g : Group) : (g.tmiss).cls = g.cls := rfl
@[simp] theorem tmiss_auditclass (g : Group) : (g.tmiss).auditclass = g.auditclass := rfl
@[simp] theorem tmiss_ctxid (g : Group) : (g.tmiss).ctxid = g.ctxid := rfl
@[simp] theorem tmiss_lq (g : Group) : (g.tmiss).lq = g.lq := rfl
@[simp] theorem tmiss_run (g : Group) : (g.tmiss).run = g.run := rfl
@[simp] theorem tmiss_nextBlk (g : Group) : (g.tmiss).nextBlk = g.nextBlk := rfl
@[simp] theorem tmiss_nextRegion (g : Group) : (g.tmiss).nextRegion = g.nextRegion := rfl
@[simp] theorem tmiss_ret (g : Group) : (g.tmiss).ret = g.ret := rfl
@[simp] theorem tmiss_rstack (g : Group) : (g.tmiss).rstack = g.rstack := rfl
@[simp] theorem tmiss_windows (g : Group) : (g.tmiss).windows = g.windows := rfl
@[simp] theorem tmiss_waitingWords (g : Group) : (g.tmiss).waitingWords = g.waitingWords := rfl
@[simp] theorem tmiss_abandoned (g : Group) : (g.tmiss).abandoned = g.abandoned := rfl
@[simp] theorem tmiss_shadow (g : Group) : (g.tmiss).shadow = g.shadow := rfl
@[simp] theorem tmiss_inflight (g : Group) : (g.tmiss).inflight = g.inflight := rfl
@[simp] theorem tmiss_assistRec (g : Group) : (g.tmiss).assistRec = g.assistRec := rfl
@[simp] theorem tmiss_assists (g : Group) : (g.tmiss).assists = g.assists := rfl
@[simp] theorem tmiss_sdraw (g : Group) : (g.tmiss).sdraw = g.sdraw := rfl
@[simp] theorem tmiss_draw (g : Group) : (g.tmiss).draw = g.draw := rfl
@[simp] theorem tmiss_nextTok (g : Group) : (g.tmiss).nextTok = g.nextTok := rfl
@[simp] theorem tmiss_tokDone (g : Group) : (g.tmiss).tokDone = g.tokDone := rfl
@[simp] theorem tmiss_nextBatch (g : Group) : (g.tmiss).nextBatch = g.nextBatch := rfl
@[simp] theorem tmiss_tickets (g : Group) : (g.tmiss).tickets = g.tickets := rfl
@[simp] theorem tmiss_nextTicket (g : Group) : (g.tmiss).nextTicket = g.nextTicket := rfl
@[simp] theorem tmiss_baseRows (g : Group) : (g.tmiss).baseRows = g.baseRows := rfl
@[simp] theorem tmiss_ext (g : Group) : (g.tmiss).ext = g.ext := rfl
@[simp] theorem tmiss_extRows (g : Group) : (g.tmiss).extRows = g.extRows := rfl
@[simp] theorem tmiss_rpf (g : Group) : (g.tmiss).rpf = g.rpf := rfl
@[simp] theorem tmiss_age (g : Group) : (g.tmiss).age = g.age := rfl
@[simp] theorem tmiss_lastIssue (g : Group) : (g.tmiss).lastIssue = g.lastIssue := rfl
@[simp] theorem tmiss_starved (g : Group) : (g.tmiss).starved = g.starved := rfl
@[simp] theorem tmiss_issued (g : Group) : (g.tmiss).issued = g.issued := rfl
@[simp] theorem tmiss_deadline (g : Group) : (g.tmiss).deadline = g.deadline := rfl
@[simp] theorem tmiss_barPhase (g : Group) : (g.tmiss).barPhase = g.barPhase := rfl
@[simp] theorem tmiss_barWaits (g : Group) : (g.tmiss).barWaits = g.barWaits := rfl
@[simp] theorem tmiss_sWait (g : Group) : (g.tmiss).sWait = g.sWait := rfl
@[simp] theorem tmiss_lWait (g : Group) : (g.tmiss).lWait = g.lWait := rfl
@[simp] theorem tmiss_exiting (g : Group) : (g.tmiss).exiting = g.exiting := rfl
@[simp] theorem tmiss_stopped (g : Group) : (g.tmiss).stopped = g.stopped := rfl
@[simp] theorem tmiss_nmPending (g : Group) : (g.tmiss).nmPending = g.nmPending := rfl
@[simp] theorem tmiss_nmPoison (g : Group) : (g.tmiss).nmPoison = g.nmPoison := rfl
@[simp] theorem tmiss_pageReq (g : Group) : (g.tmiss).pageReq = g.pageReq := rfl
@[simp] theorem tmiss_stackSlot (g : Group) : (g.tmiss).stackSlot = g.stackSlot := rfl
@[simp] theorem tmiss_fault (g : Group) : (g.tmiss).fault = g.fault := rfl

/-! ### Group.issue -/

@[simp] theorem issue_st (g : Group) (x : Nat) : (g.issue x).st = g.st := rfl
@[simp] theorem issue_team (g : Group) (x : Nat) : (g.issue x).team = g.team := rfl
@[simp] theorem issue_gidx (g : Group) (x : Nat) : (g.issue x).gidx = g.gidx := rfl
@[simp] theorem issue_width (g : Group) (x : Nat) : (g.issue x).width = g.width := rfl
@[simp] theorem issue_spc (g : Group) (x : Nat) : (g.issue x).spc = g.spc := rfl
@[simp] theorem issue_lpc (g : Group) (x : Nat) : (g.issue x).lpc = g.lpc := rfl
@[simp] theorem issue_s (g : Group) (x : Nat) : (g.issue x).s = g.s := rfl
@[simp] theorem issue_k (g : Group) (x : Nat) : (g.issue x).k = g.k := rfl
@[simp] theorem issue_m (g : Group) (x : Nat) : (g.issue x).m = g.m := rfl
@[simp] theorem issue_em (g : Group) (x : Nat) : (g.issue x).em = g.em := rfl
@[simp] theorem issue_v (g : Group) (x : Nat) : (g.issue x).v = g.v := rfl
@[simp] theorem issue_badV (g : Group) (x : Nat) : (g.issue x).badV = g.badV := rfl
@[simp] theorem issue_status (g : Group) (x : Nat) : (g.issue x).status = g.status := rfl
@[simp] theorem issue_cause (g : Group) (x : Nat) : (g.issue x).cause = g.cause := rfl
@[simp] theorem issue_epcs (g : Group) (x : Nat) : (g.issue x).epcs = g.epcs := rfl
@[simp] theorem issue_epcl (g : Group) (x : Nat) : (g.issue x).epcl = g.epcl := rfl
@[simp] theorem issue_faultva (g : Group) (x : Nat) : (g.issue x).faultva = g.faultva := rfl
@[simp] theorem issue_faultmask (g : Group) (x : Nat) : (g.issue x).faultmask = g.faultmask := rfl
@[simp] theorem issue_faultprog (g : Group) (x : Nat) : (g.issue x).faultprog = g.faultprog := rfl
@[simp] theorem issue_fmt (g : Group) (x : Nat) : (g.issue x).fmt = g.fmt := rfl
@[simp] theorem issue_rngkey (g : Group) (x : Nat) : (g.issue x).rngkey = g.rngkey := rfl
@[simp] theorem issue_slim (g : Group) (x : Nat) : (g.issue x).slim = g.slim := rfl
@[simp] theorem issue_fmtS (g : Group) (x : Nat) : (g.issue x).fmtS = g.fmtS := rfl
@[simp] theorem issue_rngkeyS (g : Group) (x : Nat) : (g.issue x).rngkeyS = g.rngkeyS := rfl
@[simp] theorem issue_slimS (g : Group) (x : Nat) : (g.issue x).slimS = g.slimS := rfl
@[simp] theorem issue_cls (g : Group) (x : Nat) : (g.issue x).cls = g.cls := rfl
@[simp] theorem issue_auditclass (g : Group) (x : Nat) : (g.issue x).auditclass = g.auditclass := rfl
@[simp] theorem issue_ctxid (g : Group) (x : Nat) : (g.issue x).ctxid = g.ctxid := rfl
@[simp] theorem issue_lq (g : Group) (x : Nat) : (g.issue x).lq = g.lq := rfl
@[simp] theorem issue_run (g : Group) (x : Nat) : (g.issue x).run = g.run := rfl
@[simp] theorem issue_nextBlk (g : Group) (x : Nat) : (g.issue x).nextBlk = g.nextBlk := rfl
@[simp] theorem issue_nextRegion (g : Group) (x : Nat) : (g.issue x).nextRegion = g.nextRegion := rfl
@[simp] theorem issue_ret (g : Group) (x : Nat) : (g.issue x).ret = g.ret := rfl
@[simp] theorem issue_rstack (g : Group) (x : Nat) : (g.issue x).rstack = g.rstack := rfl
@[simp] theorem issue_windows (g : Group) (x : Nat) : (g.issue x).windows = g.windows := rfl
@[simp] theorem issue_waitingWords (g : Group) (x : Nat) : (g.issue x).waitingWords = g.waitingWords := rfl
@[simp] theorem issue_abandoned (g : Group) (x : Nat) : (g.issue x).abandoned = g.abandoned := rfl
@[simp] theorem issue_shadow (g : Group) (x : Nat) : (g.issue x).shadow = g.shadow := rfl
@[simp] theorem issue_inflight (g : Group) (x : Nat) : (g.issue x).inflight = g.inflight := rfl
@[simp] theorem issue_assistRec (g : Group) (x : Nat) : (g.issue x).assistRec = g.assistRec := rfl
@[simp] theorem issue_assists (g : Group) (x : Nat) : (g.issue x).assists = g.assists := rfl
@[simp] theorem issue_sdraw (g : Group) (x : Nat) : (g.issue x).sdraw = g.sdraw := rfl
@[simp] theorem issue_draw (g : Group) (x : Nat) : (g.issue x).draw = g.draw := rfl
@[simp] theorem issue_nextTok (g : Group) (x : Nat) : (g.issue x).nextTok = g.nextTok := rfl
@[simp] theorem issue_tokDone (g : Group) (x : Nat) : (g.issue x).tokDone = g.tokDone := rfl
@[simp] theorem issue_nextBatch (g : Group) (x : Nat) : (g.issue x).nextBatch = g.nextBatch := rfl
@[simp] theorem issue_tickets (g : Group) (x : Nat) : (g.issue x).tickets = g.tickets := rfl
@[simp] theorem issue_nextTicket (g : Group) (x : Nat) : (g.issue x).nextTicket = g.nextTicket := rfl
@[simp] theorem issue_baseRows (g : Group) (x : Nat) : (g.issue x).baseRows = g.baseRows := rfl
@[simp] theorem issue_ext (g : Group) (x : Nat) : (g.issue x).ext = g.ext := rfl
@[simp] theorem issue_extRows (g : Group) (x : Nat) : (g.issue x).extRows = g.extRows := rfl
@[simp] theorem issue_rpf (g : Group) (x : Nat) : (g.issue x).rpf = g.rpf := rfl
@[simp] theorem issue_age (g : Group) (x : Nat) : (g.issue x).age = g.age := rfl
@[simp] theorem issue_deadline (g : Group) (x : Nat) : (g.issue x).deadline = g.deadline := rfl
@[simp] theorem issue_barPhase (g : Group) (x : Nat) : (g.issue x).barPhase = g.barPhase := rfl
@[simp] theorem issue_barWaits (g : Group) (x : Nat) : (g.issue x).barWaits = g.barWaits := rfl
@[simp] theorem issue_sWait (g : Group) (x : Nat) : (g.issue x).sWait = g.sWait := rfl
@[simp] theorem issue_lWait (g : Group) (x : Nat) : (g.issue x).lWait = g.lWait := rfl
@[simp] theorem issue_exiting (g : Group) (x : Nat) : (g.issue x).exiting = g.exiting := rfl
@[simp] theorem issue_stopped (g : Group) (x : Nat) : (g.issue x).stopped = g.stopped := rfl
@[simp] theorem issue_nmPending (g : Group) (x : Nat) : (g.issue x).nmPending = g.nmPending := rfl
@[simp] theorem issue_nmPoison (g : Group) (x : Nat) : (g.issue x).nmPoison = g.nmPoison := rfl
@[simp] theorem issue_pageReq (g : Group) (x : Nat) : (g.issue x).pageReq = g.pageReq := rfl
@[simp] theorem issue_stackSlot (g : Group) (x : Nat) : (g.issue x).stackSlot = g.stackSlot := rfl
@[simp] theorem issue_fault (g : Group) (x : Nat) : (g.issue x).fault = g.fault := rfl

/-! ### Group.setS -/

@[simp] theorem setS_st (g : Group) (d : SReg) (v : Word) : (g.setS d v).st = g.st := by unfold Group.setS; split <;> rfl
@[simp] theorem setS_team (g : Group) (d : SReg) (v : Word) : (g.setS d v).team = g.team := by unfold Group.setS; split <;> rfl
@[simp] theorem setS_gidx (g : Group) (d : SReg) (v : Word) : (g.setS d v).gidx = g.gidx := by unfold Group.setS; split <;> rfl
@[simp] theorem setS_width (g : Group) (d : SReg) (v : Word) : (g.setS d v).width = g.width := by unfold Group.setS; split <;> rfl
@[simp] theorem setS_spc (g : Group) (d : SReg) (v : Word) : (g.setS d v).spc = g.spc := by unfold Group.setS; split <;> rfl
@[simp] theorem setS_lpc (g : Group) (d : SReg) (v : Word) : (g.setS d v).lpc = g.lpc := by unfold Group.setS; split <;> rfl
@[simp] theorem setS_k (g : Group) (d : SReg) (v : Word) : (g.setS d v).k = g.k := by unfold Group.setS; split <;> rfl
@[simp] theorem setS_m (g : Group) (d : SReg) (v : Word) : (g.setS d v).m = g.m := by unfold Group.setS; split <;> rfl
@[simp] theorem setS_em (g : Group) (d : SReg) (v : Word) : (g.setS d v).em = g.em := by unfold Group.setS; split <;> rfl
@[simp] theorem setS_v (g : Group) (d : SReg) (v : Word) : (g.setS d v).v = g.v := by unfold Group.setS; split <;> rfl
@[simp] theorem setS_badV (g : Group) (d : SReg) (v : Word) : (g.setS d v).badV = g.badV := by unfold Group.setS; split <;> rfl
@[simp] theorem setS_status (g : Group) (d : SReg) (v : Word) : (g.setS d v).status = g.status := by unfold Group.setS; split <;> rfl
@[simp] theorem setS_cause (g : Group) (d : SReg) (v : Word) : (g.setS d v).cause = g.cause := by unfold Group.setS; split <;> rfl
@[simp] theorem setS_epcs (g : Group) (d : SReg) (v : Word) : (g.setS d v).epcs = g.epcs := by unfold Group.setS; split <;> rfl
@[simp] theorem setS_epcl (g : Group) (d : SReg) (v : Word) : (g.setS d v).epcl = g.epcl := by unfold Group.setS; split <;> rfl
@[simp] theorem setS_faultva (g : Group) (d : SReg) (v : Word) : (g.setS d v).faultva = g.faultva := by unfold Group.setS; split <;> rfl
@[simp] theorem setS_faultmask (g : Group) (d : SReg) (v : Word) : (g.setS d v).faultmask = g.faultmask := by unfold Group.setS; split <;> rfl
@[simp] theorem setS_faultprog (g : Group) (d : SReg) (v : Word) : (g.setS d v).faultprog = g.faultprog := by unfold Group.setS; split <;> rfl
@[simp] theorem setS_fmt (g : Group) (d : SReg) (v : Word) : (g.setS d v).fmt = g.fmt := by unfold Group.setS; split <;> rfl
@[simp] theorem setS_rngkey (g : Group) (d : SReg) (v : Word) : (g.setS d v).rngkey = g.rngkey := by unfold Group.setS; split <;> rfl
@[simp] theorem setS_slim (g : Group) (d : SReg) (v : Word) : (g.setS d v).slim = g.slim := by unfold Group.setS; split <;> rfl
@[simp] theorem setS_fmtS (g : Group) (d : SReg) (v : Word) : (g.setS d v).fmtS = g.fmtS := by unfold Group.setS; split <;> rfl
@[simp] theorem setS_rngkeyS (g : Group) (d : SReg) (v : Word) : (g.setS d v).rngkeyS = g.rngkeyS := by unfold Group.setS; split <;> rfl
@[simp] theorem setS_slimS (g : Group) (d : SReg) (v : Word) : (g.setS d v).slimS = g.slimS := by unfold Group.setS; split <;> rfl
@[simp] theorem setS_cls (g : Group) (d : SReg) (v : Word) : (g.setS d v).cls = g.cls := by unfold Group.setS; split <;> rfl
@[simp] theorem setS_auditclass (g : Group) (d : SReg) (v : Word) : (g.setS d v).auditclass = g.auditclass := by unfold Group.setS; split <;> rfl
@[simp] theorem setS_ctxid (g : Group) (d : SReg) (v : Word) : (g.setS d v).ctxid = g.ctxid := by unfold Group.setS; split <;> rfl
@[simp] theorem setS_lq (g : Group) (d : SReg) (v : Word) : (g.setS d v).lq = g.lq := by unfold Group.setS; split <;> rfl
@[simp] theorem setS_run (g : Group) (d : SReg) (v : Word) : (g.setS d v).run = g.run := by unfold Group.setS; split <;> rfl
@[simp] theorem setS_nextBlk (g : Group) (d : SReg) (v : Word) : (g.setS d v).nextBlk = g.nextBlk := by unfold Group.setS; split <;> rfl
@[simp] theorem setS_nextRegion (g : Group) (d : SReg) (v : Word) : (g.setS d v).nextRegion = g.nextRegion := by unfold Group.setS; split <;> rfl
@[simp] theorem setS_ret (g : Group) (d : SReg) (v : Word) : (g.setS d v).ret = g.ret := by unfold Group.setS; split <;> rfl
@[simp] theorem setS_rstack (g : Group) (d : SReg) (v : Word) : (g.setS d v).rstack = g.rstack := by unfold Group.setS; split <;> rfl
@[simp] theorem setS_windows (g : Group) (d : SReg) (v : Word) : (g.setS d v).windows = g.windows := by unfold Group.setS; split <;> rfl
@[simp] theorem setS_waitingWords (g : Group) (d : SReg) (v : Word) : (g.setS d v).waitingWords = g.waitingWords := by unfold Group.setS; split <;> rfl
@[simp] theorem setS_abandoned (g : Group) (d : SReg) (v : Word) : (g.setS d v).abandoned = g.abandoned := by unfold Group.setS; split <;> rfl
@[simp] theorem setS_shadow (g : Group) (d : SReg) (v : Word) : (g.setS d v).shadow = g.shadow := by unfold Group.setS; split <;> rfl
@[simp] theorem setS_inflight (g : Group) (d : SReg) (v : Word) : (g.setS d v).inflight = g.inflight := by unfold Group.setS; split <;> rfl
@[simp] theorem setS_assistRec (g : Group) (d : SReg) (v : Word) : (g.setS d v).assistRec = g.assistRec := by unfold Group.setS; split <;> rfl
@[simp] theorem setS_assists (g : Group) (d : SReg) (v : Word) : (g.setS d v).assists = g.assists := by unfold Group.setS; split <;> rfl
@[simp] theorem setS_sdraw (g : Group) (d : SReg) (v : Word) : (g.setS d v).sdraw = g.sdraw := by unfold Group.setS; split <;> rfl
@[simp] theorem setS_draw (g : Group) (d : SReg) (v : Word) : (g.setS d v).draw = g.draw := by unfold Group.setS; split <;> rfl
@[simp] theorem setS_nextTok (g : Group) (d : SReg) (v : Word) : (g.setS d v).nextTok = g.nextTok := by unfold Group.setS; split <;> rfl
@[simp] theorem setS_tokDone (g : Group) (d : SReg) (v : Word) : (g.setS d v).tokDone = g.tokDone := by unfold Group.setS; split <;> rfl
@[simp] theorem setS_nextBatch (g : Group) (d : SReg) (v : Word) : (g.setS d v).nextBatch = g.nextBatch := by unfold Group.setS; split <;> rfl
@[simp] theorem setS_tickets (g : Group) (d : SReg) (v : Word) : (g.setS d v).tickets = g.tickets := by unfold Group.setS; split <;> rfl
@[simp] theorem setS_nextTicket (g : Group) (d : SReg) (v : Word) : (g.setS d v).nextTicket = g.nextTicket := by unfold Group.setS; split <;> rfl
@[simp] theorem setS_baseRows (g : Group) (d : SReg) (v : Word) : (g.setS d v).baseRows = g.baseRows := by unfold Group.setS; split <;> rfl
@[simp] theorem setS_ext (g : Group) (d : SReg) (v : Word) : (g.setS d v).ext = g.ext := by unfold Group.setS; split <;> rfl
@[simp] theorem setS_extRows (g : Group) (d : SReg) (v : Word) : (g.setS d v).extRows = g.extRows := by unfold Group.setS; split <;> rfl
@[simp] theorem setS_rpf (g : Group) (d : SReg) (v : Word) : (g.setS d v).rpf = g.rpf := by unfold Group.setS; split <;> rfl
@[simp] theorem setS_age (g : Group) (d : SReg) (v : Word) : (g.setS d v).age = g.age := by unfold Group.setS; split <;> rfl
@[simp] theorem setS_lastIssue (g : Group) (d : SReg) (v : Word) : (g.setS d v).lastIssue = g.lastIssue := by unfold Group.setS; split <;> rfl
@[simp] theorem setS_starved (g : Group) (d : SReg) (v : Word) : (g.setS d v).starved = g.starved := by unfold Group.setS; split <;> rfl
@[simp] theorem setS_issued (g : Group) (d : SReg) (v : Word) : (g.setS d v).issued = g.issued := by unfold Group.setS; split <;> rfl
@[simp] theorem setS_deadline (g : Group) (d : SReg) (v : Word) : (g.setS d v).deadline = g.deadline := by unfold Group.setS; split <;> rfl
@[simp] theorem setS_barPhase (g : Group) (d : SReg) (v : Word) : (g.setS d v).barPhase = g.barPhase := by unfold Group.setS; split <;> rfl
@[simp] theorem setS_barWaits (g : Group) (d : SReg) (v : Word) : (g.setS d v).barWaits = g.barWaits := by unfold Group.setS; split <;> rfl
@[simp] theorem setS_sWait (g : Group) (d : SReg) (v : Word) : (g.setS d v).sWait = g.sWait := by unfold Group.setS; split <;> rfl
@[simp] theorem setS_lWait (g : Group) (d : SReg) (v : Word) : (g.setS d v).lWait = g.lWait := by unfold Group.setS; split <;> rfl
@[simp] theorem setS_exiting (g : Group) (d : SReg) (v : Word) : (g.setS d v).exiting = g.exiting := by unfold Group.setS; split <;> rfl
@[simp] theorem setS_stopped (g : Group) (d : SReg) (v : Word) : (g.setS d v).stopped = g.stopped := by unfold Group.setS; split <;> rfl
@[simp] theorem setS_nmPending (g : Group) (d : SReg) (v : Word) : (g.setS d v).nmPending = g.nmPending := by unfold Group.setS; split <;> rfl
@[simp] theorem setS_nmPoison (g : Group) (d : SReg) (v : Word) : (g.setS d v).nmPoison = g.nmPoison := by unfold Group.setS; split <;> rfl
@[simp] theorem setS_pageReq (g : Group) (d : SReg) (v : Word) : (g.setS d v).pageReq = g.pageReq := by unfold Group.setS; split <;> rfl
@[simp] theorem setS_stackSlot (g : Group) (d : SReg) (v : Word) : (g.setS d v).stackSlot = g.stackSlot := by unfold Group.setS; split <;> rfl
@[simp] theorem setS_fault (g : Group) (d : SReg) (v : Word) : (g.setS d v).fault = g.fault := by unfold Group.setS; split <;> rfl

end Sys2Proof.Laws
end

