-- ==== Sys2Proof/Laws/Lane.lean ====
section
/-! SUPPORT. What the shared operation of the lane words does: results delivered to their consumers. -/

namespace Sys2Proof.Laws

open Sys2Proof.Machine

/-- A fold of writes leaves every other key alone. -/
theorem sget_writes_ne {α : Type} [DecidableEq α] (d : α) {j : Nat} (l : List (Nat × α)) (st : Store α) (h : ∀ p ∈ l, j ≠ p.1) :
    sget d j (l.foldl (fun v p => sset d p.1 p.2 v) st) = sget d j st := by
  induction l generalizing st with
  | nil => rfl
  | cons p r ih =>
    rw [List.foldl_cons, ih _ fun q hq => h q (List.mem_cons_of_mem _ hq), sget_sset_ne _ _ _ (h p List.mem_cons_self)]

/-- A fold of writes with distinct keys leaves each value under its key. -/
theorem sget_writes {α : Type} [DecidableEq α] (d : α) {p : Nat × α} {l : List (Nat × α)} (st : Store α)
    (hn : (l.map Prod.fst).Nodup) (h : p ∈ l) : sget d p.1 (l.foldl (fun v p => sset d p.1 p.2 v) st) = p.2 := by
  induction l generalizing st with
  | nil => cases h
  | cons q r ih =>
    rw [List.foldl_cons]
    simp only [List.map_cons, List.nodup_cons, List.mem_map, not_exists, not_and] at hn
    rcases List.mem_cons.1 h with rfl | h
    · rw [sget_writes_ne _ _ _ fun x hx e => hn.1 x hx e.symm, sget_sset_same]
    · exact ih _ hn.2 h

/-- Which bits a width's mask has. -/
theorem widthMask_bit (w k : Nat) : (widthMask w).getLsbD k = (decide (k < 64) && decide (k < w)) := by
  unfold widthMask
  rw [BitVec.getLsbD_ofNat, Nat.testBit_two_pow_sub_one]

/-- An active lane lies below the width and below 64. -/
theorem active_lt {s : State} {m k : Nat} (h : (s.active m).getLsbD k = true) : k < s.g.width ∧ k < 64 := by
  unfold State.active at h
  simp only [BitVec.getLsbD_and, Bool.and_eq_true, widthMask_bit, decide_eq_true_eq] at h
  omega

/-- The draws that a word reads with leave its group's width alone. -/
@[simp] theorem withDraws_width (g : Group) (w : LaneWord) : (g.withDraws w).width = g.width := by
  unfold Group.withDraws; split <;> rfl

/-- The active lanes are the set bits of the mask. -/
theorem mem_actives {s : State} {rows : List (List W32)} {mreg : BitVec 4} {k : Nat} :
    k ∈ (laneEnv s rows mreg).actives ↔ (s.active mreg.toNat).getLsbD k = true := by
  unfold Env.actives Env.lanes
  rw [List.mem_filter, List.mem_range]
  exact ⟨And.right, fun h => ⟨by rw [show (laneEnv s rows mreg).g.width = s.g.width from withDraws_width ..]; exact (active_lt h).1, h⟩⟩

theorem actives_nodup (e : Env) : e.actives.Nodup := List.nodup_range.filter _

/-- The state with a lane word's queues and A rows delivered. -/
def laneMid (s : State) (c : Consumer) (q : Store (List (List W32))) (elems : List Elem) : State :=
  let q1 := if c.cmask.getLsbD 2 then sset [] (bitsOf c.route 0 2) (sget [] (bitsOf c.route 0 2) q ++ queueRows s.g.width elems) q else q
  if c.cmask.getLsbD 1 then (s.setQueues q1).writeArow (arowWrites c.route elems) else s.setQueues q1

/-- What a lane word makes of its group's registers and flags. -/
def laneRegs (c : Consumer) (elems : List Elem) (regs : List (Nat × Elem)) (masks : List (Nat × Word)) (fl : Flags)
    (upd : Group → Group) (g : Group) : Group :=
  (upd (masks.foldl (fun g m => g.setM m.1 m.2)
    (g.writeElems ((if c.cmask.getLsbD 0 then destWrites c.vd c.pair elems else []) ++ regs.flatMap fun r => destWrites r.1 false [r.2])))).raise fl

/-- The next word of the lane stream. -/
def laneMove (s : State) (u : Uses) (g : Group) : Group :=
  { ((if s.cur.lane.counted then g else g.count_ u).leave s.cur.src).issue s.now with lWait := none }

/-- Pops touch the team's queues alone. -/
theorem popBad_shape (s : State) (l : List VReg) : s.popBad l = { s with teams := (s.popBad l).teams } := by
  unfold State.popBad; split <;> rfl

/-- They leave every other team alone, -/
theorem popBad_other (s : State) (l : List VReg) {k : Nat} (h : k ≠ s.g.team) : lookupKey k (s.popBad l).teams = lookupKey k s.teams := by
  unfold State.popBad
  split
  · show lookupKey k (sins s.g.team _ (serase s.g.team s.teams)) = _
    rw [lookup_sins_ne _ _ h, lookup_serase_ne _ h]
  · rfl

/-- and of their own team only where its queues hold errors. -/
theorem popBad_team (s : State) (l : List VReg) {tm : Team} (h : s.teamOf s.g = some tm) :
    ∃ x, lookupKey s.g.team (s.popBad l).teams = some { tm with qbad := x } := by
  unfold State.popBad
  split
  · rename_i t _ h2
    rw [h] at h2
    cases h2
    exact ⟨_, lookup_sins_same _ _ _ (lookup_serase_same ..)⟩
  · exact ⟨tm.qbad, h⟩

theorem queueRows_length (w : Nat) (l : List Elem) : (queueRows w l).length = rowsPer w := by
  unfold queueRows; rw [List.length_map, List.length_range]

theorem filter_false {α : Type} {p : α → Bool} {l : List α} (h : ∀ x ∈ l, p x = false) : l.filter p = [] := by
  rw [List.filter_eq_nil_iff]; intro x hx; rw [h x hx]; decide
theorem filter_true {α : Type} {p : α → Bool} {l : List α} (h : ∀ x ∈ l, p x = true) : l.filter p = l := List.filter_eq_self.2 h

theorem setQueues_shape (s : State) (q : Store (List (List W32))) : s.setQueues q = { s with teams := (s.setQueues q).teams } := by
  unfold State.setQueues; split <;> rfl
theorem laneMid_shape (s : State) (c : Consumer) (q : Store (List (List W32))) (l : List Elem) :
    laneMid s c q l = { s with teams := (laneMid s c q l).teams, cores := (laneMid s c q l).cores } := by
  unfold laneMid; dsimp only
  by_cases h : c.cmask.getLsbD 1 = true
  · rw [if_pos h]; unfold State.setQueues; split <;> rfl
  · rw [if_neg h]; unfold State.setQueues; split <;> rfl

/-- After delivery the stream moves on as the state before it says. -/
theorem laneNext_modG {s x : State} (u : Uses) (f : Group → Group) (hc : x.cur = s.cur) (hd : x.dies = s.dies) (ht : x.time = s.time) :
    (x.modG f).laneNext u = x.modG fun g => laneMove s u (f g) := by
  have hn : State.now x = s.now := by unfold State.now State.cycles State.dieCycles State.dieAt; rw [hc, hd, ht]
  unfold State.laneNext laneMove
  rw [modG_modG, ← hn, ← hc]
  rfl

/-- A lane word that can execute, and whose results need no assist, completes. -/
theorem runLane_eq {s : State} {u : Uses} {c : Consumer} {fields : List VReg} {q : Store (List (List W32))} {rows : List (List W32)}
    {pf : Flags} {mreg : BitVec 4} {f : Env → LaneDo} {elems : List Elem} {regs : List (Nat × Elem)} {masks : List (Nat × Word)}
    {fl : Flags} {upd : Group → Group} (h : laneStart s u c mreg fields q rows pf)
    (hf : f (laneEnv s rows mreg) = .out elems regs masks fl upd) (he : ∀ x ∈ elems, x.assist = false)
    (hr : ∀ x ∈ regs, x.2.assist = false) :
    runLane u mreg.toNat false c fields f s
      = .next ((laneMid (s.popBad fields) c q elems).modG fun g => laneMove s u (laneRegs c elems regs masks (fl ||| pf) (s.cur.lane.upd upd) g)) := by
  obtain ⟨h1, h2, hb0, h3, h4⟩ := h
  have h2 : s.issueWait u = none := by simpa [State.mustWait] using h2
  have ha : elems.filter (fun x => x.assist) = [] := filter_false he
  have hb : elems.filter (fun x => !x.assist) = elems := filter_true fun x hx => by rw [he x hx]; rfl
  have hc : regs.filter (fun x => x.2.assist == false) = regs := filter_true fun x hx => by rw [hr x hx]; rfl
  have hd : regs.any (fun x => x.2.assist) = false := List.any_eq_false.2 fun x hx => by rw [hr x hx]; decide
  unfold runLane
  dsimp only
  rw [Bool.false_or, h1]
  dsimp only
  rw [h2]
  dsimp only
  rw [h3]
  dsimp only
  rw [if_neg (by rw [hb0]; decide), show (⟨s.g.withDraws s.cur.lane, s.cur.lane, rows, s.active mreg.toNat, s.nprodOf⟩ : Env) = laneEnv s rows mreg from rfl, hf]
  dsimp only
  have hn : assisted elems regs = false := by unfold assisted; rw [hd, Bool.or_false]; exact List.any_eq_false.2 fun x hx => by rw [he x hx]; decide
  rw [show s.arowBusy (bitsOf c.route 5 1) = false from rfl, hn, Bool.and_false, Bool.false_and, if_neg (by decide)]
  rw [popBad_shape]
  generalize (s.popBad fields).teams = tp
  unfold State.deliver
  dsimp only
  rw [show (State.g { s with teams := tp }) = s.g from rfl]
  rw [ha, hb, hc, filter_false (l := regs) (p := fun r => r.2.assist == true) (fun x hx => by rw [hr x hx]; decide), hd]
  have hp : (if c.cmask.getLsbD 2 = true then pushRows q (bitsOf c.route 0 2) (queueRows s.g.width elems) (s.teamBroken s.g.team) else some q)
      = some (if c.cmask.getLsbD 2 = true then sset [] (bitsOf c.route 0 2) (sget [] (bitsOf c.route 0 2) q ++ queueRows s.g.width elems) q else q) := by
    by_cases hq : c.cmask.getLsbD 2 = true
    · rw [if_pos hq, if_pos hq]
      unfold pushRows
      dsimp only
      rw [queueRows_length, if_pos (h4 hq)]
    · rw [if_neg hq, if_neg hq]
  rw [hp]
  simp only [List.isEmpty_nil, Bool.not_true, Bool.false_or, Bool.and_false, Bool.false_eq_true, if_false]
  have hm := laneMid_shape { s with teams := tp } c q elems
  have he : (if c.cmask.getLsbD 1 = true then (State.setQueues { s with teams := tp } (if c.cmask.getLsbD 2 = true then
        sset [] (bitsOf c.route 0 2) (sget [] (bitsOf c.route 0 2) q ++ queueRows s.g.width elems) q else q)).writeArow (arowWrites c.route elems)
      else State.setQueues { s with teams := tp } (if c.cmask.getLsbD 2 = true then
        sset [] (bitsOf c.route 0 2) (sget [] (bitsOf c.route 0 2) q ++ queueRows s.g.width elems) q else q))
      = laneMid { s with teams := tp } c q elems := rfl
  rw [he, laneNext_modG (s := s) u _ (by rw [hm]) (by rw [hm]) (by rw [hm])]
  rfl


/-! ### What delivery leaves of the rest of the module -/

theorem laneMid_cores (s : State) (c : Consumer) (q : Store (List (List W32))) (l : List Elem) :
    (laneMid s c q l).cores = if c.cmask.getLsbD 1 then (s.writeArow (arowWrites c.route l)).cores else s.cores := by
  unfold laneMid; dsimp only
  by_cases h : c.cmask.getLsbD 1 = true
  · rw [if_pos h, if_pos h]; unfold State.setQueues; split <;> rfl
  · rw [if_neg h, if_neg h]; unfold State.setQueues; split <;> rfl
theorem laneMid_teams (s : State) (c : Consumer) (q : Store (List (List W32))) (l : List Elem) :
    (laneMid s c q l).teams
      = (s.setQueues (if c.cmask.getLsbD 2 then sset [] (bitsOf c.route 0 2) (sget [] (bitsOf c.route 0 2) q ++ queueRows s.g.width l) q else q)).teams := by
  unfold laneMid; dsimp only
  by_cases h : c.cmask.getLsbD 1 = true
  · rw [if_pos h]; rfl
  · rw [if_neg h]

/-- The elements of a word in its active lanes, or none. -/
def elemsFit (s : State) (rows : List (List W32)) (mreg : BitVec 4) (elems : List Elem) (row : Nat → Option W32) : Prop :=
  (elems = [] ∧ ∀ k, row k = none)
    ∨ ∃ (val : Nat → Word) (fl : Nat → Flags), elems = (laneEnv s rows mreg).actives.map (fun k => ⟨k, val k, false, fl k⟩)
        ∧ ∀ k, row k = some ((val k).setWidth 32)

theorem elems_find {s : State} {rows : List (List W32)} {mreg : BitVec 4} {elems : List Elem} {row : Nat → Option W32}
    (h : elemsFit s rows mreg elems row) (k : Nat) :
    (match elems.find? fun x => x.lane == k with | some x => x.val.setWidth 32 | none => (0 : W32))
      = if (s.active mreg.toNat).getLsbD k then (row k).getD 0 else 0 := by
  rcases h with ⟨rfl, hr⟩ | ⟨val, fl, rfl, hr⟩
  · simp [hr]
  · rw [List.find?_map]
    by_cases hk : (s.active mreg.toNat).getLsbD k = true
    · have hm := (mem_actives (rows := rows)).2 hk
      have : (laneEnv s rows mreg).actives.find? ((fun x : Elem => x.lane == k) ∘ fun k => ⟨k, val k, false, fl k⟩) = some k := by
        rw [List.find?_eq_some_iff_append]
        obtain ⟨a, b, hab⟩ := List.append_of_mem hm
        refine ⟨by simp, a, b, hab, fun x hx => ?_⟩
        have := actives_nodup (laneEnv s rows mreg)
        rw [hab] at this
        simp only [List.nodup_append, List.nodup_cons] at this
        have hne := this.2.2 x hx k List.mem_cons_self
        simpa using hne
      rw [this, if_pos hk]; simp [hr]
    · have : (laneEnv s rows mreg).actives.find? ((fun x : Elem => x.lane == k) ∘ fun k => ⟨k, val k, false, fl k⟩) = none := by
        rw [List.find?_eq_none]
        intro x hx e
        simp at e
        exact hk (e ▸ (mem_actives (rows := rows)).1 hx)
      rw [this, if_neg hk]; rfl

/-- What delivery leaves in an A row buffer: an active lane's element where the word names one, every other element as it was. -/
theorem arow_in {s : State} {rows : List (List W32)} {mreg : BitVec 4} {elems : List Elem} {row : Nat → Option W32}
    (h : elemsFit s rows mreg elems row) (route : BitVec 6) (st : Store W32) (k : Nat) :
    sget 0 (bitsOf route 5 1 * 256 + 32 * bitsOf route 2 3 + k) ((arowWrites route elems).foldl (fun a p => sset 0 p.1 p.2 a) st)
      = if (s.active mreg.toNat).getLsbD k then (row k).getD (sget 0 (bitsOf route 5 1 * 256 + 32 * bitsOf route 2 3 + k) st)
        else sget 0 (bitsOf route 5 1 * 256 + 32 * bitsOf route 2 3 + k) st := by
  rcases h with ⟨rfl, hr⟩ | ⟨val, fl, rfl, hr⟩
  · simp [hr, arowWrites]
  · unfold arowWrites
    rw [List.map_map]
    by_cases hb : (s.active mreg.toNat).getLsbD k = true
    · rw [if_pos hb, hr]
      refine sget_writes (p := (bitsOf route 5 1 * 256 + 32 * bitsOf route 2 3 + k, (val k).setWidth 32)) 0 st ?_ ?_
      · rw [List.map_map]
        refine List.Pairwise.map _ (fun x y h e => h ?_) (actives_nodup _)
        simp at e; omega
      · exact List.mem_map.2 ⟨k, mem_actives.2 hb, rfl⟩
    · rw [if_neg hb]
      refine sget_writes_ne _ _ _ fun p hp e => ?_
      obtain ⟨x, hx, rfl⟩ := List.mem_map.1 hp
      simp at e
      exact hb (e ▸ mem_actives.1 hx)

theorem arow_out {s : State} {rows : List (List W32)} {mreg : BitVec 4} {elems : List Elem} {row : Nat → Option W32}
    (h : elemsFit s rows mreg elems row) (route : BitVec 6) (st : Store W32) (j : Nat)
    (hj : j < bitsOf route 5 1 * 256 + 32 * bitsOf route 2 3 ∨ bitsOf route 5 1 * 256 + 32 * bitsOf route 2 3 + 64 ≤ j) :
    sget 0 j ((arowWrites route elems).foldl (fun a p => sset 0 p.1 p.2 a) st) = sget 0 j st := by
  rcases h with ⟨rfl, hr⟩ | ⟨val, fl, rfl, hr⟩
  · rfl
  · refine sget_writes_ne _ _ _ fun p hp e => ?_
    obtain ⟨x, hx, rfl⟩ := List.mem_map.1 hp
    obtain ⟨y, hy, rfl⟩ := List.mem_map.1 hx
    have := (active_lt (mem_actives.1 hy)).2
    dsimp only at e
    omega

theorem queueRows_fit {s : State} {rows : List (List W32)} {mreg : BitVec 4} {elems : List Elem} {row : Nat → Option W32}
    (h : elemsFit s rows mreg elems row) :
    queueRows s.g.width elems = (List.range (rowsPer s.g.width)).map fun i => (List.range 32).map fun j =>
      if (s.active mreg.toNat).getLsbD (32 * i + j) then (row (32 * i + j)).getD 0 else 0 := by
  unfold queueRows
  exact List.map_congr_left fun i _ => List.map_congr_left fun j _ => elems_find h (32 * i + j)

/-- Moving on changes the stream's place, its windows, and its stamps. -/
theorem laneMove_shape (s : State) (u : Uses) (g : Group) : laneMove s u g = { g with
    lpc := (laneMove s u g).lpc
    run := (laneMove s u g).run
    windows := (laneMove s u g).windows
    waitingWords := (laneMove s u g).waitingWords
    abandoned := (laneMove s u g).abandoned
    lastIssue := s.now
    starved := none
    issued := true
    lWait := none } := by
  unfold laneMove
  cases s.cur.src with
  | stream =>
    by_cases hc : s.cur.lane.counted = true
    · rw [if_pos hc]; unfold Group.leave Group.settle; dsimp only
      split
      · split <;> rfl
      · rfl
    · rw [if_neg hc]; unfold Group.leave Group.settle; dsimp only
      split
      · split <;> rfl
      · rfl
  | again => split <;> rfl
  | waiting => split <;> rfl

theorem laneMove_lpc (s : State) (u : Uses) (g : Group) (h : s.cur.src = .stream) : (laneMove s u g).lpc = g.lpc + 12 := by
  unfold laneMove
  rw [h]
  by_cases hc : s.cur.lane.counted = true
  · rw [if_pos hc]; unfold Group.leave Group.settle; dsimp only
    split
    · split <;> rfl
    · rfl
  · rw [if_neg hc]; unfold Group.leave Group.settle; dsimp only
    split
    · split <;> rfl
    · rfl

/-- What a word does to the group's counters: nothing where it has issued before. -/
theorem upd_shape {w : LaneWord} {upd : Group → Group} {e : LaneEffect} (hu : ∀ g, upd g = { g with
      ret := g.ret ++ e.ret
      draw := if e.draw then g.draw + 1 else g.draw
      sdraw := if e.sdraw then (g.sdraw + 1) % 2 ^ 31 else g.sdraw }) (g : Group) :
    w.upd upd g = { g with
      ret := g.ret ++ e.ret
      draw := if e.draw && w.rng.isNone then g.draw + 1 else g.draw
      sdraw := if e.sdraw && w.rng.isNone then (g.sdraw + 1) % 2 ^ 31 else g.sdraw } := by
  unfold LaneWord.upd
  cases w.rng <;> simp [hu]

/-- A word that can execute and whose results fit an effect has that effect. -/
theorem laneDone_of {s : State} {u : Uses} {c : Consumer} {q : Store (List (List W32))} {rows : List (List W32)}
    {pf : Flags} {mreg : BitVec 4} {fields : List VReg} {elems : List Elem} {regs : List (Nat × Elem)} {masks : List (Nat × Word)}
    {upd : Group → Group} (e : LaneEffect) (hfit : elemsFit s rows mreg elems e.row)
    (hv : ∀ r k, k < 64 → sget 0 (64 * r + k) (((if c.cmask.getLsbD 0 then destWrites c.vd c.pair elems else [])
        ++ regs.flatMap fun x => destWrites x.1 false [x.2]).foldl (fun v p => sset 0 p.1 p.2 v) s.g.v)
      = if (s.active mreg.toNat).getLsbD k then (e.reg r k).getD (s.g.vreg r k) else s.g.vreg r k)
    (hm : (masks = [] ∧ ∀ m, e.mask m = none) ∨ ∃ d x, masks = [(d, x)] ∧ ∀ m, e.mask m = if m = d then some x else none)
    (hu : ∀ g, upd g = { g with
      ret := g.ret ++ e.ret
      draw := if e.draw then g.draw + 1 else g.draw
      sdraw := if e.sdraw then (g.sdraw + 1) % 2 ^ 31 else g.sdraw }) :
    laneDone s ((laneMid (s.popBad fields) c q elems).modG fun g => laneMove s u (laneRegs c elems regs masks (e.flags ||| pf) (s.cur.lane.upd upd) g)) c
      (s.active mreg.toNat) e q pf := by
  have hpo := fun k (hk : k ≠ s.g.team) => popBad_other s fields hk
  have hpt := fun tm (h : s.teamOf s.g = some tm) => popBad_team s fields h
  rw [popBad_shape]
  generalize (s.popBad fields).teams = tp at *
  have hts := laneMid_teams { s with teams := tp } c q elems
  have hcs := laneMid_cores { s with teams := tp } c q elems
  rw [laneMid_shape]
  generalize (laneMid { s with teams := tp } c q elems).teams = ts at *
  generalize (laneMid { s with teams := tp } c q elems).cores = cs at *
  have hg : ∀ f, (State.modG { s with teams := ts, cores := cs } f).g = f s.g := fun f => modG_g ..
  have hregs : laneRegs c elems regs masks (e.flags ||| pf) (s.cur.lane.upd upd) s.g = { s.g with
      v := ((if c.cmask.getLsbD 0 then destWrites c.vd c.pair elems else [])
        ++ regs.flatMap fun x => destWrites x.1 false [x.2]).foldl (fun v p => sset 0 p.1 p.2 v) s.g.v
      badV := s.g.badV.filter fun k => !((if c.cmask.getLsbD 0 then destWrites c.vd c.pair elems else [])
        ++ regs.flatMap fun x => destWrites x.1 false [x.2]).any fun p => p.1 == k
      m := masks.foldl (fun m p => sset 0 p.1 (p.2 &&& widthMask s.g.width) m) s.g.m
      status := s.g.status ||| (((e.flags ||| pf).setWidth 64) <<< 16)
      ret := s.g.ret ++ e.ret
      draw := if e.draw && s.cur.lane.rng.isNone then s.g.draw + 1 else s.g.draw
      sdraw := if e.sdraw && s.cur.lane.rng.isNone then (s.g.sdraw + 1) % 2 ^ 31 else s.g.sdraw } := by
    unfold laneRegs Group.raise Group.writeElems
    rw [upd_shape hu]
    rcases hm with ⟨rfl, -⟩ | ⟨d, x, rfl, -⟩ <;> rfl
  have hG : (State.modG { s with teams := ts, cores := cs } fun g => laneMove s u (laneRegs c elems regs masks (e.flags ||| pf) (s.cur.lane.upd upd) g)).g
      = laneMove s u { s.g with
      v := ((if c.cmask.getLsbD 0 then destWrites c.vd c.pair elems else [])
        ++ regs.flatMap fun x => destWrites x.1 false [x.2]).foldl (fun v p => sset 0 p.1 p.2 v) s.g.v
      badV := s.g.badV.filter fun k => !((if c.cmask.getLsbD 0 then destWrites c.vd c.pair elems else [])
        ++ regs.flatMap fun x => destWrites x.1 false [x.2]).any fun p => p.1 == k
      m := masks.foldl (fun m p => sset 0 p.1 (p.2 &&& widthMask s.g.width) m) s.g.m
      status := s.g.status ||| (((e.flags ||| pf).setWidth 64) <<< 16)
      ret := s.g.ret ++ e.ret
      draw := if e.draw && s.cur.lane.rng.isNone then s.g.draw + 1 else s.g.draw
      sdraw := if e.sdraw && s.cur.lane.rng.isNone then (s.g.sdraw + 1) % 2 ^ 31 else s.g.sdraw } := by rw [hg, hregs]
  unfold laneDone
  rw [hG]
  refine ⟨fun r k hk => ?_, fun m => ?_, ?_, ?_, ?_, ?_, ⟨fun k hk => ?_, fun j hj => ?_, fun k hk => ?_, ?_⟩, fun tm htm => ?_,
    fun k hk => ?_, fun h => ?_, fun a => rfl, rfl, fun k hk => ?_, ?_⟩
  · rw [laneMove_shape]; exact hv r k hk
  · rw [laneMove_shape]
    rcases hm with ⟨rfl, hm⟩ | ⟨d, x, rfl, hm⟩
    · rw [hm]
      show sget 0 m s.g.m &&& widthMask s.g.width = (s.g.mreg m) &&& widthMask s.g.width
      unfold Group.mreg
      rw [BitVec.and_assoc, BitVec.and_self]
    · rw [hm]
      show sget 0 m (sset 0 d (x &&& widthMask s.g.width) s.g.m) &&& widthMask s.g.width = _
      by_cases h : m = d
      · subst h; rw [if_pos rfl, sget_sset_same, BitVec.and_assoc, BitVec.and_self]; rfl
      · rw [if_neg h, sget_sset_ne _ _ _ h]
        show _ = (s.g.mreg m) &&& widthMask s.g.width
        unfold Group.mreg
        rw [BitVec.and_assoc, BitVec.and_self]
  · rw [laneMove_shape]
  · rw [laneMove_shape]
  · rw [laneMove_shape]
  · rw [laneMove_shape]
  · show sget 0 _ (sget Core.init s.cur.core cs).mx.arow = _
    rw [hcs]
    by_cases h1 : c.cmask.getLsbD 1 = true
    · rw [if_pos h1, h1, Bool.true_and]
      unfold State.writeArow State.setCore
      dsimp only
      rw [sget_sset_same]
      exact arow_in hfit c.route _ k
    · rw [if_neg h1, show c.cmask.getLsbD 1 = false by simpa using h1, Bool.false_and]; rfl
  · show sget 0 _ (sget Core.init s.cur.core cs).mx.arow = _
    rw [hcs]
    by_cases h1 : c.cmask.getLsbD 1 = true
    · rw [if_pos h1]
      unfold State.writeArow State.setCore
      dsimp only
      rw [sget_sset_same]
      exact arow_out hfit c.route _ j hj
    · rw [if_neg h1]; rfl
  · show sget Core.init k cs = _
    rw [hcs]
    by_cases h1 : c.cmask.getLsbD 1 = true
    · rw [if_pos h1]
      exact sget_sset_ne _ _ _ hk
    · rw [if_neg h1]; rfl
  · show sget Core.init s.cur.core cs = { s.coreAt s.cur.core with
           mx := { (s.coreAt s.cur.core).mx with arow := (sget Core.init s.cur.core cs).mx.arow, bad := (sget Core.init s.cur.core cs).mx.bad } }
    rw [hcs]
    by_cases h1 : c.cmask.getLsbD 1 = true
    · rw [if_pos h1]
      unfold State.writeArow State.setCore
      dsimp only
      rw [sget_sset_same]
      rfl
    · rw [if_neg h1]; rfl
  · obtain ⟨x, hx⟩ := hpt tm htm
    have hts2 : ts = sins s.g.team { tm with
        q := if c.cmask.getLsbD 2 then sset [] (bitsOf c.route 0 2) (sget [] (bitsOf c.route 0 2) q ++ queueRows s.g.width elems) q else q
        qbad := x } (serase s.g.team tp) := by
      rw [hts]; unfold State.setQueues State.teamOf State.team?
      rw [show lookupKey (State.g { s with teams := tp }).team (State.teams { s with teams := tp }) = _ from hx]; rfl
    refine ⟨{ tm with
        q := if c.cmask.getLsbD 2 then sset [] (bitsOf c.route 0 2) (sget [] (bitsOf c.route 0 2) q ++ queueRows s.g.width elems) q else q
        qbad := x }, ?_, rfl, fun i => ?_⟩
    · show lookupKey s.g.team ts = _
      rw [hts2, lookup_sins_same _ _ _ (lookup_serase_same ..)]
    · dsimp only
      by_cases h2 : c.cmask.getLsbD 2 = true
      · rw [if_pos h2, h2, Bool.true_and]
        by_cases hi : i = bitsOf c.route 0 2
        · subst hi; rw [sget_sset_same, if_pos (by simp), queueRows_fit hfit]
        · rw [sget_sset_ne _ _ _ hi, if_neg (by simpa using hi), List.append_nil]
      · rw [if_neg h2, show c.cmask.getLsbD 2 = false by simpa using h2, Bool.false_and, if_neg (by decide), List.append_nil]
  · show lookupKey k ts = lookupKey k s.teams
    rw [hts, ← hpo k hk]; unfold State.setQueues
    split
    · show lookupKey k (sins s.g.team _ (serase s.g.team tp)) = _
      rw [lookup_sins_ne _ _ hk, lookup_serase_ne _ hk]
    · rfl
  · exact laneMove_lpc s u _ h
  · exact setG_other _ _ hk
  · rw [laneMove_shape]

/-- A write under one key in the middle of a fold: what follows leaves it alone. -/
theorem sget_writes_mid {α : Type} [DecidableEq α] (d : α) (a b : List (Nat × α)) (k : Nat) (x : α) (st : Store α)
    (h : ∀ p ∈ b, k ≠ p.1) : sget d k ((a ++ (k, x) :: b).foldl (fun v p => sset d p.1 p.2 v) st) = x := by
  rw [List.foldl_append, List.foldl_cons, sget_writes_ne _ _ _ h, sget_sset_same]

/-- The writes of one lane of a destination. -/
def laneDest (c : Consumer) (val : Nat → Word) (k : Nat) : List (Nat × W32) :=
  (64 * c.vd + k, (val k).setWidth 32) :: (if c.pair then [(64 * (c.vd + 1) + k, (val k >>> 32).setWidth 32)] else [])

theorem laneDest_lane {c : Consumer} {val : Nat → Word} {k : Nat} {p : Nat × W32} (h : p ∈ laneDest c val k) :
    p.1 = 64 * c.vd + k ∨ p.1 = 64 * (c.vd + 1) + k := by
  unfold laneDest at h
  rcases List.mem_cons.1 h with rfl | h
  · exact .inl rfl
  · by_cases hp : c.pair = true
    · rw [if_pos hp] at h; rw [List.mem_singleton.1 h]; exact .inr rfl
    · rw [if_neg hp] at h; cases h

/-- The writes of a destination in some lanes. -/
theorem sget_dest (c : Consumer) (val : Nat → Word) (l : List Nat) (hn : l.Nodup) (hl : ∀ x ∈ l, x < 64) (st : Store W32) (r k : Nat)
    (hk : k < 64) : sget 0 (64 * r + k) ((l.flatMap (laneDest c val)).foldl (fun v p => sset 0 p.1 p.2 v) st)
      = if k ∈ l then
          (if r = c.vd then (val k).setWidth 32 else if c.pair = true ∧ r = c.vd + 1 then (val k >>> 32).setWidth 32
           else sget 0 (64 * r + k) st)
        else sget 0 (64 * r + k) st := by
  induction l generalizing st with
  | nil => rfl
  | cons x l ih =>
    rw [List.flatMap_cons, List.foldl_append, ih (List.nodup_cons.1 hn).2 (fun y hy => hl y (List.mem_cons_of_mem _ hy))]
    have hx := hl x List.mem_cons_self
    by_cases hkx : k = x
    · subst hkx
      rw [if_neg (List.nodup_cons.1 hn).1, if_pos List.mem_cons_self]
      unfold laneDest
      by_cases hr : r = c.vd
      · subst hr
        rw [if_pos rfl]
        refine sget_writes_mid (0 : W32) [] _ _ _ st fun p hp => ?_
        by_cases hp' : c.pair = true
        · rw [if_pos hp'] at hp; rw [List.mem_singleton.1 hp]; dsimp only; omega
        · rw [if_neg hp'] at hp; cases hp
      · rw [if_neg hr]
        by_cases hp' : c.pair = true ∧ r = c.vd + 1
        · rw [if_pos hp', if_pos hp'.1, hp'.2]
          exact sget_writes_mid (0 : W32) [(64 * c.vd + k, (val k).setWidth 32)] [] _ _ st fun p hp => by cases hp
        · rw [if_neg hp']
          refine sget_writes_ne _ _ _ fun p hp => ?_
          rcases List.mem_cons.1 hp with rfl | hp
          · dsimp only; omega
          · by_cases hq : c.pair = true
            · rw [if_pos hq] at hp; rw [List.mem_singleton.1 hp]; dsimp only
              have : r ≠ c.vd + 1 := fun e => hp' ⟨hq, e⟩
              omega
            · rw [if_neg hq] at hp; cases hp
    · have : sget 0 (64 * r + k) ((laneDest c val x).foldl (fun v p => sset 0 p.1 p.2 v) st) = sget 0 (64 * r + k) st :=
        sget_writes_ne _ _ _ fun p hp => by rcases laneDest_lane hp with e | e <;> rw [e] <;> omega
      rw [this]
      by_cases hm : k ∈ l
      · rw [if_pos hm, if_pos (List.mem_cons_of_mem _ hm)]
      · rw [if_neg hm, if_neg (by simp [hkx, hm])]

/-- The writes of a destination in the active lanes. -/
theorem dest_in {s : State} {rows : List (List W32)} {mreg : BitVec 4} (c : Consumer) (val : Nat → Word) (fl : Nat → Flags)
    (st : Store W32) (f : Flags) (r k : Nat) (hk : k < 64) :
    sget 0 (64 * r + k) (((if c.cmask.getLsbD 0 then
        destWrites c.vd c.pair ((laneEnv s rows mreg).actives.map fun k => ⟨k, val k, false, fl k⟩) else [])
      ++ ([] : List (Nat × Elem)).flatMap fun x => destWrites x.1 false [x.2]).foldl (fun v p => sset 0 p.1 p.2 v) st)
      = if (s.active mreg.toNat).getLsbD k then ((destEffect c val f).reg r k).getD (sget 0 (64 * r + k) st) else sget 0 (64 * r + k) st := by
  rw [List.flatMap_nil, List.append_nil]
  by_cases h0 : c.cmask.getLsbD 0 = true
  · have e : destWrites c.vd c.pair ((laneEnv s rows mreg).actives.map fun k => ⟨k, val k, false, fl k⟩)
        = (laneEnv s rows mreg).actives.flatMap (laneDest c val) := by
      unfold destWrites laneDest
      rw [List.flatMap_map]
    rw [if_pos h0, e, sget_dest c val _ (actives_nodup _) (fun x hx => (active_lt (mem_actives.1 hx)).2) st r k hk]
    unfold destEffect
    simp only [mem_actives, h0, Bool.true_and]
    by_cases ha : (s.active mreg.toNat).getLsbD k = true
    · rw [if_pos ha, if_pos ha]
      by_cases hr : r = c.vd
      · subst hr; simp
      · simp only [beq_iff_eq, hr, if_false, Bool.and_eq_true]
        by_cases hp : c.pair = true ∧ r = c.vd + 1
        · rw [if_pos hp, if_pos hp]; rfl
        · rw [if_neg hp, if_neg hp]; rfl
    · rw [if_neg ha, if_neg ha]
  · rw [if_neg h0]
    have h0' : c.cmask.getLsbD 0 = false := by simpa using h0
    unfold destEffect
    simp only [h0', Bool.false_and, Bool.false_eq_true, if_false, Option.getD_none, ite_self]
    rfl

/-- A word whose result goes to every consumer of vd, with no assist, has that effect. -/
theorem dest_gives {i : Instr} {s : State} {u : Uses} {c : Consumer} {mreg : BitVec 4} {fields : List VReg} {f : Env → LaneDo}
    {ok : Env → Prop} (val : Env → Nat → Word) (fl : Env → Flags) (af : Env → Nat → Flags)
    (hi : exec i s = runLane u mreg.toNat false c fields f s)
    (hf : ∀ rows, ok (laneEnv s rows mreg) → f (laneEnv s rows mreg)
      = .out ((laneEnv s rows mreg).actives.map fun k => ⟨k, val (laneEnv s rows mreg) k, false, af (laneEnv s rows mreg) k⟩) [] []
          (fl (laneEnv s rows mreg)) id) :
    laneGivesIf i s u c mreg fields ok fun e => destEffect c (val e) (fl e) := by
  intro q rows pf h ho
  rw [hi]
  refine ⟨_, runLane_eq h (hf rows ho) (fun x hx => ?_) (fun x hx => by cases hx), ?_⟩
  · obtain ⟨k, -, rfl⟩ := List.mem_map.1 hx; rfl
  · refine laneDone_of (destEffect c (val _) (fl _)) (.inr ⟨_, _, rfl, fun k => rfl⟩) (fun r k hk => ?_) (.inl ⟨rfl, fun m => rfl⟩) (fun g => ?_)
    · exact dest_in c (val _) _ s.g.v _ r k hk
    · simp [destEffect, LaneEffect.none]

theorem join_zero (l : List Nat) : Flags.join (l.map fun _ => (0 : Flags)) = 0 := by
  unfold Flags.join
  induction l with
  | nil => rfl
  | cons x r ih => rw [List.map_cons, List.foldl_cons]; exact ih

/-- What `plainLanes` makes: results without flags. -/
theorem plainLanes_eq (e : Env) (f : Nat → Word) :
    plainLanes e f = .out (e.actives.map fun k => ⟨k, f k, false, 0⟩) [] [] 0 id := by
  unfold plainLanes LaneDo.elems
  rw [List.map_map, List.map_map]
  show LaneDo.out (e.actives.map fun k => ⟨k, f k, false, 0⟩) [] [] (Flags.join (e.actives.map fun _ => (0 : Flags))) id = _
  rw [join_zero]

end Sys2Proof.Laws
end

