-- ==== Sys2Proof/Laws/Memory.lean ====
section
/-! SUPPORT. Memory: a read after a write, and every operation that writes memory keeps its canonical form. -/

namespace Sys2Proof.Laws

open Sys2Proof.Machine

/-! ### Reads after writes -/

/-- The key that a filter keeps out is not found; the others are found as before. -/
theorem lookup_filter_ne {a x : Nat} (l : List Host.Cell) (h : x ≠ a) : lookupKey x (l.filter fun c => c.1 != a) = lookupKey x l := by
  have e : (fun c : Host.Cell => c.1 != a) = fun c => !(c.1 == a) := rfl
  rw [e]; exact lookup_serase_ne l h

theorem lookup_filter_same (a : Nat) (l : List Host.Cell) : lookupKey a (l.filter fun c => c.1 != a) = none := by
  have e : (fun c : Host.Cell => c.1 != a) = fun c => !(c.1 == a) := rfl
  rw [e]; exact lookup_serase_same a l

/-- What the stacks queue, once the writes to one address are gone. -/
theorem pending_unqueue_same (l : List Queued) (a : Nat) : ((unqueue l a).findSome? fun w => lookupKey a w.cells) = none := by
  unfold unqueue
  rw [List.findSome?_eq_none_iff]
  intro w hw
  obtain ⟨v, -, rfl⟩ := List.mem_map.1 hw
  exact lookup_filter_same a v.cells

theorem pending_unqueue_ne (l : List Queued) {a x : Nat} (h : x ≠ a) :
    ((unqueue l a).findSome? fun w => lookupKey x w.cells) = l.findSome? fun w => lookupKey x w.cells := by
  unfold unqueue
  induction l with
  | nil => rfl
  | cons w r ih => simp only [List.map_cons, List.findSome?_cons, lookup_filter_ne w.cells h, ih]

/-- The byte written is the byte read. -/
theorem byteAt_setByte_same (s : State) (a : Nat) (b : Byte) : (s.setByte a b).byteAt a = b := by
  unfold State.byteAt Equinox.pending State.setByte
  dsimp only
  rw [pending_unqueue_same]
  exact sget_sset_same ..

/-- A write of one byte leaves every other address alone. -/
theorem byteAt_setByte_ne (s : State) {a x : Nat} (b : Byte) (h : x ≠ a) : (s.setByte a b).byteAt x = s.byteAt x := by
  unfold State.byteAt Equinox.pending State.setByte
  dsimp only
  rw [pending_unqueue_ne _ h, sget_sset_ne 0 b s.mem h]

/-- A write of a run of bytes leaves every address outside the run alone. -/
theorem byteAt_putBytes_out (s : State) {a x : Nat} (l : List Byte) (h : x < a ∨ a + l.length ≤ x) :
    (s.putBytes a l).byteAt x = s.byteAt x := by
  induction l generalizing s a with
  | nil => rfl
  | cons b r ih =>
    rw [List.length_cons] at h
    rw [State.putBytes, ih _ (by omega), byteAt_setByte_ne _ _ (by omega)]

/-- Byte i of a run that was written reads as the run's byte i. -/
theorem byteAt_putBytes_in (s : State) (a : Nat) {l : List Byte} {i : Nat} (h : i < l.length) :
    (s.putBytes a l).byteAt (a + i) = l[i] := by
  induction l generalizing s a i with
  | nil => exact absurd h (Nat.not_lt_zero i)
  | cons b r ih =>
    rw [State.putBytes]
    cases i with
    | zero => rw [byteAt_putBytes_out _ _ (by omega)]; exact byteAt_setByte_same s a b
    | succ j =>
      rw [List.length_cons] at h
      rw [show a + (j + 1) = a + 1 + j by omega, ih _ _ (by omega)]; rfl

/-! ### What a write does beside its bytes: marks, keys, the messages of peers -/

/-- Two states with the same bytes, and the same writes queued. -/
def SameBytes (s t : State) : Prop := t.mem = s.mem ∧ t.eqx = s.eqx

theorem SameBytes.byteAt {s t : State} (h : SameBytes s t) (x : Nat) : t.byteAt x = s.byteAt x := by
  unfold State.byteAt; rw [h.1, h.2]
theorem SameBytes.trans {s t u : State} (h : SameBytes s t) (k : SameBytes t u) : SameBytes s u := ⟨k.1.trans h.1, k.2.trans h.2⟩
theorem sameBytes_foldl {α : Type} (f : State → α → State) (hf : ∀ t x, SameBytes t (f t x)) (l : List α) (s : State) :
    SameBytes s (l.foldl f s) := by
  induction l generalizing s with
  | nil => exact ⟨rfl, rfl⟩
  | cons x r ih => exact (hf s x).trans (ih _)

theorem logAt_same (s : State) (a code : Nat) (scrub : Bool) : SameBytes s (s.logAt a code scrub) := by
  unfold State.logAt
  split
  · unfold State.logError
    dsimp only
    repeat' split
    all_goals exact ⟨rfl, rfl⟩
  · exact ⟨rfl, rfl⟩
theorem meetMark_same (s : State) (scrub : Bool) (p : Nat × Mark) : SameBytes s (s.meetMark scrub p).1 := by
  unfold State.meetMark
  split <;> exact logAt_same ..
theorem mergeMark_same (s : State) (p : Nat × Mark) : SameBytes s (s.mergeMark p) := by
  unfold State.mergeMark
  split
  · exact ⟨rfl, rfl⟩
  all_goals exact meetMark_same s false p
theorem markRanges_same (s : State) (l : List (Nat × Nat)) : SameBytes s (s.markRanges l) := by
  unfold State.markRanges
  exact SameBytes.trans ⟨rfl, rfl⟩ (sameBytes_foldl _ mergeMark_same _ _)
theorem sameBytes_ite {s a b : State} {c : Prop} [Decidable c] (ha : SameBytes s a) (hb : SameBytes s b) : SameBytes s (if c then a else b) := by
  by_cases h : c
  · rw [if_pos h]; exact ha
  · rw [if_neg h]; exact hb
theorem poisonRange_same (s : State) (a n : Nat) : SameBytes s (s.poisonRange a n) := ⟨rfl, rfl⟩
theorem putUnit_same (s : State) (u : Nat) (x : UnitKey) : SameBytes s (s.putUnit u x) := ⟨rfl, rfl⟩
theorem putTag_same (s : State) (key u : Nat) (w : BitVec 1024) : SameBytes s (s.putTag key u w) := by
  unfold State.putTag; split <;> exact ⟨rfl, rfl⟩
theorem keyUnit_same (o : State) (l : List (Nat × Nat)) (s : State) (u : Nat) : SameBytes s (o.keyUnit l s u) := by
  unfold State.keyUnit
  dsimp only
  split
  · exact sameBytes_ite ((putUnit_same ..).trans (putTag_same ..))
      (sameBytes_ite (((putUnit_same ..).trans (putTag_same ..)).trans (poisonRange_same ..)) ((putUnit_same ..).trans (putTag_same ..)))
  · split
    · exact putUnit_same ..
    · exact sameBytes_ite (putUnit_same ..) (putUnit_same ..)
theorem keyRanges_same (o : State) (l : List (Nat × Nat)) (s : State) : SameBytes s (o.keyRanges l s) := by
  unfold State.keyRanges
  split
  · exact ⟨rfl, rfl⟩
  · exact sameBytes_foldl _ (fun t u => keyUnit_same o l t u) _ _
theorem settleWrite_same (o : State) (l : List (Nat × Nat)) (p : Bool) (s : State) : SameBytes s (o.settleWrite l p s) := by
  unfold State.settleWrite
  cases p
  · exact (markRanges_same s l).trans (keyRanges_same o l _)
  · exact (keyRanges_same o l s).trans (sameBytes_foldl _ (fun t (r : Nat × Nat) => poisonRange_same t r.1 r.2) _ _)
theorem tellPeer_same (s : State) (a : Nat) (l : List Byte) (p : Bool) : SameBytes s (s.tellPeer a l p) := by
  unfold State.tellPeer
  split <;> exact ⟨rfl, rfl⟩

/-! ### Writes, some of them queued -/

/-- Bytes that are laid leave every other address alone. -/
theorem layBytes_out {x : Nat} (l : List Host.Cell) (s : State) (q : List Host.Cell) (h : ∀ c ∈ l, c.1 ≠ x) :
    lookupKey x (s.layBytes q l).2 = lookupKey x q ∧ (s.layBytes q l).1.byteAt x = s.byteAt x := by
  induction l generalizing s q with
  | nil => exact ⟨rfl, rfl⟩
  | cons c r ih =>
    have hr := fun d hd => h d (List.mem_cons_of_mem c hd)
    have hc := h c List.mem_cons_self
    rw [State.layBytes]
    split
    · refine ⟨(ih s (c :: q) hr).1.trans ?_, (ih s (c :: q) hr).2⟩
      simp [lookupKey, hc]
    · exact ⟨(ih _ q hr).1, (ih _ q hr).2.trans (byteAt_setByte_ne s c.2 (Ne.symm hc))⟩

/-- Each of some bytes at distinct addresses is written, or queued. -/
theorem layBytes_in {c : Host.Cell} {l : List Host.Cell} (s : State) (q : List Host.Cell) (hn : (l.map Prod.fst).Nodup) (h : c ∈ l) :
    lookupKey c.1 (s.layBytes q l).2 = some c.2
      ∨ (lookupKey c.1 (s.layBytes q l).2 = lookupKey c.1 q ∧ (s.layBytes q l).1.byteAt c.1 = c.2) := by
  induction l generalizing s q with
  | nil => cases h
  | cons d r ih =>
    rw [List.map_cons, List.nodup_cons] at hn
    have hd : ∀ x ∈ r, x.1 ≠ d.1 := fun x hx e => hn.1 (e ▸ List.mem_map_of_mem hx)
    rw [State.layBytes]
    rcases List.mem_cons.1 h with rfl | h
    · split
      · exact .inl ((layBytes_out r s (c :: q) hd).1.trans (by simp [lookupKey]))
      · exact .inr ⟨(layBytes_out r _ q hd).1, (layBytes_out r _ q hd).2.trans (byteAt_setByte_same ..)⟩
    · have hne : c.1 ≠ d.1 := hd c h
      split
      · rcases ih s (d :: q) hn.2 h with e | e
        · exact .inl e
        · exact .inr ⟨e.1.trans (by simp [lookupKey, hne.symm]), e.2⟩
      · exact ih _ q hn.2 h

/-- What a stack queues is read from then on. -/
theorem byteAt_queueWrite (s : State) (q : List Host.Cell) (p : Bool) (x : Nat) :
    (s.queueWrite q p).byteAt x = match lookupKey x q with | some b => b | none => s.byteAt x := by
  unfold State.queueWrite
  cases q with
  | nil => rfl
  | cons c r =>
    rw [if_neg (by simp)]
    show (match (List.findSome? _ (_ :: s.eqx.queued)) with | some b => b | none => sget 0 x s.mem) = _
    rw [List.findSome?_cons]
    dsimp only
    cases lookupKey x (c :: r) <;> rfl

theorem byteAt_writeCells_out {x : Nat} (s : State) (rg : List (Nat × Nat)) (l : List Host.Cell) (p : Bool) (h : ∀ c ∈ l, c.1 ≠ x) :
    (s.writeCells rg l p).byteAt x = s.byteAt x := by
  obtain ⟨h1, h2⟩ := layBytes_out l s [] h
  unfold State.writeCells
  rw [byteAt_queueWrite, h1]
  exact ((settleWrite_same ..).byteAt x).trans h2

theorem byteAt_writeCells_in {c : Host.Cell} {l : List Host.Cell} (s : State) (rg : List (Nat × Nat)) (p : Bool)
    (hn : (l.map Prod.fst).Nodup) (h : c ∈ l) : (s.writeCells rg l p).byteAt c.1 = c.2 := by
  unfold State.writeCells
  rw [byteAt_queueWrite]
  rcases layBytes_in s [] hn h with e | e
  · rw [e]
  · rw [e.1]; exact ((settleWrite_same ..).byteAt c.1).trans e.2

theorem byteAt_storePieces (s : State) (l : List (Nat × List Byte)) (p : Bool) (x : Nat) :
    (s.storePieces l p).byteAt x = (s.writeCells (l.map fun y => (y.1, y.2.length)) (cellsOf l) p).byteAt x :=
  (sameBytes_foldl _ (fun t (y : Nat × List Byte) => tellPeer_same t y.1 y.2 p) l _).byteAt x

/-- The bytes of one run. -/
theorem mem_cellsOf_one {a : Nat} {l : List Byte} {c : Host.Cell} (h : c ∈ cellsOf [(a, l)]) :
    ∃ i, ∃ h : i < l.length, c = (a + i, l[i]) := by
  unfold cellsOf at h
  rw [List.flatMap_cons, List.flatMap_nil, List.append_nil] at h
  obtain ⟨⟨b, i⟩, hm, rfl⟩ := List.mem_map.1 h
  obtain ⟨h1, h2⟩ := List.mem_zipIdx' hm
  exact ⟨i, h1, by rw [← h2]⟩

theorem cellsOf_one_nodup (a : Nat) (l : List Byte) : ((cellsOf [(a, l)]).map Prod.fst).Nodup := by
  have e : (cellsOf [(a, l)]).map Prod.fst = (List.range l.length).map fun i => a + i := by
    unfold cellsOf
    rw [List.flatMap_cons, List.flatMap_nil, List.append_nil]
    exact List.ext_getElem (by simp) fun i h k => by simp
  rw [e]
  exact List.Pairwise.map _ (fun x y h e => h (by omega)) List.nodup_range

/-- Byte i of a store reads as the stored byte i. -/
theorem byteAt_store_in (s : State) (a : Nat) {l : List Byte} {i : Nat} (p : Bool) (h : i < l.length) :
    (s.store a l p).byteAt (a + i) = l[i] := by
  unfold State.store
  rw [byteAt_storePieces]
  refine byteAt_writeCells_in (c := (a + i, l[i])) s _ p (cellsOf_one_nodup a l) ?_
  unfold cellsOf
  rw [List.flatMap_cons, List.flatMap_nil, List.append_nil]
  exact List.mem_map.2 ⟨(l[i], i), List.mem_zipIdx_iff_getElem?.2 (List.getElem?_eq_getElem h), rfl⟩

/-- A store leaves every address outside its bytes alone. -/
theorem byteAt_store_out (s : State) {a x : Nat} (l : List Byte) (p : Bool) (h : x < a ∨ a + l.length ≤ x) :
    (s.store a l p).byteAt x = s.byteAt x := by
  unfold State.store
  rw [byteAt_storePieces]
  refine byteAt_writeCells_out s _ _ p fun c hc => ?_
  obtain ⟨i, hi, rfl⟩ := mem_cellsOf_one hc
  dsimp only
  omega

/-- Where nothing is queued and a unit is in the clear, an agent without a key pair sees the bytes that memory holds. -/
theorem seenBy_clear {s : State} {a : Nat} (h : s.eqx.queued = []) (hc : lookupKey (a / 128) s.cipher = none) :
    s.seenBy none a = s.byteAt a := by
  unfold State.seenBy State.dequeued
  rw [h]
  unfold State.byteAt Equinox.pending
  rw [h]
  show s.viewBy none a = sget 0 a s.mem
  unfold State.viewBy State.stored
  rw [hc]

@[simp] theorem toBytes_length (n v : Nat) : (toBytes n v).length = n := by
  induction n generalizing v with
  | zero => rfl
  | succ n ih => simp [toBytes, ih]

/-- The bytes of a number give the number again, modulo their count. -/
theorem ofBytes_toBytes (n v : Nat) : ofBytes (toBytes n v) = v % 256 ^ n := by
  induction n generalizing v with
  | zero => simp [toBytes, ofBytes, Nat.mod_one]
  | succ n ih =>
    rw [toBytes, ofBytes, ih, BitVec.toNat_ofNat, show 256 ^ (n + 1) = 256 * 256 ^ n from Nat.pow_succ', Nat.mod_mul]

/-- The bytes written are the bytes read. -/
theorem bytesAt_putBytes (s : State) (a : Nat) (l : List Byte) : (s.putBytes a l).bytesAt a l.length = l := by
  refine List.ext_getElem (by simp [State.bytesAt]) fun i h _ => ?_
  simp only [State.bytesAt, List.getElem_map, List.getElem_range]
  exact byteAt_putBytes_in s a (by simpa [State.bytesAt] using h)

/-! ### The canonical form -/

theorem reset_mem : State.reset.mem = [] := rfl

/-- A write of one byte keeps the form. -/
theorem wf_sset {m : List Host.Cell} (a : Nat) (b : Byte) (h : Memory.wf m) : Memory.wf (sset 0 a b m) := swf_sset 0 a b h

/-- Dropping bytes keeps the form. -/
theorem wf_filter {m : List Host.Cell} (f : Host.Cell → Bool) (h : Memory.wf m) : Memory.wf (m.filter f) := swf_filter 0 f h

/-- Any number of writes keeps the form. -/
theorem wf_writes {α : Type} {m : List Host.Cell} (l : List α) (k : α → Nat) (v : α → Byte) (h : Memory.wf m) :
    Memory.wf (l.foldl (fun n x => sset 0 (k x) (v x) n) m) := by
  induction l generalizing m with
  | nil => exact h
  | cons x r ih => exact ih (wf_sset _ _ h)

/-- What keeps the list of bytes keeps its form. -/
theorem ok_of_mem {s t : State} (e : t.mem = s.mem) (h : s.MemoryOk) : t.MemoryOk := by
  unfold State.MemoryOk; rw [e]; exact h

/-- A fold of steps that keep the form keeps it. -/
theorem ok_foldl {α : Type} (l : List α) (f : State → α → State) (hf : ∀ t x, t.MemoryOk → (f t x).MemoryOk) {s : State}
    (h : s.MemoryOk) : (l.foldl f s).MemoryOk := by
  induction l generalizing s with
  | nil => exact h
  | cons x r ih => exact ih (hf s x h)

theorem ok_setByte {s : State} (a : Nat) (b : Byte) (h : s.MemoryOk) : (s.setByte a b).MemoryOk := wf_sset a b h

theorem ok_putBytes {s : State} (a : Nat) (l : List Byte) (h : s.MemoryOk) : (s.putBytes a l).MemoryOk := by
  induction l generalizing s a with
  | nil => exact h
  | cons b r ih => exact ih _ (ok_setByte a b h)

theorem SameBytes.ok {s t : State} (e : SameBytes s t) (h : s.MemoryOk) : t.MemoryOk := ok_of_mem e.1 h

theorem ok_layBytes {s : State} (q l : List Host.Cell) (h : s.MemoryOk) : (s.layBytes q l).1.MemoryOk := by
  induction l generalizing s q with
  | nil => exact h
  | cons c r ih =>
    rw [State.layBytes]
    split
    · exact ih _ h
    · exact ih _ (ok_setByte _ _ h)

theorem ok_writeCells {s : State} (rg : List (Nat × Nat)) (l : List Host.Cell) (p : Bool) (h : s.MemoryOk) :
    (s.writeCells rg l p).MemoryOk := by
  unfold State.writeCells State.queueWrite
  dsimp only
  split <;> exact (settleWrite_same ..).ok (ok_layBytes [] l h)

/-- Queued writes that are performed keep the form. -/
theorem ok_flushQueue {s : State} (h : s.MemoryOk) : s.flushQueue.MemoryOk := by
  unfold State.flushQueue
  exact ok_foldl _ _ (fun t w ht => ok_writeCells (s := t.withKey w.key) _ _ _ ht) (s := { s with eqx := _ }) h

theorem ok_dequeued {s : State} (h : s.MemoryOk) : s.dequeued.MemoryOk := by
  unfold State.dequeued
  split
  · exact h
  · exact ok_flushQueue (s := { s with eqx := _ }) h

theorem ok_storePieces {s : State} (l : List (Nat × List Byte)) (p : Bool) (h : s.MemoryOk) : (s.storePieces l p).MemoryOk :=
  ok_foldl _ _ (fun _ x ht => (tellPeer_same _ x.1 x.2 p).ok ht) (ok_writeCells _ _ p h)

theorem ok_store {s : State} (a : Nat) (l : List Byte) (p : Bool) (h : s.MemoryOk) : (s.store a l p).MemoryOk := ok_storePieces _ p h

theorem ok_storeAll {s : State} (l : List (Nat × List Byte)) (h : s.MemoryOk) : (s.storeAll l).MemoryOk := ok_storePieces l false h

theorem ok_lateWrite {s : State} (a : Nat) (l : List Byte) (p : Bool) (h : s.MemoryOk) : (s.lateWrite a l p).MemoryOk := by
  unfold State.lateWrite
  exact ok_of_mem (t := _) rfl (ok_store a l p (s := { s with eqx := _ }) h)

theorem ok_messageWrite {s : State} (m : FabricMsg) (h : s.MemoryOk) : (s.messageWrite m).MemoryOk := by
  unfold State.messageWrite
  dsimp only
  split
  · exact ok_lateWrite _ _ _ h
  · exact ok_store _ _ _ h

theorem ok_clearVault {s : State} (die base n : Nat) (h : s.MemoryOk) : (s.clearVault die base n).MemoryOk := wf_filter _ h

theorem ok_refill {s : State} (t : Team) (cwin base cbase : Nat) (img : SaveImage) (h : s.MemoryOk) :
    (s.refill t cwin base cbase img).MemoryOk :=
  wf_writes img.bytes (fun c => vaultFlat (dieOf t.core) base + c.1) Prod.snd (ok_clearVault _ _ _ (ok_clearVault _ _ _ h))

theorem ok_formatFrame {s : State} (g : Granule) (frame : Nat) (h : s.MemoryOk) : (s.formatFrame g frame).MemoryOk := wf_filter _ h

theorem ok_formatFrames {s : State} (g : Granule) (first n : Nat) (h : s.MemoryOk) : (s.formatFrames g first n).MemoryOk :=
  ok_foldl _ _ (fun _ _ ht => ok_formatFrame g _ ht) h

theorem wf_moveBytes {m : List Host.Cell} (src dst n : Nat) (h : Memory.wf m) : Memory.wf (moveBytes src dst n m) :=
  wf_writes _ Prod.fst Prod.snd (wf_filter _ h)

theorem keyFrames_same (s : State) (first n : Nat) : SameBytes s (s.keyFrames first n) := by
  unfold State.keyFrames
  dsimp only
  split
  · exact ⟨rfl, rfl⟩
  · refine SameBytes.trans ⟨rfl, rfl⟩ (sameBytes_foldl _ (fun t u => ?_) _ _)
    split
    · exact (putUnit_same ..).trans (putTag_same ..)
    · exact putUnit_same ..

theorem ok_copyFrames {s : State} (src dst n : Nat) (bad : List (Nat × Mark)) (h : s.MemoryOk) : (s.copyFrames src dst n bad).MemoryOk := by
  unfold State.copyFrames
  refine ok_foldl _ _ (fun t _ ht => (poisonRange_same t _ _).ok ht) ((keyFrames_same _ _ _).ok ?_)
  show Memory.wf (if s.plain = true then _ else _)
  split
  · exact wf_moveBytes src dst n h
  · exact wf_writes _ _ _ (wf_filter _ h)

theorem ok_writeLeaf {s : State} (level : Nat) (e : Word) (ea frame : Nat) (g : Granule) (h : s.MemoryOk) :
    (s.writeLeaf level e ea frame g).MemoryOk := by
  unfold State.writeLeaf
  split
  · exact ok_storeAll _ h
  · exact ok_store _ _ _ h

theorem ok_moduleReset {s t : State} {cap : Capability} {boot : Boot} (h : s.MemoryOk)
    (e : execModuleReset cap boot s = .next t) : t.MemoryOk := by
  unfold execModuleReset at e
  dsimp only at e
  split at e <;> cases e
  · refine ok_foldl _ (fun (t : State) (r : CfgRecord) => t.event (.configIgnored r.id)) (fun t r ht => ok_of_mem (s := t) rfl ht) ?_
    exact wf_filter (fun c => outlives c.1) h
  · exact wf_filter (fun c => outlives c.1) h

theorem ok_withFetchWord {s : State} (nbits w : Nat) (h : s.MemoryOk) : (s.withFetchWord nbits w).MemoryOk := by
  have hm : Memory.wf ((List.range (if nbits ≤ 32 then 4 else if nbits ≤ 64 then 8 else 12)).foldl
      (fun m i => sset 0 i (BitVec.ofNat 8 (w / 2 ^ (8 * i))) m) s.mem) := wf_writes _ _ _ h
  unfold State.withFetchWord
  dsimp only
  split <;> exact hm

/-- Logging errors leaves the bytes alone. -/
@[simp] theorem meetMark_mem (s : State) (scrub : Bool) (p : Nat × Mark) : (s.meetMark scrub p).1.mem = s.mem := (meetMark_same s scrub p).1

@[simp] theorem checkAt_mem (s : State) (l : List Nat) : (s.checkAt l).1.mem = s.mem := by
  have h : ∀ (l : List (Nat × Mark)) (r : State × Option Cause), (l.foldl (fun r p =>
      let q := r.1.meetMark false p
      (q.1, match q.2, r.2 with
            | some .uncorrectable, _ => some .uncorrectable
            | some c, none => some c
            | _, o => o)) r).1.mem = r.1.mem := by
    intro l
    induction l with
    | nil => exact fun _ => rfl
    | cons p r ih => exact fun q => (ih _).trans (meetMark_mem ..)
  exact h _ _

@[simp] theorem checkRead_mem (s : State) (a n : Nat) : (s.checkRead a n).1.mem = s.mem := checkAt_mem ..

/-- Errors that reach a register leave memory alone. -/
theorem registerError_mem (s : State) (core slot : Nat) : (s.registerError core slot).mem = s.mem := by
  unfold State.registerError State.walkerTrap State.haltGroup State.faultGrid
  dsimp only
  repeat' split
  all_goals rfl

/-- What others write, poison and bit errors keep the form. -/
theorem ok_input {s : State} (i : Input) (h : s.MemoryOk) : (s.input i).MemoryOk := by
  cases i with
  | write a l =>
    unfold State.input
    dsimp only
    split
    · exact ok_writeCells (s := s.withKey none) _ _ _ h
    · exact h
  | again flow seq =>
    unfold State.input State.sendAgain
    dsimp only
    repeat' split
    all_goals exact h
  | flips a bits =>
    unfold State.input State.flip
    dsimp only
    split <;> exact h
  | poison a => exact (poisonRange_same s a 1).ok h
  | vreg core slot e =>
    unfold State.input
    dsimp only
    split <;> exact h
  | queue team q row lane =>
    unfold State.input
    dsimp only
    split <;> exact h
  | acc core n => exact h
  | arow core e => exact h
  | slice core n => exact h
  | fn core k => exact h
  | sreg core slot => exact ok_of_mem (registerError_mem s core slot) h

/-- ATS requests that complete leave memory alone. -/
theorem serveAts_mem (s : State) : s.serveAts.mem = s.mem := by
  unfold State.serveAts
  exact (sameBytes_foldl (fun (t : State) (q : Nat × Word) => t.send (.invalidated q.1 q.2)) (fun _ _ => ⟨rfl, rfl⟩) _ _).1

/-- So do a move's cycles and inputs. -/
theorem ok_begin {s : State} (h : s.MemoryOk) : s.begin.MemoryOk := by
  unfold State.begin State.inputs
  exact ok_of_mem (serveAts_mem _) (ok_foldl _ _ (fun _ x ht => ok_input x ht) h)

end Sys2Proof.Laws
end

