-- ==== Sys2Proof/Laws/PerInstr.lean ====
section
/-! SUPPORT. Encoding and decoding agree, constructor by constructor: the word of a well-formed instruction decodes to it. -/

namespace Sys2Proof.Laws.EncodesBack

/-- The word of a well-formed instruction, when it has one, decodes to that instruction. -/
def Statement (i : Instr) : Prop := i.wf = true → encode i ≠ .event → decodeEncoded (encode i) = some (.instr i)

/-- The upper part of a field that holds two. -/
theorem upper {n : Nat} (L p q : Nat) {w : BitVec n} {x : BitVec p} {y : BitVec q} (h : w.extractLsb' L (p + q) = x ++ y) :
    w.extractLsb' (L + q) p = x := by
  rw [extract_part w L (p + q) q p (by omega), h, BitVec.extractLsb'_append_eq_left]

/-- The lower part of a field that holds two. -/
theorem lower {n : Nat} (L p q : Nat) {w : BitVec n} {x : BitVec p} {y : BitVec q} (h : w.extractLsb' L (p + q) = x ++ y) :
    w.extractLsb' L q = y := by
  rw [show L = L + 0 from rfl, extract_part w L (p + q) 0 q (by omega), h, BitVec.extractLsb'_append_eq_right]

/-- Levels of NLOOP.STEP have bit 4 set. -/
theorem sub_bit4 : ∀ {v : BitVec 6}, 16 ≤ v.toNat → v.toNat < 20 → v.getLsbD 4 = true := by decide
/-- Levels of NLOOP.SET have it clear. -/
theorem sub_bit4_low : ∀ {v : BitVec 6}, v.toNat < 4 → ¬ v.getLsbD 4 = true := by decide

/-- A listed op7 of slot Y and its operation. -/
theorem yOps_code (o : YOp) : ∃ c, lookupKey o.code.toNat yOps = some (o, c) := by cases o <;> exact ⟨_, rfl⟩

/-- A pair word with an operation in slot X. -/
theorem pairX_case (op : XOp) (p : PairX) {c : PairX → Instr} (hc : lookupKey op.code.toNat xOps = some c)
    (h : p.ok = true) : decodeEncoded (pairXWord op p) = some (.instr (c p)) := by
  obtain ⟨x, y, look, mreg⟩ := p
  cases y with
  | none =>
    have hl : look = 0 := by
      have := h; simp only [PairX.ok, Bool.and_eq_true, beq_iff_eq] at this; exact this.2
    subst hl
    refine pw_case _ _ _ _ _ _ fun w h1 h2 h3 h4 h5 h6 h7 => ?_
    unfold decodePair
    simp only [h1, h2, h3, h4, h5, h6, h7, hc]
    cases op <;> exact if_pos h
  | some q =>
    obtain ⟨yo, y⟩ := q
    obtain ⟨cy, hy⟩ := yOps_code yo
    refine pw_case _ _ _ _ _ _ fun w h1 h2 h3 h4 h5 h6 h7 => ?_
    unfold decodePair
    simp only [h1, h2, h3, h4, h5, h6, h7, hc, hy]
    cases op <;> cases yo <;> exact if_pos h

/-- A pair word with an idle slot X. -/
theorem pairY_case (op : YOp) (p : PairY) {c : PairY → Instr} (hc : lookupKey op.code.toNat yOps = some (op, c))
    (h : p.ok op = true) : decodeEncoded (pairYWord op p) = some (.instr (c p)) := by
  refine pw_case _ _ _ _ _ _ fun w h1 h2 h3 h4 h5 h6 h7 => ?_
  unfold decodePair
  simp only [h1, h2, h3, h4, h5, h6, h7, hc]
  cases op <;> exact if_pos h

theorem add : ∀ d a b, Statement (.add d a b) := fun d a b _ _ => Laws.sr_case fun w h1 h2 h3 h4 h5 => by unfold decodeScalar; rw [h1, h2, h3, h4, h5]; rfl
theorem sub : ∀ d a b, Statement (.sub d a b) := fun d a b _ _ => Laws.sr_case fun w h1 h2 h3 h4 h5 => by unfold decodeScalar; rw [h1, h2, h3, h4, h5]; rfl
theorem mul : ∀ d a b, Statement (.mul d a b) := fun d a b _ _ => Laws.sr_case fun w h1 h2 h3 h4 h5 => by unfold decodeScalar; rw [h1, h2, h3, h4, h5]; rfl
theorem mulh : ∀ d a b, Statement (.mulh d a b) := fun d a b _ _ => Laws.sr_case fun w h1 h2 h3 h4 h5 => by unfold decodeScalar; rw [h1, h2, h3, h4, h5]; rfl
theorem mulhz : ∀ d a b, Statement (.mulhz d a b) := fun d a b _ _ => Laws.sr_case fun w h1 h2 h3 h4 h5 => by unfold decodeScalar; rw [h1, h2, h3, h4, h5]; rfl
theorem div : ∀ d a b, Statement (.div d a b) := fun d a b _ _ => Laws.sr_case fun w h1 h2 h3 h4 h5 => by unfold decodeScalar; rw [h1, h2, h3, h4, h5]; rfl
theorem divz : ∀ d a b, Statement (.divz d a b) := fun d a b _ _ => Laws.sr_case fun w h1 h2 h3 h4 h5 => by unfold decodeScalar; rw [h1, h2, h3, h4, h5]; rfl
theorem rem : ∀ d a b, Statement (.rem d a b) := fun d a b _ _ => Laws.sr_case fun w h1 h2 h3 h4 h5 => by unfold decodeScalar; rw [h1, h2, h3, h4, h5]; rfl
theorem remz : ∀ d a b, Statement (.remz d a b) := fun d a b _ _ => Laws.sr_case fun w h1 h2 h3 h4 h5 => by unfold decodeScalar; rw [h1, h2, h3, h4, h5]; rfl
theorem and : ∀ d a b, Statement (.and d a b) := fun d a b _ _ => Laws.sr_case fun w h1 h2 h3 h4 h5 => by unfold decodeScalar; rw [h1, h2, h3, h4, h5]; rfl
theorem or : ∀ d a b, Statement (.or d a b) := fun d a b _ _ => Laws.sr_case fun w h1 h2 h3 h4 h5 => by unfold decodeScalar; rw [h1, h2, h3, h4, h5]; rfl
theorem xor : ∀ d a b, Statement (.xor d a b) := fun d a b _ _ => Laws.sr_case fun w h1 h2 h3 h4 h5 => by unfold decodeScalar; rw [h1, h2, h3, h4, h5]; rfl
theorem andn : ∀ d a b, Statement (.andn d a b) := fun d a b _ _ => Laws.sr_case fun w h1 h2 h3 h4 h5 => by unfold decodeScalar; rw [h1, h2, h3, h4, h5]; rfl
theorem shl : ∀ d a b, Statement (.shl d a b) := fun d a b _ _ => Laws.sr_case fun w h1 h2 h3 h4 h5 => by unfold decodeScalar; rw [h1, h2, h3, h4, h5]; rfl
theorem shr : ∀ d a b, Statement (.shr d a b) := fun d a b _ _ => Laws.sr_case fun w h1 h2 h3 h4 h5 => by unfold decodeScalar; rw [h1, h2, h3, h4, h5]; rfl
theorem sar : ∀ d a b, Statement (.sar d a b) := fun d a b _ _ => Laws.sr_case fun w h1 h2 h3 h4 h5 => by unfold decodeScalar; rw [h1, h2, h3, h4, h5]; rfl
theorem rotr : ∀ d a b, Statement (.rotr d a b) := fun d a b _ _ => Laws.sr_case fun w h1 h2 h3 h4 h5 => by unfold decodeScalar; rw [h1, h2, h3, h4, h5]; rfl
theorem min : ∀ d a b, Statement (.min d a b) := fun d a b _ _ => Laws.sr_case fun w h1 h2 h3 h4 h5 => by unfold decodeScalar; rw [h1, h2, h3, h4, h5]; rfl
theorem max : ∀ d a b, Statement (.max d a b) := fun d a b _ _ => Laws.sr_case fun w h1 h2 h3 h4 h5 => by unfold decodeScalar; rw [h1, h2, h3, h4, h5]; rfl
theorem minz : ∀ d a b, Statement (.minz d a b) := fun d a b _ _ => Laws.sr_case fun w h1 h2 h3 h4 h5 => by unfold decodeScalar; rw [h1, h2, h3, h4, h5]; rfl
theorem maxz : ∀ d a b, Statement (.maxz d a b) := fun d a b _ _ => Laws.sr_case fun w h1 h2 h3 h4 h5 => by unfold decodeScalar; rw [h1, h2, h3, h4, h5]; rfl
theorem slt : ∀ d a b, Statement (.slt d a b) := fun d a b _ _ => Laws.sr_case fun w h1 h2 h3 h4 h5 => by unfold decodeScalar; rw [h1, h2, h3, h4, h5]; rfl
theorem sltz : ∀ d a b, Statement (.sltz d a b) := fun d a b _ _ => Laws.sr_case fun w h1 h2 h3 h4 h5 => by unfold decodeScalar; rw [h1, h2, h3, h4, h5]; rfl
theorem clz : ∀ d a, Statement (.clz d a) := fun d a _ _ => Laws.sr_case fun w h1 h2 h3 h4 h5 => by unfold decodeScalar; rw [h1, h2, h3, h4, h5]; rfl
theorem popc : ∀ d a, Statement (.popc d a) := fun d a _ _ => Laws.sr_case fun w h1 h2 h3 h4 h5 => by unfold decodeScalar; rw [h1, h2, h3, h4, h5]; rfl
theorem sextB : ∀ d a, Statement (.sextB d a) := fun d a _ _ => Laws.sr_case fun w h1 h2 h3 h4 h5 => by unfold decodeScalar; rw [h1, h2, h3, h4, h5]; rfl
theorem sextH : ∀ d a, Statement (.sextH d a) := fun d a _ _ => Laws.sr_case fun w h1 h2 h3 h4 h5 => by unfold decodeScalar; rw [h1, h2, h3, h4, h5]; rfl
theorem sextW : ∀ d a, Statement (.sextW d a) := fun d a _ _ => Laws.sr_case fun w h1 h2 h3 h4 h5 => by unfold decodeScalar; rw [h1, h2, h3, h4, h5]; rfl
theorem zextB : ∀ d a, Statement (.zextB d a) := fun d a _ _ => Laws.sr_case fun w h1 h2 h3 h4 h5 => by unfold decodeScalar; rw [h1, h2, h3, h4, h5]; rfl
theorem zextH : ∀ d a, Statement (.zextH d a) := fun d a _ _ => Laws.sr_case fun w h1 h2 h3 h4 h5 => by unfold decodeScalar; rw [h1, h2, h3, h4, h5]; rfl
theorem zextW : ∀ d a, Statement (.zextW d a) := fun d a _ _ => Laws.sr_case fun w h1 h2 h3 h4 h5 => by unfold decodeScalar; rw [h1, h2, h3, h4, h5]; rfl
theorem sel : ∀ d a b c, Statement (.sel d a b c) := fun d a b c _ _ => Laws.sr_case fun w h1 h2 h3 h4 h5 => by
  have g1 := upper 0 6 2 h5
  have g2 := lower 0 6 2 h5
  unfold decodeScalar
  rw [h1, h2, h3, h4, g1, g2]; rfl
theorem addi : ∀ d a imm, Statement (.addi d a imm) := fun d a imm _ _ => Laws.si_case fun w h1 h2 h3 h4 h5 => by unfold decodeScalar; rw [h1, h2, h3, h4, h5]; rfl
theorem andi : ∀ d a imm, Statement (.andi d a imm) := fun d a imm _ _ => Laws.si_case fun w h1 h2 h3 h4 h5 => by unfold decodeScalar; rw [h1, h2, h3, h4, h5]; rfl
theorem ori : ∀ d a imm, Statement (.ori d a imm) := fun d a imm _ _ => Laws.si_case fun w h1 h2 h3 h4 h5 => by unfold decodeScalar; rw [h1, h2, h3, h4, h5]; rfl
theorem xori : ∀ d a imm, Statement (.xori d a imm) := fun d a imm _ _ => Laws.si_case fun w h1 h2 h3 h4 h5 => by unfold decodeScalar; rw [h1, h2, h3, h4, h5]; rfl
theorem slti : ∀ d a imm, Statement (.slti d a imm) := fun d a imm _ _ => Laws.si_case fun w h1 h2 h3 h4 h5 => by unfold decodeScalar; rw [h1, h2, h3, h4, h5]; rfl
theorem shli : ∀ d a n, Statement (.shli d a n) := fun d a n _ _ => Laws.si_case fun w h1 h2 h3 h4 h5 => by
  have g1 := upper 0 6 6 h5
  have g2 := lower 0 6 6 h5
  unfold decodeScalar
  rw [h1, h2, h3, h4, g1, g2]; rfl
theorem shri : ∀ d a n, Statement (.shri d a n) := fun d a n _ _ => Laws.si_case fun w h1 h2 h3 h4 h5 => by
  have g1 := upper 0 6 6 h5
  have g2 := lower 0 6 6 h5
  unfold decodeScalar
  rw [h1, h2, h3, h4, g1, g2]; rfl
theorem sari : ∀ d a n, Statement (.sari d a n) := fun d a n _ _ => Laws.si_case fun w h1 h2 h3 h4 h5 => by
  have g1 := upper 0 6 6 h5
  have g2 := lower 0 6 6 h5
  unfold decodeScalar
  rw [h1, h2, h3, h4, g1, g2]; rfl
theorem lhi : ∀ d imm, Statement (.lhi d imm) := fun d imm _ _ => Laws.su_case fun w h1 h2 h3 => by unfold decodeScalar; rw [h1, h2, h3]; rfl
theorem pchi : ∀ d imm, Statement (.pchi d imm) := fun d imm _ _ => Laws.su_case fun w h1 h2 h3 => by unfold decodeScalar; rw [h1, h2, h3]; rfl
theorem lds : ∀ d a z imm, Statement (.lds d a z imm) := fun d a z imm _ _ => Laws.si_case fun w h1 h2 h3 h4 h5 => by
  unfold decodeScalar; rw [h1, h2, h3, h4, h5]; cases z <;> rfl
theorem ldz : ∀ d a z imm, Statement (.ldz d a z imm) := fun d a z imm _ _ => Laws.si_case fun w h1 h2 h3 h4 h5 => by
  unfold decodeScalar; rw [h1, h2, h3, h4, h5]; cases z <;> rfl
theorem st : ∀ d a z imm, Statement (.st d a z imm) := fun d a z imm _ _ => Laws.si_case fun w h1 h2 h3 h4 h5 => by
  unfold decodeScalar; rw [h1, h2, h3, h4, h5]; cases z <;> rfl
theorem satomW : ∀ d a b op sc, Statement (.satomW d a b op sc) := fun d a b op sc _ _ => Laws.sr_case fun w h1 h2 h3 h4 h5 => by
  have g1 := upper 0 3 5 h5
  have g2 := lower 0 3 5 h5
  unfold decodeScalar
  rw [h1, h2, h3, h4, g1, g2]; cases op <;> rfl
theorem satomD : ∀ d a b op sc, Statement (.satomD d a b op sc) := fun d a b op sc _ _ => Laws.sr_case fun w h1 h2 h3 h4 h5 => by
  have g1 := upper 0 3 5 h5
  have g2 := lower 0 3 5 h5
  unfold decodeScalar
  rw [h1, h2, h3, h4, g1, g2]; cases op <;> rfl
theorem b : ∀ off, Statement (.b off) := fun off _ _ => Laws.sj_case fun w h1 h2 => by unfold decodeScalar; rw [h1, h2]; rfl
theorem call : ∀ off, Statement (.call off) := fun off _ _ => Laws.sj_case fun w h1 h2 => by unfold decodeScalar; rw [h1, h2]; rfl
theorem bcEq : ∀ a b off, Statement (.bcEq a b off) := fun a b off _ _ => Laws.sb_case fun w h1 h2 h3 h4 h5 => by unfold decodeScalar; rw [h1, h2, h3, h4, h5]; rfl
theorem bcNe : ∀ a b off, Statement (.bcNe a b off) := fun a b off _ _ => Laws.sb_case fun w h1 h2 h3 h4 h5 => by unfold decodeScalar; rw [h1, h2, h3, h4, h5]; rfl
theorem bcLt : ∀ a b off, Statement (.bcLt a b off) := fun a b off _ _ => Laws.sb_case fun w h1 h2 h3 h4 h5 => by unfold decodeScalar; rw [h1, h2, h3, h4, h5]; rfl
theorem bcGe : ∀ a b off, Statement (.bcGe a b off) := fun a b off _ _ => Laws.sb_case fun w h1 h2 h3 h4 h5 => by unfold decodeScalar; rw [h1, h2, h3, h4, h5]; rfl
theorem bcLtz : ∀ a b off, Statement (.bcLtz a b off) := fun a b off _ _ => Laws.sb_case fun w h1 h2 h3 h4 h5 => by unfold decodeScalar; rw [h1, h2, h3, h4, h5]; rfl
theorem bcGez : ∀ a b off, Statement (.bcGez a b off) := fun a b off _ _ => Laws.sb_case fun w h1 h2 h3 h4 h5 => by unfold decodeScalar; rw [h1, h2, h3, h4, h5]; rfl
theorem callr : ∀ a, Statement (.callr a) := fun a _ _ => Laws.sr_case fun w h1 h2 h3 h4 h5 => by unfold decodeScalar; rw [h1, h2, h3, h4, h5]; rfl
theorem ret : Statement .ret := fun _ _ => Laws.sr_case fun w h1 h2 h3 h4 h5 => by unfold decodeScalar; rw [h1, h2, h3, h4, h5]; rfl
theorem jr : ∀ a, Statement (.jr a) := fun a _ _ => Laws.sr_case fun w h1 h2 h3 h4 h5 => by unfold decodeScalar; rw [h1, h2, h3, h4, h5]; rfl
theorem lissue : ∀ n blk, Statement (.lissue n blk) := fun n blk _ _ => Laws.su_case fun w h1 h2 h3 => by unfold decodeScalar; rw [h1, h2, h3]; rfl
theorem lqwait : Statement .lqwait := fun _ _ => Laws.sr_case fun w h1 h2 h3 h4 h5 => by unfold decodeScalar; rw [h1, h2, h3, h4, h5]; rfl
theorem movk : ∀ k a, Statement (.movk k a) := fun k a _ _ => Laws.sr_case fun w h1 h2 h3 h4 h5 => by
  have g1 := upper 20 2 4 h2
  have g2 := lower 20 2 4 h2
  unfold decodeScalar
  rw [h1, h3, h4, h5, g1, g2]; rfl
theorem spop : ∀ d, Statement (.spop d) := fun d _ _ => Laws.sr_case fun w h1 h2 h3 h4 h5 => by unfold decodeScalar; rw [h1, h2, h3, h4, h5]; rfl
theorem regroup : ∀ v, Statement (.regroup v) := fun v _ _ => Laws.su_case fun w h1 h2 h3 => by
  have g1 := upper 0 10 10 h3
  have g2 := lower 0 10 10 h3
  unfold decodeScalar
  rw [h1, h2, g1, g2]; rfl
theorem bar : ∀ d, Statement (.bar d) := fun d _ _ => Laws.sr_case fun w h1 h2 h3 h4 h5 => by unfold decodeScalar; rw [h1, h2, h3, h4, h5]; rfl
theorem bararrive : ∀ d, Statement (.bararrive d) := fun d _ _ => Laws.sr_case fun w h1 h2 h3 h4 h5 => by unfold decodeScalar; rw [h1, h2, h3, h4, h5]; rfl
theorem barwait : ∀ d, Statement (.barwait d) := fun d _ _ => Laws.sr_case fun w h1 h2 h3 h4 h5 => by unfold decodeScalar; rw [h1, h2, h3, h4, h5]; rfl
theorem fence : ∀ sc, Statement (.fence sc) := fun sc _ _ => Laws.sr_case fun w h1 h2 h3 h4 h5 => by
  have g1 := upper 0 3 5 h5
  have g2 := lower 0 3 5 h5
  unfold decodeScalar
  rw [h1, h2, h3, h4, g1, g2]; rfl
theorem fenceAcq : ∀ sc, Statement (.fenceAcq sc) := fun sc _ _ => Laws.sr_case fun w h1 h2 h3 h4 h5 => by
  have g1 := upper 0 3 5 h5
  have g2 := lower 0 3 5 h5
  unfold decodeScalar
  rw [h1, h2, h3, h4, g1, g2]; rfl
theorem fenceRel : ∀ sc, Statement (.fenceRel sc) := fun sc _ _ => Laws.sr_case fun w h1 h2 h3 h4 h5 => by
  have g1 := upper 0 3 5 h5
  have g2 := lower 0 3 5 h5
  unfold decodeScalar
  rw [h1, h2, h3, h4, g1, g2]; rfl
theorem waitp : ∀ p a, Statement (.waitp p a) := fun p a _ _ => Laws.sr_case fun w h1 h2 h3 h4 h5 => by
  have g1 := upper 0 5 3 h5
  have g2 := lower 0 5 3 h5
  unfold decodeScalar
  rw [h1, h2, h3, h4, g1, g2]; cases p <;> rfl
theorem waitg : ∀ d a b, Statement (.waitg d a b) := fun d a b _ _ => Laws.sr_case fun w h1 h2 h3 h4 h5 => by unfold decodeScalar; rw [h1, h2, h3, h4, h5]; rfl
theorem yield : Statement .yield := fun _ _ => Laws.sr_case fun w h1 h2 h3 h4 h5 => by unfold decodeScalar; rw [h1, h2, h3, h4, h5]; rfl
theorem sleep : ∀ a, Statement (.sleep a) := fun a _ _ => Laws.sr_case fun w h1 h2 h3 h4 h5 => by unfold decodeScalar; rw [h1, h2, h3, h4, h5]; rfl
theorem fnfence : Statement .fnfence := fun _ _ => Laws.sr_case fun w h1 h2 h3 h4 h5 => by unfold decodeScalar; rw [h1, h2, h3, h4, h5]; rfl
theorem racq : ∀ n, Statement (.racq n) := fun n _ _ => by
  cases n <;> exact Laws.sr_case fun w h1 h2 h3 h4 h5 => by unfold decodeScalar; rw [h1, h2, h3, h4, h5]; rfl
theorem rrel : Statement .rrel := fun _ _ => Laws.sr_case fun w h1 h2 h3 h4 h5 => by unfold decodeScalar; rw [h1, h2, h3, h4, h5]; rfl
theorem tlaunch : ∀ d a, Statement (.tlaunch d a) := fun d a _ _ => Laws.sr_case fun w h1 h2 h3 h4 h5 => by unfold decodeScalar; rw [h1, h2, h3, h4, h5]; rfl
theorem gexit : Statement .gexit := fun _ _ => Laws.sr_case fun w h1 h2 h3 h4 h5 => by unfold decodeScalar; rw [h1, h2, h3, h4, h5]; rfl
theorem tretire : Statement .tretire := fun _ _ => Laws.sr_case fun w h1 h2 h3 h4 h5 => by unfold decodeScalar; rw [h1, h2, h3, h4, h5]; rfl
theorem mloop : ∀ a, Statement (.mloop a) := fun a _ _ => Laws.sr_case fun w h1 h2 h3 h4 h5 => by unfold decodeScalar; rw [h1, h2, h3, h4, h5]; rfl
theorem mstore : ∀ a, Statement (.mstore a) := fun a _ _ => Laws.sr_case fun w h1 h2 h3 h4 h5 => by unfold decodeScalar; rw [h1, h2, h3, h4, h5]; rfl
theorem mzero : ∀ acc stream, Statement (.mzero acc stream) := fun acc stream _ _ => Laws.sr_case fun w h1 h2 h3 h4 h5 => by
  have g1 := lower 0 6 2 h5
  have g0 := upper 0 6 2 h5
  have g2 := upper 2 3 3 g0
  have g3 := lower 2 3 3 g0
  unfold decodeScalar
  rw [h1, h2, h3, h4, g1, g2, g3]; rfl
theorem mfence : ∀ d, Statement (.mfence d) := fun d _ _ => Laws.sr_case fun w h1 h2 h3 h4 h5 => by unfold decodeScalar; rw [h1, h2, h3, h4, h5]; rfl
theorem mwait : ∀ a, Statement (.mwait a) := fun a _ _ => Laws.sr_case fun w h1 h2 h3 h4 h5 => by unfold decodeScalar; rw [h1, h2, h3, h4, h5]; rfl
theorem bfqpost : ∀ d a b, Statement (.bfqpost d a b) := fun d a b _ _ => Laws.sr_case fun w h1 h2 h3 h4 h5 => by unfold decodeScalar; rw [h1, h2, h3, h4, h5]; rfl
theorem bfqwait : ∀ a, Statement (.bfqwait a) := fun a _ _ => Laws.sr_case fun w h1 h2 h3 h4 h5 => by unfold decodeScalar; rw [h1, h2, h3, h4, h5]; rfl
theorem copy : ∀ d a, Statement (.copy d a) := fun d a _ _ => Laws.sr_case fun w h1 h2 h3 h4 h5 => by unfold decodeScalar; rw [h1, h2, h3, h4, h5]; rfl
theorem gather : ∀ d a, Statement (.gather d a) := fun d a _ _ => Laws.sr_case fun w h1 h2 h3 h4 h5 => by unfold decodeScalar; rw [h1, h2, h3, h4, h5]; rfl
theorem mcast : ∀ d a, Statement (.mcast d a) := fun d a _ _ => Laws.sr_case fun w h1 h2 h3 h4 h5 => by unfold decodeScalar; rw [h1, h2, h3, h4, h5]; rfl
theorem coll : ∀ d a, Statement (.coll d a) := fun d a _ _ => Laws.sr_case fun w h1 h2 h3 h4 h5 => by unfold decodeScalar; rw [h1, h2, h3, h4, h5]; rfl
theorem nmlaunch : ∀ d a, Statement (.nmlaunch d a) := fun d a _ _ => Laws.sr_case fun w h1 h2 h3 h4 h5 => by unfold decodeScalar; rw [h1, h2, h3, h4, h5]; rfl
theorem jrnlAdd : ∀ a b, Statement (.jrnlAdd a b) := fun a b _ _ => Laws.sr_case fun w h1 h2 h3 h4 h5 => by unfold decodeScalar; rw [h1, h2, h3, h4, h5]; rfl
theorem jrnlCommit : ∀ a, Statement (.jrnlCommit a) := fun a _ _ => Laws.sr_case fun w h1 h2 h3 h4 h5 => by unfold decodeScalar; rw [h1, h2, h3, h4, h5]; rfl
theorem jrnlDrop : ∀ a, Statement (.jrnlDrop a) := fun a _ _ => Laws.sr_case fun w h1 h2 h3 h4 h5 => by unfold decodeScalar; rw [h1, h2, h3, h4, h5]; rfl
theorem trap : ∀ a, Statement (.trap a) := fun a _ _ => Laws.sr_case fun w h1 h2 h3 h4 h5 => by unfold decodeScalar; rw [h1, h2, h3, h4, h5]; rfl
theorem eret : Statement .eret := fun _ _ => Laws.sr_case fun w h1 h2 h3 h4 h5 => by unfold decodeScalar; rw [h1, h2, h3, h4, h5]; rfl
theorem bkpt : Statement .bkpt := fun _ _ => Laws.sr_case fun w h1 h2 h3 h4 h5 => by unfold decodeScalar; rw [h1, h2, h3, h4, h5]; rfl
theorem tlbfill : ∀ a b, Statement (.tlbfill a b) := fun a b _ _ => Laws.sr_case fun w h1 h2 h3 h4 h5 => by unfold decodeScalar; rw [h1, h2, h3, h4, h5]; rfl
theorem tlbinv : ∀ a b, Statement (.tlbinv a b) := fun a b _ _ => Laws.sr_case fun w h1 h2 h3 h4 h5 => by unfold decodeScalar; rw [h1, h2, h3, h4, h5]; rfl
theorem fload : ∀ bank fn a, Statement (.fload bank fn a) := fun bank fn a _ _ => Laws.sr_case fun w h1 h2 h3 h4 h5 => by
  have g1 := lower 8 2 4 h4
  have g0 := upper 8 2 4 h4
  have g2 := bit_part w 12 2 0 (by decide)
  have g3 := bit_part w 12 2 1 (by decide)
  rw [show w.extractLsb' 12 2 = _ from g0] at g2 g3
  unfold decodeScalar
  rw [h1, h2, h3, h5, g1, g2, g3]; cases bank <;> rfl
theorem setfmt : ∀ a, Statement (.setfmt a) := fun a _ _ => Laws.sr_case fun w h1 h2 h3 h4 h5 => by unfold decodeScalar; rw [h1, h2, h3, h4, h5]; rfl
theorem rngseed : ∀ a b, Statement (.rngseed a b) := fun a b _ _ => Laws.sr_case fun w h1 h2 h3 h4 h5 => by unfold decodeScalar; rw [h1, h2, h3, h4, h5]; rfl
theorem csrr : ∀ d r, Statement (.csrr d r) := fun d r _ _ => Laws.si_case fun w h1 h2 h3 h4 h5 => by unfold decodeScalar; rw [h1, h2, h3, h4, h5]; rfl
theorem csrw : ∀ a r, Statement (.csrw a r) := fun a r _ _ => Laws.si_case fun w h1 h2 h3 h4 h5 => by unfold decodeScalar; rw [h1, h2, h3, h4, h5]; rfl
theorem csrx : ∀ d a r, Statement (.csrx d a r) := fun d a r _ _ => Laws.si_case fun w h1 h2 h3 h4 h5 => by unfold decodeScalar; rw [h1, h2, h3, h4, h5]; rfl
theorem fadd : ∀ w, Statement (.fadd w) := fun w h _ => Laws.l3_case 0x000 w (by decide) rfl h
theorem fsub : ∀ w, Statement (.fsub w) := fun w h _ => Laws.l3_case 0x001 w (by decide) rfl h
theorem fmul : ∀ w, Statement (.fmul w) := fun w h _ => Laws.l3_case 0x002 w (by decide) rfl h
theorem ffma : ∀ w, Statement (.ffma w) := fun w h _ => Laws.l3_case 0x003 w (by decide) rfl h
theorem fmin : ∀ w, Statement (.fmin w) := fun w h _ => Laws.l3_case 0x004 w (by decide) rfl h
theorem fmax : ∀ w, Statement (.fmax w) := fun w h _ => Laws.l3_case 0x005 w (by decide) rfl h
theorem fcmp : ∀ w, Statement (.fcmp w) := fun w h _ => Laws.l3_case 0x006 w (by decide) rfl h
theorem fsel : ∀ w, Statement (.fsel w) := fun w h _ => Laws.l3_case 0x007 w (by decide) rfl h
theorem fclass : ∀ w, Statement (.fclass w) := fun w h _ => Laws.l3_case 0x008 w (by decide) rfl h
theorem ftrunc : ∀ w, Statement (.ftrunc w) := fun w h _ => Laws.l3_case 0x009 w (by decide) rfl h
theorem fround : ∀ w, Statement (.fround w) := fun w h _ => Laws.l3_case 0x00A w (by decide) rfl h
theorem apply : ∀ w, Statement (.apply w) := fun w h _ => Laws.l3_case 0x010 w (by decide) rfl h
theorem applyd : ∀ w, Statement (.applyd w) := fun w h _ => Laws.l3_case 0x011 w (by decide) rfl h
theorem apply2 : ∀ w, Statement (.apply2 w) := fun w h _ => Laws.l3_case 0x012 w (by decide) rfl h
theorem osmax : ∀ w, Statement (.osmax w) := fun w h _ => Laws.l3_case 0x018 w (by decide) rfl h
theorem osmerge : ∀ w, Statement (.osmerge w) := fun w h _ => Laws.l3_case 0x019 w (by decide) rfl h
theorem osnorm : ∀ w, Statement (.osnorm w) := fun w h _ => Laws.l3_case 0x01A w (by decide) rfl h
theorem iadd : ∀ w, Statement (.iadd w) := fun w h _ => Laws.l3_case 0x100 w (by decide) rfl h
theorem isub : ∀ w, Statement (.isub w) := fun w h _ => Laws.l3_case 0x101 w (by decide) rfl h
theorem imul : ∀ w, Statement (.imul w) := fun w h _ => Laws.l3_case 0x102 w (by decide) rfl h
theorem imulh : ∀ w, Statement (.imulh w) := fun w h _ => Laws.l3_case 0x103 w (by decide) rfl h
theorem imad : ∀ w, Statement (.imad w) := fun w h _ => Laws.l3_case 0x104 w (by decide) rfl h
theorem imin : ∀ w, Statement (.imin w) := fun w h _ => Laws.l3_case 0x105 w (by decide) rfl h
theorem imax : ∀ w, Statement (.imax w) := fun w h _ => Laws.l3_case 0x106 w (by decide) rfl h
theorem laneAnd : ∀ w, Statement (.laneAnd w) := fun w h _ => Laws.l3_case 0x108 w (by decide) rfl h
theorem laneOr : ∀ w, Statement (.laneOr w) := fun w h _ => Laws.l3_case 0x109 w (by decide) rfl h
theorem laneXor : ∀ w, Statement (.laneXor w) := fun w h _ => Laws.l3_case 0x10A w (by decide) rfl h
theorem laneShl : ∀ w, Statement (.laneShl w) := fun w h _ => Laws.l3_case 0x10C w (by decide) rfl h
theorem laneShr : ∀ w, Statement (.laneShr w) := fun w h _ => Laws.l3_case 0x10D w (by decide) rfl h
theorem laneSar : ∀ w, Statement (.laneSar w) := fun w h _ => Laws.l3_case 0x10E w (by decide) rfl h
theorem bfx : ∀ w, Statement (.bfx w) := fun w h _ => Laws.l3_case 0x110 w (by decide) rfl h
theorem bfi : ∀ w, Statement (.bfi w) := fun w h _ => Laws.l3_case 0x111 w (by decide) rfl h
theorem lanePopc : ∀ w, Statement (.lanePopc w) := fun w h _ => Laws.l3_case 0x112 w (by decide) rfl h
theorem laneClz : ∀ w, Statement (.laneClz w) := fun w h _ => Laws.l3_case 0x113 w (by decide) rfl h
theorem brev : ∀ w, Statement (.brev w) := fun w h _ => Laws.l3_case 0x114 w (by decide) rfl h
theorem icmp : ∀ w, Statement (.icmp w) := fun w h _ => Laws.l3_case 0x118 w (by decide) rfl h
theorem isel : ∀ w, Statement (.isel w) := fun w h _ => Laws.l3_case 0x119 w (by decide) rfl h
theorem mov : ∀ w, Statement (.mov w) := fun w h _ => Laws.l3_case 0x11C w (by decide) rfl h
theorem movi : ∀ w, Statement (.movi w) := fun w h _ => Laws.l3_case 0x11D w (by decide) rfl h
theorem cvt : ∀ w, Statement (.cvt w) := fun w h _ => Laws.l3_case 0x200 w (by decide) rfl h
theorem qblk : ∀ w, Statement (.qblk w) := fun w h _ => Laws.l3_case 0x201 w (by decide) rfl h
theorem dqblk : ∀ w, Statement (.dqblk w) := fun w h _ => Laws.l3_case 0x202 w (by decide) rfl h
theorem fkey : ∀ w, Statement (.fkey w) := fun w h _ => Laws.l3_case 0x204 w (by decide) rfl h
theorem funkey : ∀ w, Statement (.funkey w) := fun w h _ => Laws.l3_case 0x205 w (by decide) rfl h
theorem xbfly : ∀ w, Statement (.xbfly w) := fun w h _ => Laws.l3_case 0x280 w (by decide) rfl h
theorem xperm : ∀ w, Statement (.xperm w) := fun w h _ => Laws.l3_case 0x281 w (by decide) rfl h
theorem xbcast : ∀ w, Statement (.xbcast w) := fun w h _ => Laws.l3_case 0x282 w (by decide) rfl h
theorem xscan : ∀ w, Statement (.xscan w) := fun w h _ => Laws.l3_case 0x283 w (by decide) rfl h
theorem xred : ∀ w, Statement (.xred w) := fun w h _ => Laws.l3_case 0x284 w (by decide) rfl h
theorem vote : ∀ w, Statement (.vote w) := fun w h _ => Laws.l3_case 0x285 w (by decide) rfl h
theorem sample : ∀ w, Statement (.sample w) := fun w h _ => Laws.l3_case 0x286 w (by decide) rfl h
theorem lret : ∀ w, Statement (.lret w) := fun w h _ => Laws.l3_case 0x287 w (by decide) rfl h
theorem mand : ∀ w, Statement (.mand w) := fun w h _ => Laws.l3_case 0x290 w (by decide) rfl h
theorem mor : ∀ w, Statement (.mor w) := fun w h _ => Laws.l3_case 0x291 w (by decide) rfl h
theorem mnot : ∀ w, Statement (.mnot w) := fun w h _ => Laws.l3_case 0x292 w (by decide) rfl h
theorem mpop : ∀ w, Statement (.mpop w) := fun w h _ => Laws.l3_case 0x293 w (by decide) rfl h
theorem rpf : ∀ w, Statement (.rpf w) := fun w h _ => Laws.l3_case 0x310 w (by decide) rfl h
theorem nmfence : ∀ w, Statement (.nmfence w) := fun w h _ => Laws.l3_case 0x312 w (by decide) rfl h
theorem accrd : ∀ w, Statement (.accrd w) := fun w h _ => Laws.l3_case 0x318 w (by decide) rfl h
theorem accwr : ∀ w, Statement (.accwr w) := fun w h _ => Laws.l3_case 0x319 w (by decide) rfl h
theorem ifWord : ∀ w, Statement (.ifWord w) := fun w h _ => Laws.l3_case 0x380 w (by decide) rfl h
theorem elseWord : ∀ w, Statement (.elseWord w) := fun w h _ => Laws.l3_case 0x381 w (by decide) rfl h
theorem endifWord : ∀ w, Statement (.endifWord w) := fun w h _ => Laws.l3_case 0x382 w (by decide) rfl h
theorem loopany : ∀ w, Statement (.loopany w) := fun w h _ => Laws.l3_case 0x383 w (by decide) rfl h
theorem breakif : ∀ w, Statement (.breakif w) := fun w h _ => Laws.l3_case 0x384 w (by decide) rfl h
theorem endloop : ∀ w, Statement (.endloop w) := fun w h _ => Laws.l3_case 0x385 w (by decide) rfl h
theorem exmr : ∀ w, Statement (.exmr w) := fun w h _ => Laws.l3_case 0x386 w (by decide) rfl h
theorem exmw : ∀ w, Statement (.exmw w) := fun w h _ => Laws.l3_case 0x387 w (by decide) rfl h
theorem rand : ∀ w, Statement (.rand w) := fun w h _ => Laws.l3_case 0x390 w (by decide) rfl h
theorem vld : ∀ w, Statement (.vld w) := fun w h _ => Laws.lm_case 0x300 w (by decide) rfl rfl h
theorem vst : ∀ w, Statement (.vst w) := fun w h _ => Laws.lm_case 0x301 w (by decide) rfl rfl h
theorem vldv : ∀ w, Statement (.vldv w) := fun w h _ => Laws.lm_case 0x302 w (by decide) rfl rfl h
theorem vstv : ∀ w, Statement (.vstv w) := fun w h _ => Laws.lm_case 0x303 w (by decide) rfl rfl h
theorem vldm : ∀ w, Statement (.vldm w) := fun w h _ => Laws.lm_case 0x304 w (by decide) rfl rfl h
theorem vstm : ∀ w, Statement (.vstm w) := fun w h _ => Laws.lm_case 0x305 w (by decide) rfl rfl h
theorem vatom : ∀ w, Statement (.vatom w) := fun w h _ => Laws.lm_case 0x306 w (by decide) rfl rfl h
theorem vatomv : ∀ w, Statement (.vatomv w) := fun w h _ => Laws.lm_case 0x307 w (by decide) rfl rfl h
theorem vpref : ∀ w, Statement (.vpref w) := fun w h _ => Laws.lm_case 0x308 w (by decide) rfl rfl h
theorem nmatom : ∀ w, Statement (.nmatom w) := fun w h _ => Laws.lm_case 0x311 w (by decide) rfl rfl h
theorem pairFaddF32 : ∀ p, Statement (.pairFaddF32 p) := fun p h _ => pairX_case .faddF32 p rfl h
theorem pairFsubF32 : ∀ p, Statement (.pairFsubF32 p) := fun p h _ => pairX_case .fsubF32 p rfl h
theorem pairFmulF32 : ∀ p, Statement (.pairFmulF32 p) := fun p h _ => pairX_case .fmulF32 p rfl h
theorem pairFmacF32 : ∀ p, Statement (.pairFmacF32 p) := fun p h _ => pairX_case .fmacF32 p rfl h
theorem pairFminF32 : ∀ p, Statement (.pairFminF32 p) := fun p h _ => pairX_case .fminF32 p rfl h
theorem pairFmaxF32 : ∀ p, Statement (.pairFmaxF32 p) := fun p h _ => pairX_case .fmaxF32 p rfl h
theorem pairFaddF16 : ∀ p, Statement (.pairFaddF16 p) := fun p h _ => pairX_case .faddF16 p rfl h
theorem pairFsubF16 : ∀ p, Statement (.pairFsubF16 p) := fun p h _ => pairX_case .fsubF16 p rfl h
theorem pairFmulF16 : ∀ p, Statement (.pairFmulF16 p) := fun p h _ => pairX_case .fmulF16 p rfl h
theorem pairFmacF16 : ∀ p, Statement (.pairFmacF16 p) := fun p h _ => pairX_case .fmacF16 p rfl h
theorem pairIaddS32 : ∀ p, Statement (.pairIaddS32 p) := fun p h _ => pairY_case .iadd p rfl h
theorem pairIsubS32 : ∀ p, Statement (.pairIsubS32 p) := fun p h _ => pairY_case .isub p rfl h
theorem pairAndB32 : ∀ p, Statement (.pairAndB32 p) := fun p h _ => pairY_case .and p rfl h
theorem pairOrB32 : ∀ p, Statement (.pairOrB32 p) := fun p h _ => pairY_case .or p rfl h
theorem pairXorB32 : ∀ p, Statement (.pairXorB32 p) := fun p h _ => pairY_case .xor p rfl h
theorem pairShlB32 : ∀ p, Statement (.pairShlB32 p) := fun p h _ => pairY_case .shl p rfl h
theorem pairShrB32 : ∀ p, Statement (.pairShrB32 p) := fun p h _ => pairY_case .shr p rfl h
theorem pairSarS32 : ∀ p, Statement (.pairSarS32 p) := fun p h _ => pairY_case .sar p rfl h
theorem pairIminS32 : ∀ p, Statement (.pairIminS32 p) := fun p h _ => pairY_case .imin p rfl h
theorem pairImaxS32 : ∀ p, Statement (.pairImaxS32 p) := fun p h _ => pairY_case .imax p rfl h
theorem pairMovB32 : ∀ p, Statement (.pairMovB32 p) := fun p h _ => pairY_case .mov p rfl h
theorem pairCvtF32S32 : ∀ p, Statement (.pairCvtF32S32 p) := fun p h _ => pairY_case .cvtF32S32 p rfl h
theorem pairCvtS32F32 : ∀ p, Statement (.pairCvtS32F32 p) := fun p h _ => pairY_case .cvtS32F32 p rfl h
theorem pairFkeyF32 : ∀ p, Statement (.pairFkeyF32 p) := fun p h _ => pairY_case .fkey p rfl h
theorem pairXbflyB32 : ∀ p, Statement (.pairXbflyB32 p) := fun p h _ => pairY_case .xbfly p rfl h
theorem nfadd : ∀ w, Statement (.nfadd w) := fun w h _ => Laws.na_case 0x03 w rfl h
theorem nfmul : ∀ w, Statement (.nfmul w) := fun w h _ => Laws.na_case 0x04 w rfl h
theorem nfma : ∀ w, Statement (.nfma w) := fun w h _ => Laws.na_case 0x05 w rfl h
theorem nfmax : ∀ w, Statement (.nfmax w) := fun w h _ => Laws.na_case 0x06 w rfl h
theorem nfmin : ∀ w, Statement (.nfmin w) := fun w h _ => Laws.na_case 0x07 w rfl h
theorem napply : ∀ w, Statement (.napply w) := fun w h _ => Laws.na_case 0x08 w rfl h
theorem ncvt : ∀ w, Statement (.ncvt w) := fun w h _ => Laws.na_case 0x09 w rfl h
theorem nscale : ∀ w, Statement (.nscale w) := fun w h _ => Laws.na_case 0x0A w rfl h
theorem nmov : ∀ w, Statement (.nmov w) := fun w h _ => Laws.na_case 0x12 w rfl h
theorem niadd : ∀ w, Statement (.niadd w) := fun w h _ => Laws.na_case 0x13 w rfl h
theorem ncmp : ∀ w, Statement (.ncmp w) := fun w h _ => Laws.na_case 0x14 w rfl h
theorem nsel : ∀ w, Statement (.nsel w) := fun w h _ => Laws.na_case 0x15 w rfl h
theorem nld : ∀ w, Statement (.nld w) := fun w h _ => Laws.nm_case 0x01 w rfl rfl h
theorem nst : ∀ w, Statement (.nst w) := fun w h _ => Laws.nm_case 0x02 w rfl rfl h
theorem natom : ∀ w, Statement (.natom w) := fun w h _ => Laws.nm_case 0x0B w rfl rfl h
theorem nlock : ∀ w, Statement (.nlock w) := fun w h _ => Laws.nm_case 0x0C w rfl rfl h
theorem nunlock : ∀ w, Statement (.nunlock w) := fun w h _ => Laws.nm_case 0x0D w rfl rfl h
theorem nsignal : ∀ w, Statement (.nsignal w) := fun w h _ => Laws.nm_case 0x11 w rfl rfl h
theorem nwait : ∀ w, Statement (.nwait w) := fun w h _ => Laws.nm_case 0x16 w rfl rfl h
theorem nbr : ∀ w, Statement (.nbr w) := fun w h _ => Laws.nc_case 0x0F w fun x h1 h2 h3 => by
  have h : w.brOk = true := h
  unfold decodeNm
  rw [h1, h2, h3]
  exact if_pos h
theorem nend : ∀ w, Statement (.nend w) := fun w h _ => Laws.nc_case 0x10 w fun x h1 h2 h3 => by
  have h : w.endOk = true := h
  unfold decodeNm
  rw [h1, h2, h3]
  exact if_pos h
theorem nloopSet : ∀ w, Statement (.nloopSet w) := fun w h _ => Laws.nc_case 0x0E w fun x h1 h2 h3 => by
  have h : w.setOk = true := h
  have g : ¬ w.sub.getLsbD 4 = true := by
    simp only [NC.setOk, Bool.and_eq_true, decide_eq_true_eq] at h
    exact sub_bit4_low h.1.1.1.2
  unfold decodeNm
  rw [h1, h2, h3]
  exact (if_neg g).trans (if_pos h)
theorem nloopStep : ∀ w, Statement (.nloopStep w) := fun w h _ => Laws.nc_case 0x0E w fun x h1 h2 h3 => by
  have h : w.stepOk = true := h
  have g : w.sub.getLsbD 4 = true := by
    simp only [NC.stepOk, Bool.and_eq_true, decide_eq_true_eq] at h
    exact sub_bit4 h.1.2 h.2
  unfold decodeNm
  rw [h1, h2, h3]
  exact (if_pos g).trans (if_pos h)
theorem waitgTimeout : ∀ x0 x1, Statement (.waitgTimeout x0 x1) := fun _ _ _ h => absurd rfl h
theorem sleepExpiry : ∀ x0 x1, Statement (.sleepExpiry x0 x1) := fun _ _ _ h => absurd rfl h
theorem groupExitComplete : ∀ x0 x1, Statement (.groupExitComplete x0 x1) := fun _ _ _ h => absurd rfl h
theorem matrixCommandComplete : ∀ x0 x1, Statement (.matrixCommandComplete x0 x1) := fun _ _ _ h => absurd rfl h
theorem batchFormTimeout : ∀ x0 x1, Statement (.batchFormTimeout x0 x1) := fun _ _ _ h => absurd rfl h
theorem batchComplete : ∀ x0 x1, Statement (.batchComplete x0 x1) := fun _ _ _ h => absurd rfl h
theorem engineCommandComplete : ∀ x0, Statement (.engineCommandComplete x0) := fun _ _ h => absurd rfl h
theorem collectiveStepComplete : ∀ x0 x1, Statement (.collectiveStepComplete x0 x1) := fun _ _ _ h => absurd rfl h
theorem laneQueueScalarEffect : Statement .laneQueueScalarEffect := fun _ h => absurd rfl h
theorem functionRegisterSwitch : Statement .functionRegisterSwitch := fun _ h => absurd rfl h
theorem nwaitExpiry : ∀ x0 x1, Statement (.nwaitExpiry x0 x1) := fun _ _ _ h => absurd rfl h
theorem nmProgramStart : ∀ x0 x1, Statement (.nmProgramStart x0 x1) := fun _ _ _ h => absurd rfl h
theorem nmatomPerform : ∀ x0 x1, Statement (.nmatomPerform x0 x1) := fun _ _ _ h => absurd rfl h
theorem depcntDecrement : ∀ x0 x1, Statement (.depcntDecrement x0 x1) := fun _ _ _ h => absurd rfl h
theorem almanacRecordWrite : ∀ x0 x1 x2 x3, Statement (.almanacRecordWrite x0 x1 x2 x3) := fun _ _ _ _ _ h => absurd rfl h
theorem recordCheck : ∀ x0 x1, Statement (.recordCheck x0 x1) := fun _ _ _ h => absurd rfl h
theorem recordAging : ∀ x0 x1, Statement (.recordAging x0 x1) := fun _ _ _ h => absurd rfl h
theorem headBlocking : ∀ x0 x1, Statement (.headBlocking x0 x1) := fun _ _ _ h => absurd rfl h
theorem placementStep : Statement .placementStep := fun _ h => absurd rfl h
theorem teamRetirement : ∀ x0 x1 x2, Statement (.teamRetirement x0 x1 x2) := fun _ _ _ _ h => absurd rfl h
theorem commitPublish : ∀ x0 x1, Statement (.commitPublish x0 x1) := fun _ _ _ h => absurd rfl h
theorem commitAbort : ∀ x0 x1, Statement (.commitAbort x0 x1) := fun _ _ _ h => absurd rfl h
theorem vigilReplay : ∀ x0 x1, Statement (.vigilReplay x0 x1) := fun _ _ _ h => absurd rfl h
theorem vigilVerdict : ∀ x0 x1, Statement (.vigilVerdict x0 x1) := fun _ _ _ h => absurd rfl h
theorem groupSwap : ∀ x0, Statement (.groupSwap x0) := fun _ _ h => absurd rfl h
theorem starvationFlag : ∀ x0 x1, Statement (.starvationFlag x0 x1) := fun _ _ _ h => absurd rfl h
theorem forcedSwap : ∀ x0, Statement (.forcedSwap x0) := fun _ _ h => absurd rfl h
theorem dependenceResolved : ∀ x0 x1, Statement (.dependenceResolved x0 x1) := fun _ _ _ h => absurd rfl h
theorem compaction : ∀ x0, Statement (.compaction x0) := fun _ _ h => absurd rfl h
theorem teamSave : ∀ x0 x1 x2, Statement (.teamSave x0 x1 x2) := fun _ _ _ _ h => absurd rfl h
theorem teamRestore : ∀ x0 x1 x2, Statement (.teamRestore x0 x1 x2) := fun _ _ _ _ h => absurd rfl h
theorem fpSubnormalAssist : ∀ x0 x1, Statement (.fpSubnormalAssist x0 x1) := fun _ _ _ h => absurd rfl h
theorem walkRequest : ∀ x0 x1, Statement (.walkRequest x0 x1) := fun _ _ _ h => absurd rfl h
theorem pageRequestResponse : ∀ x0 x1, Statement (.pageRequestResponse x0 x1) := fun _ _ _ h => absurd rfl h
theorem atsInvalidateRequest : ∀ x0 x1, Statement (.atsInvalidateRequest x0 x1) := fun _ _ _ h => absurd rfl h
theorem accessComplete : ∀ x0 x1 x2 x3, Statement (.accessComplete x0 x1 x2 x3) := fun _ _ _ _ _ h => absurd rfl h
theorem loadDataArrival : ∀ x0 x1 x2 x3, Statement (.loadDataArrival x0 x1 x2 x3) := fun _ _ _ _ _ h => absurd rfl h
theorem stackCacheWriteback : ∀ x0, Statement (.stackCacheWriteback x0) := fun _ _ h => absurd rfl h
theorem batchTableSnapshot : ∀ x0 x1, Statement (.batchTableSnapshot x0 x1) := fun _ _ _ h => absurd rfl h
theorem scrubPass : ∀ x0 x1 x2, Statement (.scrubPass x0 x1 x2) := fun _ _ _ _ h => absurd rfl h
theorem bloomFilterClear : ∀ x0, Statement (.bloomFilterClear x0) := fun _ _ h => absurd rfl h
theorem stackSnapshotAck : ∀ x0, Statement (.stackSnapshotAck x0) := fun _ _ h => absurd rfl h
theorem cutMarkerReceived : ∀ x0, Statement (.cutMarkerReceived x0) := fun _ _ h => absurd rfl h
theorem shadowCopy : ∀ x0, Statement (.shadowCopy x0) := fun _ _ h => absurd rfl h
theorem drainFrame : ∀ x0, Statement (.drainFrame x0) := fun _ _ h => absurd rfl h
theorem cutFailed : Statement .cutFailed := fun _ h => absurd rfl h
theorem fabricMessageArrival : ∀ x0, Statement (.fabricMessageArrival x0) := fun _ _ h => absurd rfl h
theorem supplySagTrip : ∀ x0, Statement (.supplySagTrip x0) := fun _ _ h => absurd rfl h
theorem supplySagClear : ∀ x0, Statement (.supplySagClear x0) := fun _ _ h => absurd rfl h
theorem clockStepUp : ∀ x0, Statement (.clockStepUp x0) := fun _ _ h => absurd rfl h
theorem sensorSample : Statement .sensorSample := fun _ h => absurd rfl h
theorem moduleReset : ∀ x0 x1, Statement (.moduleReset x0 x1) := fun _ _ _ h => absurd rfl h
theorem attestationRequest : ∀ x0, Statement (.attestationRequest x0) := fun _ _ h => absurd rfl h
theorem createContext : ∀ x0 x1 x2, Statement (.createContext x0 x1 x2) := fun _ _ _ _ h => absurd rfl h
theorem releaseContext : ∀ x0 x1, Statement (.releaseContext x0 x1) := fun _ _ _ h => absurd rfl h
theorem invalidateTranslations : ∀ x0 x1, Statement (.invalidateTranslations x0 x1) := fun _ _ _ h => absurd rfl h
theorem grantFrames : ∀ x0 x1 x2 x3 x4, Statement (.grantFrames x0 x1 x2 x3 x4) := fun _ _ _ _ _ _ h => absurd rfl h
theorem addPagePool : ∀ x0 x1 x2 x3 x4, Statement (.addPagePool x0 x1 x2 x3 x4) := fun _ _ _ _ _ _ h => absurd rfl h
theorem addSaveAreaPool : ∀ x0 x1 x2 x3 x4, Statement (.addSaveAreaPool x0 x1 x2 x3 x4) := fun _ _ _ _ _ _ h => absurd rfl h
theorem registerAlmanacRegion : ∀ x0 x1 x2 x3, Statement (.registerAlmanacRegion x0 x1 x2 x3) := fun _ _ _ _ _ h => absurd rfl h
theorem placeBar2Window : ∀ x0 x1, Statement (.placeBar2Window x0 x1) := fun _ _ _ h => absurd rfl h
theorem registerAuditArray : ∀ x0 x1 x2, Statement (.registerAuditArray x0 x1 x2) := fun _ _ _ _ h => absurd rfl h
theorem registerBatchTable : ∀ x0 x1 x2 x3 x4, Statement (.registerBatchTable x0 x1 x2 x3 x4) := fun _ _ _ _ _ _ h => absurd rfl h
theorem writeScopeTable : ∀ x0 x1 x2 x3, Statement (.writeScopeTable x0 x1 x2 x3) := fun _ _ _ _ _ h => absurd rfl h
theorem preempt : ∀ x0 x1 x2, Statement (.preempt x0 x1 x2) := fun _ _ _ _ h => absurd rfl h
theorem enableDistributorPreemption : ∀ x0 x1 x2, Statement (.enableDistributorPreemption x0 x1 x2) := fun _ _ _ _ h => absurd rfl h
theorem releaseSlot : ∀ x0 x1 x2, Statement (.releaseSlot x0 x1 x2) := fun _ _ _ _ h => absurd rfl h
theorem releaseCommandLocks : ∀ x0 x1, Statement (.releaseCommandLocks x0 x1) := fun _ _ _ h => absurd rfl h
theorem resetFlow : ∀ x0 x1, Statement (.resetFlow x0 x1) := fun _ _ _ h => absurd rfl h
theorem setUpFlow : ∀ x0 x1, Statement (.setUpFlow x0 x1) := fun _ _ _ h => absurd rfl h
theorem setUpDomain : ∀ x0 x1 x2 x3, Statement (.setUpDomain x0 x1 x2 x3) := fun _ _ _ _ _ h => absurd rfl h
theorem equinoxArm : ∀ x0 x1, Statement (.equinoxArm x0 x1) := fun _ _ _ h => absurd rfl h
theorem equinoxDisarm : ∀ x0, Statement (.equinoxDisarm x0) := fun _ _ h => absurd rfl h
theorem equinoxAcknowledge : ∀ x0, Statement (.equinoxAcknowledge x0) := fun _ _ h => absurd rfl h
theorem setAge : ∀ x0 x1 x2, Statement (.setAge x0 x1 x2) := fun _ _ _ _ h => absurd rfl h
theorem setScrubPeriod : ∀ x0 x1, Statement (.setScrubPeriod x0 x1) := fun _ _ _ h => absurd rfl h
theorem setFilterSchedule : ∀ x0 x1, Statement (.setFilterSchedule x0 x1) := fun _ _ _ h => absurd rfl h
theorem setRepeatThreshold : ∀ x0 x1, Statement (.setRepeatThreshold x0 x1) := fun _ _ _ h => absurd rfl h
theorem setVigilExponent : ∀ x0 x1 x2, Statement (.setVigilExponent x0 x1 x2) := fun _ _ _ _ h => absurd rfl h
theorem migratePage : ∀ x0 x1 x2 x3, Statement (.migratePage x0 x1 x2 x3) := fun _ _ _ _ _ h => absurd rfl h
theorem readCapabilityBlock : ∀ x0, Statement (.readCapabilityBlock x0) := fun _ _ h => absurd rfl h
theorem readPhysicalMap : ∀ x0, Statement (.readPhysicalMap x0) := fun _ _ h => absurd rfl h
theorem readSensor : ∀ x0 x1, Statement (.readSensor x0 x1) := fun _ _ _ h => absurd rfl h
theorem illegalOpcode : Statement .illegalOpcode := fun _ h => absurd rfl h
theorem fetchFault : Statement .fetchFault := fun _ h => absurd rfl h
theorem unknownMailboxOp : ∀ x0 x1, Statement (.unknownMailboxOp x0 x1) := fun _ _ _ h => absurd rfl h

end Sys2Proof.Laws.EncodesBack
end

