-- ==== Sys2Proof/Laws/Scalar.lean ====
section
/-! SUPPORT. What the shared operations of the scalar words do: a result in one register, a jump. -/

namespace Sys2Proof.Laws

open Sys2Proof.Machine

/-- A change of the executing group alone. -/
theorem onlyGroup_modG (s : State) (f : Group → Group) : onlyGroup s (s.modG f) := ⟨rfl, fun _ h => setG_other s _ h⟩

/-- The frame of a change of the executing group that writes sd and moves on. -/
theorem scalarFrame_modG (s : State) (d : SReg) (v pc : Word) :
    scalarFrame d s (s.modG fun g => { (g.setS d v).issue s.now with spc := pc, sWait := none }) := by
  refine ⟨onlyGroup_modG .., fun _ => rfl, fun r h => ?_, ?_⟩
  · rw [modG_g]
    exact setS_sreg_ne s.g v h
  · rw [modG_g, setS_eq s.g d v]
    rfl

/-- What `writeNext` makes: one change of the executing group. -/
theorem writeNext_eq (s : State) (d : SReg) (v : Word) :
    s.writeNext d v = s.modG fun g => { (g.setS d v).issue s.now with spc := g.spc + 4, sWait := none } := by
  unfold State.writeNext State.nextPc
  rw [modG_modG]
  simp only [setS_spc]
  rfl

/-- A word whose meaning is `scalarResult` completes with its value in sd. -/
theorem scalarGives_of {i : Instr} {s : State} {d : SReg} {v : Word} (h : exec i s = scalarResult d v s) : scalarGives i s d v := by
  refine ⟨s.writeNext d v, h, ?_, ?_, ?_⟩
  · rw [writeNext_eq, modG_g]; exact setS_sreg s.g d v
  · rw [writeNext_eq, modG_g]
  · rw [writeNext_eq]
    exact scalarFrame_modG s d v (s.g.spc + 4)

/-- A word that jumps and writes no register. -/
theorem scalarJumps_of {i : Instr} {s : State} {v target : Word} (h : exec i s = .next (s.jump target)) :
    scalarJumps i s 0 v target := by
  refine ⟨_, h, rfl, ?_, ?_⟩
  · unfold State.jump; rw [modG_g]
  · exact scalarFrame_modG s 0 v target

/-- A word that jumps and writes sd. -/
theorem scalarJumps_link {i : Instr} {s : State} {d : SReg} {v target : Word}
    (h : exec i s = .next ((s.modG fun g => g.setS d v).jump target)) : scalarJumps i s d v target := by
  have e : (s.modG fun g => g.setS d v).jump target
      = s.modG fun g => { (g.setS d v).issue s.now with spc := target, sWait := none } := by
    unfold State.jump; rw [modG_modG]; rfl
  refine ⟨_, h, ?_, ?_, ?_⟩
  · rw [e, modG_g]; exact setS_sreg s.g d v
  · rw [e, modG_g]
  · rw [e]; exact scalarFrame_modG s d v target

end Sys2Proof.Laws
end

