-- ==== Sys2Proof/Laws/Trap.lean ====
section
/-! SUPPORT. What taking an exception, halting and freezing do: which parts of the module they touch. -/

namespace Sys2Proof.Laws

open Sys2Proof.Machine

/-- A trap, a halt or a freeze changes groups, grids, a core's walk, and the event queue; nothing else. -/
def trapFrame (s t : State) : Prop := t = { s with groups := t.groups, grids := t.grids, cores := t.cores, events := t.events }

/-- Such a change leaves every byte. -/
theorem trapFrame_byteAt {s t : State} (h : trapFrame s t) (a : Nat) : t.byteAt a = s.byteAt a := by rw [h]; rfl

theorem trapFrame_mem {s t : State} (h : trapFrame s t) : t.mem = s.mem := by rw [h]

theorem trapFrame_trans {s t u : State} (h : trapFrame s t) (k : trapFrame t u) : trapFrame s u := by
  unfold trapFrame at *
  rw [k]
  rw [h]

theorem trapFrame_setGroupAt (s : State) (core slot : Nat) (g : Group) : trapFrame s (s.setGroupAt core slot g) := rfl

theorem trapFrame_event (s : State) (e : MgmtEvent) : trapFrame s (s.event e) := rfl

theorem trapFrame_faultGrid (s : State) (g : Group) : trapFrame s (s.faultGrid g) := by
  unfold State.faultGrid
  repeat' split
  all_goals rfl

/-- The end of a walker's request. -/
theorem trapFrame_walkerTrap (s : State) : trapFrame s s.walkerTrap := by
  unfold State.walkerTrap
  dsimp only
  split <;> rfl

/-- Taking an exception, whatever its cause and its stream. -/
theorem trapFrame_trapEntry (s : State) (lane : Bool) (c : Cause) (i : TrapInfo) : trapFrame s (s.trapEntry lane c i) := by
  unfold State.trapEntry
  dsimp only
  split
  · exact trapFrame_walkerTrap s
  · split
    · exact trapFrame_trans (trapFrame_setGroupAt ..) (trapFrame_faultGrid ..)
    · split
      · exact trapFrame_trans (trapFrame_setGroupAt ..) (trapFrame_faultGrid ..)
      · exact trapFrame_setGroupAt ..

/-- A trap always answers a next state. -/
theorem trapScalar_next (s : State) (c : Cause) (va : Option Word) (prog : Word) :
    ∃ t, s.trapScalar c va prog = .next t ∧ trapFrame s t := ⟨_, rfl, trapFrame_trapEntry ..⟩

theorem trapLane_next (s : State) (c : Cause) (va : Option Word) (mask prog : Word) :
    ∃ t, s.trapLane c va mask prog = .next t ∧ trapFrame s t := ⟨_, rfl, trapFrame_trapEntry ..⟩

theorem trapFrame_haltGroup (s : State) (core slot : Nat) (lane : Bool) (epcl : Word) (b : Bad) :
    trapFrame s (s.haltGroup core slot lane epcl b) :=
  trapFrame_trans (trapFrame_trans (trapFrame_setGroupAt ..) (trapFrame_faultGrid ..)) (trapFrame_event ..)

theorem trapFrame_freezeGroup (s : State) (core slot acc : Nat) (va pa : Word) : trapFrame s (s.freezeGroup core slot acc va pa) :=
  trapFrame_trans (trapFrame_trans (trapFrame_setGroupAt ..) (trapFrame_faultGrid ..)) (trapFrame_event ..)

/-- PROTECTION always answers a next state. -/
theorem protection_next (s : State) (acc : Nat) (va pa : Word) : ∃ t, s.protection acc va pa = .next t ∧ trapFrame s t := by
  unfold State.protection
  split
  · exact ⟨_, rfl, trapFrame_walkerTrap s⟩
  · exact ⟨_, rfl, trapFrame_freezeGroup ..⟩

end Sys2Proof.Laws
end

