-- ==== Sys2Proof/Tests/Slice0.lean ====
section
/-! SUPPORT. Tests: ill-formed terms, words of the manual, one step on small states, and the witnesses of the statements. -/

namespace Sys2Proof.Tests

open Sys2Proof.Machine

set_option Elab.async false

/-! ### Ill-formed terms, one for each check of WellFormed -/

/-- An L3 word with a register consumer and every other field zero, and one without a result. -/
def w3 : L3 := ⟨0, 0, 0, 0, 0, 0, 0, 0, 1, 0, .f32, 0, 0⟩
def n3 : L3 := ⟨0, 0, 0, 0, 0, 0, 0, 0, 0, 0, .f32, 0, 0⟩
/-- A global load and a global store. -/
def ld : LM := ⟨0, 0, 0, 0, 0, 0, 1, 0, 1, 0, .b32, 0⟩
def sto : LM := ⟨0, 0, 0, 0, 0, 0, 1, 0, 0, 0, .b32, 0⟩
def slot : Slot := ⟨3, 1, 2, 0⟩
def na : NA := ⟨0, 0, 0, 0, .f32, 0, 0⟩
def nm : NM := ⟨0, 0, .f32, 0, 0⟩
def nc : NC := ⟨0, 0, 0, .f32, 0, 0, 0⟩

theorem test_illformed_float : Instr.wf (.fadd w3) = true ∧ Instr.wf (.fadd { w3 with vc := 1 }) = false
    ∧ Instr.wf (.fadd { w3 with ty := .s32 }) = false ∧ Instr.wf (.fadd { w3 with vd := 640 }) = false
    ∧ Instr.wf (.fadd { w3 with va := 661 }) = false ∧ Instr.wf (.fadd { w3 with cmask := 0 }) = false
    ∧ Instr.wf (.fadd { w3 with route := 1 }) = false ∧ Instr.wf (.fsub { w3 with aux := 1 }) = false
    ∧ Instr.wf (.fmul { w3 with mods := 0x10 }) = false ∧ Instr.wf (.ffma { w3 with vc := 663 }) = false
    ∧ Instr.wf (.fcmp { w3 with aux := 1 }) = false ∧ Instr.wf (.fcmp { w3 with vd := 1, aux := 8 }) = false
    ∧ Instr.wf (.fsel { w3 with aux := 16 }) = false ∧ Instr.wf (.fclass { w3 with clamp := 1 }) = false
    ∧ Instr.wf (.ftrunc { w3 with aux := 1 }) = false ∧ Instr.wf (.fround { w3 with aux := 3 }) = false := by decide
theorem test_illformed_functions : Instr.wf (.apply { w3 with aux := 16 }) = false ∧ Instr.wf (.apply2 { w3 with ty := .f16 }) = false
    ∧ Instr.wf (.osmax { w3 with vb := 1 }) = false ∧ Instr.wf (.osnorm { w3 with aux := 256 }) = false
    ∧ Instr.wf (.sample { w3 with ty := .f32 }) = false ∧ Instr.wf (.rand { w3 with ty := .z32, aux := 3 }) = false := by decide
theorem test_illformed_integer : Instr.wf (.iadd { w3 with ty := .s32, clamp := 1 }) = false
    ∧ Instr.wf (.iadd { w3 with ty := .s32, dscale := 1 }) = false ∧ Instr.wf (.imulh { w3 with ty := .s16 }) = false
    ∧ Instr.wf (.imin { w3 with ty := .s8, clamp := 3 }) = false ∧ Instr.wf (.laneAnd { w3 with ty := .s32 }) = false
    ∧ Instr.wf (.laneSar { w3 with ty := .b32 }) = false ∧ Instr.wf (.bfx { w3 with ty := .s32, aux := 32 + 64 * 31 }) = false
    ∧ Instr.wf (.isel { w3 with ty := .b32, aux := 16 }) = false ∧ Instr.wf (.icmp { w3 with ty := .s32, vd := 1, aux := 6 }) = false
    ∧ Instr.wf (.movi { w3 with va := 1 }) = false ∧ Instr.wf (.iadd { w3 with ty := .s64, cmask := 3 }) = false := by decide
theorem test_illformed_conversions : Instr.wf (.cvt { w3 with aux := 14 }) = false ∧ Instr.wf (.cvt { w3 with ty := .s8, clamp := 1 }) = false
    ∧ Instr.wf (.qblk { w3 with ty := .e4m3, aux := 16 }) = false ∧ Instr.wf (.dqblk { w3 with aux := 0 }) = false
    ∧ Instr.wf (.fkey { w3 with ty := .s32 }) = false := by decide
theorem test_illformed_exchanges : Instr.wf (.xbfly { w3 with ty := .b32, aux := 3 }) = false
    ∧ Instr.wf (.xperm { w3 with ty := .s32 }) = false ∧ Instr.wf (.xbcast { w3 with ty := .b32, aux := 64 }) = false
    ∧ Instr.wf (.xscan { w3 with ty := .f32, aux := 3 }) = false ∧ Instr.wf (.xred { w3 with ty := .s32, aux := 6 }) = false
    ∧ Instr.wf (.vote { w3 with ty := .b32, vd := 1, aux := 3 }) = false ∧ Instr.wf (.lret { n3 with aux := 2 }) = false
    ∧ Instr.wf (.mand { w3 with vd := 1, mreg := 1 }) = false ∧ Instr.wf (.mnot { w3 with vd := 0 }) = false
    ∧ Instr.wf (.mpop { w3 with ty := .z32, va := 16 }) = false := by decide
theorem test_illformed_control : Instr.wf (.ifWord { n3 with aux := 16 }) = false ∧ Instr.wf (.nmfence { n3 with look := 1 }) = false
    ∧ Instr.wf (.exmr { w3 with vd := 0 }) = false ∧ Instr.wf (.endifWord { n3 with vd := 1 }) = false
    ∧ Instr.wf (.rpf { n3 with vd := 500, aux := 0xFFE }) = true ∧ Instr.wf (.rpf { n3 with va := 1, aux := 0xFF8 }) = false
    ∧ Instr.wf (.accrd { w3 with aux := 4 }) = false ∧ Instr.wf (.accwr { w3 with cmask := 1 }) = false := by decide +kernel
theorem test_illformed_lane_memory : Instr.wf (.vld { ld with ty := .e2m1 }) = false ∧ Instr.wf (.vld { ld with path := 4 }) = false
    ∧ Instr.wf (.vld { ld with scope := 1 }) = false ∧ Instr.wf (.vst { sto with cmask := 1 }) = false
    ∧ Instr.wf (.vldv { ld with ty := .s64 }) = false ∧ Instr.wf (.vstv { sto with aux := 12 }) = false
    ∧ Instr.wf (.vldm { ld with vd := 639, aux := 1 }) = false ∧ Instr.wf (.vstm { sto with aux := 512 }) = false
    ∧ Instr.wf (.vatom { ld with aux := 8, ty := .f32, path := 3 }) = false ∧ Instr.wf (.vatom { sto with aux := 0 }) = false
    ∧ Instr.wf (.vatomv { sto with ty := .s32, aux := 6 }) = false ∧ Instr.wf (.vpref { sto with aux := 1 }) = false
    ∧ Instr.wf (.nmatom { sto with ty := .f32 }) = false := by decide +kernel
theorem test_illformed_pair : Instr.wf (.pairFaddF32 ⟨slot, none, 1, 0⟩) = false
    ∧ Instr.wf (.pairFaddF32 ⟨slot, some (.mov, slot), 0, 0⟩) = false ∧ Instr.wf (.pairShlB32 ⟨{ slot with mods := 1 }, 0, 0⟩) = false
    ∧ Instr.wf (.pairXbflyB32 ⟨{ slot with vb := 3 }, 0, 0⟩) = false ∧ Instr.wf (.pairIaddS32 ⟨slot, 1, 0⟩) = false := by decide
theorem test_illformed_near_memory : Instr.wf (.nfadd { na with wc := 1 }) = false ∧ Instr.wf (.nfma { na with sub := 2 }) = false
    ∧ Instr.wf (.napply { na with ty := .f16 }) = false ∧ Instr.wf (.ncvt { na with imm := 0 }) = false
    ∧ Instr.wf (.nscale { na with imm := 512 }) = false ∧ Instr.wf (.nmov { na with wb := 1 }) = false
    ∧ Instr.wf (.niadd na) = false ∧ Instr.wf (.ncmp { na with sub := 8 }) = false ∧ Instr.wf (.nsel { na with imm := 1 }) = false
    ∧ Instr.wf (.nld { nm with sub := 16 }) = false ∧ Instr.wf (.natom { nm with sub := 24 }) = false
    ∧ Instr.wf (.nlock { nm with wd := 1 }) = false ∧ Instr.wf (.nsignal { nm with off := 0x100000 }) = false
    ∧ Instr.wf (.nwait nm) = false ∧ Instr.wf (.nloopSet { nc with off := 1 }) = false ∧ Instr.wf (.nloopStep nc) = false
    ∧ Instr.wf (.nbr { nc with cond := 6 }) = false ∧ Instr.wf (.nend { nc with cnt := 1 }) = false := by decide

/-! ### Words of the manual -/

/-- Scalar words, printed with the entries of 11_scalar_ref.md and in 02_words.md and 07_ordering.md. -/
theorem test_words_scalar : decodeTableWord 32 0x18410003 = some (.shli 4 4 3) ∧ decodeTableWord 32 0x4452A000 = some (.ldz 5 10 .w 0)
    ∧ decodeTableWord 32 0x48826000 = some (.st 8 9 .w 0) ∧ decodeTableWord 32 0x4C524804 = some (.satomW 5 9 8 .add 4)
    ∧ decodeTableWord 32 0x88428000 = some (.movk 4 10) ∧ decodeTableWord 32 0x8CC00000 = some (.spop 12)
    ∧ decodeTableWord 32 0x90000028 = some (.regroup 40) ∧ decodeTableWord 32 0xA0500000 = some (.bar 5)
    ∧ decodeTableWord 32 0xA0000001 = some (.bararrive 0) ∧ decodeTableWord 32 0xA0500002 = some (.barwait 5)
    ∧ decodeTableWord 32 0xA4000004 = some (.fence 4) ∧ decodeTableWord 32 0xA4000021 = some (.fenceAcq 1)
    ∧ decodeTableWord 32 0xA4000046 = some (.fenceRel 6) ∧ decodeTableWord 32 0xB0014001 = some (.sleep 5)
    ∧ decodeTableWord 32 0xB8000002 = some (.racq .r128) := by decide
theorem test_words_engines : decodeTableWord 32 0xC0020000 = some (.mloop 8) ∧ decodeTableWord 32 0xC4030000 = some (.mstore 12)
    ∧ decodeTableWord 32 0xCC500000 = some (.mfence 5) ∧ decodeTableWord 32 0xD0014000 = some (.mwait 5)
    ∧ decodeTableWord 32 0xD4518700 = some (.bfqpost 5 6 7) ∧ decodeTableWord 32 0xD8014000 = some (.bfqwait 5)
    ∧ decodeTableWord 32 0xE1460001 = some (.copy 20 24) ∧ decodeTableWord 32 0xE1570002 = some (.gather 21 28)
    ∧ decodeTableWord 32 0xE4014601 = some (.jrnlAdd 5 6) ∧ decodeTableWord 32 0xE4014002 = some (.jrnlCommit 5)
    ∧ decodeTableWord 32 0xE4014003 = some (.jrnlDrop 5) ∧ decodeTableWord 32 0xBC518000 = some (.tlaunch 5 6)
    ∧ decodeTableWord 32 0xF4500000 = some (.csrr 5 0x000) ∧ decodeTableWord 32 0xF4011010 = some (.csrw 4 0x010) := by decide
/-- Lane words, printed in 12_lane_arith_ref.md, 13_lane_mem_ref.md and the worked programs. -/
theorem test_words_lane : decodeTableWord 96 0x8000600C00000000040C0000 = some (.cvt { w3 with vd := 6, va := 3, ty := .e4m3 })
    ∧ decodeTableWord 96 0xA002000010000000_44380050 = some (.xbfly { w3 with vd := 32, vb := 16, look := 1, ty := .b32, aux := 0x50 })
    ∧ decodeTableWord 96 0xA0C14020_00000000_84300318 = some (.xscan { w3 with vd := 20, va := 8, look := 2, ty := .z32, aux := 0x318, cmask := 1 })
    ∧ decodeTableWord 96 0x8040A00C_00000000_04140010 = some (.qblk { w3 with vd := 10, va := 3, ty := .e2m1, aux := 0x10 })
    ∧ decodeTableWord 96 0x0400400C_00000000_04000002 = some (.apply { w3 with vd := 4, va := 3, aux := 2 })
    ∧ decodeTableWord 96 0x06406020_00000000_04000002 = some (.osmerge { w3 with vd := 6, va := 8, aux := 2 })
    ∧ decodeTableWord 96 0xA1C000A8_00000000_00380000 = some (.lret { n3 with va := 42, ty := .b32 })
    ∧ decodeTableWord 96 0xE0000000_00000000_00000001 = some (.ifWord { n3 with aux := 1 })
    ∧ decodeTableWord 96 0xE1802000_00000000_04000000 = some (.exmr { w3 with vd := 2 })
    ∧ decodeTableWord 96 0xC4800000_00000000_00000000 = some (.nmfence n3) := by decide
theorem test_words_lane_memory : decodeTableWord 96 0xC001A1A7_00080020_44000000 = some (.vld { ld with vd := 26, kb := 1, vo := 668, imm := 32, look := 1, ty := .f32 })
    ∧ decodeTableWord 96 0xC1C14701_A0000000_00300000 = some (.vatomv { sto with vd := 20, kb := 7, vo := 6, scl := 2, ty := .z32, path := 0 })
    ∧ decodeTableWord 96 0xC44019A7_000000A0_00000000 = some (.nmatom { sto with vd := 1, kb := 9, vo := 668, path := 5, ty := .f32 }) := by decide
/-- Near-memory words of the worked update of 13_lane_mem_ref.md. -/
theorem test_words_near_memory : decodeTableWord 64 0x3008000000000000 = some (.nlock { nm with bslot := 2 })
    ∧ decodeTableWord 64 0x3800000000020000 = some (.nloopSet { nc with cnt := 2 })
    ∧ decodeTableWord 64 0x0444000F00000000 = some (.nld { nm with wd := 1, bslot := 1, sub := 15 })
    ∧ decodeTableWord 64 0x0800000F00000000 = some (.nst { nm with sub := 15 })
    ∧ decodeTableWord 64 0x4000000000000000 = some (.nend nc) := by decide

/-! ### Steps -/

/-- The state after reset with an instruction placed where the next step fetches. -/
def placed (n w : Nat) : State := State.reset.withFetchWord n w

/-- Team 0 of grid 0 with its one group in slot 0 of core 0. -/
def teamOf1 : Team := ⟨0, 0, 0, 0, 1, [0], 0, 0, ⟨0, []⟩, ⟨0, []⟩, [], [], [], 0, 0, false, none, false, []⟩

theorem test_encode_witness : Instr.wf (.divz 7 8 9) = true ∧ encode (.divz 7 8 9) ≠ .event := by decide +kernel
theorem test_decode_scalar_witness : decodeScalar 0x00720906 = .instr (.divz 7 8 9) := by decide +kernel
theorem test_decode_lane_witness : decodeLane 0xE00000000000000000000001 = .instr (.ifWord { n3 with aux := 1 }) := by decide +kernel
theorem test_decode_near_memory_witness : decodeNm 0x4000000000000000 = .instr (.nend nc) := by decide +kernel
theorem test_step_scalar_witness : let s := placed 32 0x00720906
    let s0 := s.begin.atGroup 0 0
    let s1 : State := { s0 with cur := { s0.cur with stream := .scalar, src := .stream, mreg := 0 } }
    s.move.who = .scalar 0 0 ∧ s.inReset = false ∧ s0.mayIssue = true ∧ s0.g.exiting = false ∧ s0.g.stopped = false ∧ s0.g.awaitsAtomic = false
      ∧ s0.goesFirst s0.scalarReady = true
      ∧ s1.fetch = (s1, .word 0x00720906) ∧ decodeBits 32 0x00720906 = .instr (.divz 7 8 9) := by decide +kernel
theorem test_step_older_witness : let s := (placed 32 0x00720906).modG fun g => { g with age := 5 }
    let s1 := s.setGroupAt 0 1 { s.g with age := 3 }
    let s2 := s.setGroupAt 0 1 { s.g with age := 9, starved := some 4 }
    let s0 := s1.begin.atGroup 0 0
    let s3 := s2.begin.atGroup 0 0
    s1.move.who = .scalar 0 0 ∧ s1.inReset = false ∧ (s0.groupAt 0 1).st = .active ∧ s0.cur.unready.getLsbD 1 = false
      ∧ s0.classLets (s0.groupAt 0 1) = true ∧ s0.scalarReady (s0.groupAt 0 1) = true ∧ (s0.groupAt 0 1).age < s0.g.age
      ∧ s3.classLets (s3.groupAt 0 1) = true ∧ s3.scalarReady (s3.groupAt 0 1) = true ∧ (s3.groupAt 0 1).starved ≠ none
      ∧ s3.g.starved = none := by decide +kernel
theorem test_step_lane_witness : let s := placed 96 0xE00000000000000000000001
    let s0 := s.begin.atGroup 0 0
    let b : Block := ⟨0, 1, [], 0⟩
    let s1 := (s0.setG s0.g).atLane (s0.g.wordAt s0.g.lpc b.k) .stream
    s.move.who = .lane 0 0 ∧ s.inReset = false ∧ s0.mayIssue = true ∧ s0.goesFirst s0.laneWordReady = true ∧ s0.g.stopped = false ∧ s0.g.abandoned = [] ∧ s0.g.run = some b
      ∧ s0.g.lpc ≠ b.stop ∧ s1.fetch = (s1, .word 0xE00000000000000000000001)
      ∧ decodeBits 96 0xE00000000000000000000001 = .instr (.ifWord { n3 with aux := 1 }) := by decide +kernel
theorem test_step_near_memory_witness : let s := placed 64 0x4000000000000000
    let s0 := s.begin.atSdue 0 0
    let s1 : State := { s0 with cur := { s0.cur with stream := .sdue, mreg := 0 } }
    s.move.who = .sdue 0 0 ∧ s.inReset = false ∧ s0.prog? = some fetchProg ∧ fetchProg.pageReq = none ∧ fetchProg.loaded = true
      ∧ fetchProg.count < 2 ^ 32 ∧ s1.fetch = (s1, .word 0x4000000000000000)
      ∧ decodeBits 64 0x4000000000000000 = .instr (.nend nc) := by decide +kernel
/-- The kernel runs the placed word: ADDI s5, s0, 7. -/
theorem test_step_addi : (match step (placed 32 0x08500007) with | .next t => (t.groupAt 0 0).sreg 5 | _ => 0) = 7 := by decide +kernel
theorem test_absent_unit : (∃ s : State, s.move.who = .scalar 2048 0 ∧ step s = .fault .noSuchUnit) :=
  ⟨{ State.reset with moves := [⟨0, .scalar 2048 0, 0, false, 0, []⟩] }, rfl, rfl⟩

/-- The group of slot 0 of core 0, its scalar word at `pc` translated as `placed` leaves it. -/
def atPc (pc : Word) : State :=
  let s := (placed 32 0).modG fun g => { g with spc := pc }
  { s with cur := { s.cur with stream := .scalar } }

theorem test_fetch_witness : (atPc 0).cur.stream = .scalar ∧ (atPc 0).g.mode ≠ .walker ∧ (atPc 65532).g.spc.toNat % 65536 ≤ 65532
    ∧ (atPc 65532).translate (atPc 65532).streamWho 3 65532 = (atPc 65532, .ok 65532 0)
    ∧ (atPc 65532).heldFor 65532 4 = false ∧ (atPc 65532).checkRead 65532 4 = (atPc 65532, none) := by decide +kernel
theorem test_fetch_fault_witness : (atPc 0x100000000000000).translate (atPc 0x100000000000000).streamWho 3 0x100000000000000
      = (atPc 0x100000000000000, .fault 6 0)
    ∧ (atPc 0x100000000000000).fetch = (atPc 0x100000000000000, .fault 6 0 0x100000000000000)
    ∧ ({ State.reset with cur := { State.reset.cur with stream := .lane } } : State).cur.stream = .lane := by decide +kernel
theorem test_fetch_fault_lane_witness :
    let s : State := (atPc 0).atLane ⟨0x100000000000000, 1, 0x200, [], 0, none, 0, false, none, none, none, none⟩ .stream
    s.cur.stream = .lane ∧ s.fetch = (s, .fault 6 0 0x100000000000000) := by decide +kernel
theorem test_fetch_fault_sdue_witness :
    let s0 := placed 64 0
    let s : State := { s0 with
      cur := { s0.cur with stream := .sdue }
      hbmStacks := [(0, { Stack.init with sdue := [(0, { fetchProg with npc := 0x100000000000000 })] })] }
    s.cur.stream = .sdue ∧ s.fetch = (s, .fault 6 0 0x100000000000000) := by decide +kernel
theorem test_fetch_walker_witness : let s := { atPc 0 with groups := [(0, { fetchGroup false with status := 2 })] }
    s.cur.stream = .scalar ∧ s.g.mode = .walker := by decide +kernel

/-- A state in which slot 0 of core 0 executes with some scalar registers. -/
def withS (l : Store Word) : State :=
  { State.reset with groups := [(0, { Group.init with s := l, st := .active, em := 0xFFFFFFFF, spc := 0x1000 })] }

theorem test_div_corner : (match exec (.div 3 1 2) (withS [(1, 0x8000000000000000), (2, 0xFFFFFFFFFFFFFFFF)]) with
    | .next t => t.g.sreg 3 | _ => 0) = 0x8000000000000000 := by decide +kernel
theorem test_rem_corner : (match exec (.rem 3 1 2) (withS [(1, 0x8000000000000000), (2, 0xFFFFFFFFFFFFFFFF)]) with
    | .next t => t.g.sreg 3 | _ => 1) = 0 := by decide +kernel
theorem test_divz_zero : (match exec (.divz 3 1 2) (withS [(1, 5)]) with | .next t => t.g.sreg 3 | _ => 0) = 0xFFFFFFFFFFFFFFFF := by
  decide +kernel
theorem test_aligned_target : 4 ∣ ((withS [(1, 0x2000), (62, 0x2004)]).g.sreg 1).toNat
    ∧ 4 ∣ ((withS [(1, 0x2000), (62, 0x2004)]).g.sreg 62).toNat
    ∧ ¬ 4 ∣ ((withS [(1, 0x2002), (62, 0x2001)]).g.sreg 1).toNat ∧ ¬ 4 ∣ ((withS [(1, 0x2002), (62, 0x2001)]).g.sreg 62).toNat := by decide

/-! ### Scalar memory -/

/-- A user group of slot 0 of core 0 with its page 0 translated to frame 0. -/
def memS (l : Store Word) (slim : Word) : State :=
  let s := placed 32 0
  s.modG fun g => { g with s := l, slimS := slim }

theorem test_load_witness : (let s := memS [(1, 0x100)] 0
    scalarAccessOk s s (scalarAcc s 1 .w 4 0) ⟨false, false⟩ 0x104 0 ∧ s.checkAt (s.sources s.g.team 0x104 0x104 4) = (s, none)) := by
  unfold scalarAccessOk scalarChecksOk; decide +kernel
theorem test_load_stack_witness : (let s := memS [(63, 0x100)] 0x100
    scalarAccessOk s s (scalarAcc s 63 .d 0 0) ⟨false, false⟩ 0x100 0) := by unfold scalarAccessOk scalarChecksOk; decide +kernel
theorem test_load_bad_witness : (let s : State := { memS [(1, 0x100)] 0 with marks := [(0x100, .of .poisoned)] }
    scalarAccessOk s s (scalarAcc s 1 .w 4 0) ⟨false, false⟩ 0x104 0
      ∧ (s.checkAt (s.sources s.g.team 0x104 0x104 4)).2 = some .poison) := by unfold scalarAccessOk scalarChecksOk; decide +kernel
theorem test_store_witness : (let s := memS [(1, 0x100)] 0
    scalarAccessOk s s (scalarAcc s 1 .d 0 1) ⟨false, false⟩ 0x100 0 ∧ s.g.full .glb = false ∧ s.inCommit s.g = false ∧ s.cur.late = 0) := by
  unfold scalarAccessOk scalarChecksOk; decide +kernel
/-- An access of the scalar stream to eight bytes that has not performed. -/
def outstanding (g : Group) (x : MemAct) : Access :=
  { newAccess .glb g.scalarSpot ⟨false, false⟩ 0 [] with todo := [⟨0, 0, 0x100, 0x100, 8, x, 0⟩] }
/-- A store that an outstanding load of the same bytes holds back, and one that the move leaves outstanding. -/
theorem test_store_held_witness : (let s := (memS [(1, 0x100)] 0).modG fun g => g.track (outstanding g (.store (List.replicate 8 1)))
    scalarChecksOk s s (scalarAcc s 1 .d 0 1) 0x100 0 ∧ s.g.full .glb = false ∧ s.inCommit s.g = false
      ∧ s.mayPerform s.g s.g.inflight s.g.scalarSpot ⟨false, false⟩ 0x100 8 true = false)
    ∧ ({ Cur.init with late := 1 } : Cur).late.getLsbD 0 = true := by unfold scalarChecksOk; decide +kernel
theorem test_atomic_witness : (let s := memS [(1, 0x100)] 0
    scalarAccessOk s s ⟨0x100, 4, 2, false⟩ ⟨true, true⟩ 0x100 0
      ∧ scalarAccessOk s s ⟨0x100, 8, 2, false⟩ ⟨true, true⟩ 0x100 0 ∧ s.checkRead 0x100 8 = (s, none)
      ∧ (({ s with marks := [(0x100, .of .poisoned)] } : State).checkRead 0x100 8).2 = some .poison
      ∧ (({ s with marks := [(0x100, .of .poisoned)] } : State).checkRead 0x100 4).2 = some .poison) := by
  unfold scalarAccessOk scalarChecksOk; decide +kernel
theorem test_outstanding_witness : (let s (x : MemAct) := (memS [] 0).modG fun g => g.track (outstanding g x)
    let free (x : MemAct) := (s x).mayPerform (s x).g ((s x).g.inflight.take 0) ⟨false, 0, [], []⟩ ⟨false, false⟩ 0x100 8 x.writes
    free (.store (List.replicate 8 1)) = true ∧ free (.load .z32 3 2) = true ∧ free (.satom .add 8 1 0 3) = true
      ∧ free (.rmw .add .z32 false 1 0 0 none) = true
      ∧ (s (.load .z32 3 2)).todoLocked (outstanding (s (.load .z32 3 2)).g (.load .z32 3 2)) ⟨0, 0, 0x100, 0x100, 8, .load .z32 3 2, 0⟩ = false
      ∧ (({ s (.load .z32 3 2) with marks := [(0x100, .of .poisoned)] } : State).checkAt (addrs 0x100 8)).2 = some .poison
      ∧ (s (.load .z32 3 2)).checkAt ((s (.load .z32 3 2)).sources 0 0x100 0x100 8) = (s (.load .z32 3 2), none)
      ∧ (s (.satom .add 8 1 0 3)).checkRead 0x100 8 = (s (.satom .add 8 1 0 3), none)
      ∧ (let h : State := { s (.store []) with hbmStacks := [(0, { Stack.init with rows := [(0, 1)] })] }
         h.mayPerform h.g [] ⟨false, 0, [], []⟩ ⟨false, false⟩ 0x100 8 true = false)) := by decide +kernel

/-- A team of a grid whose descriptor sets COMMIT with a window of `w` bytes. -/
def commitS (w : Nat) : State :=
  let s := memS [(1, 0x100)] 0
  let x : Grid := ⟨0, 0, 0, BitVec.ofNat 512 (2 ^ 13 + w * 2 ^ 256), 1, 0, 0, none, 0, [], [], 0, 0, [], [], none, false⟩
  { s with teams := [(0, teamOf1)], grids := [(0, x)] }

theorem test_commit_store_witness : (let s := commitS 288
    scalarAccessOk s s (scalarAcc s 1 .d 0 1) ⟨false, false⟩ 0x100 0 ∧ s.inCommit s.g = true ∧ (s.team? s.g.team).isSome ∧ s.marks = []
      ∧ overflowLine [] (s.windowRoom s.g) [(0x100, 8)] = none) := by unfold scalarAccessOk scalarChecksOk; decide +kernel
theorem test_commit_overflow_witness : (commitS 0).inCommit (commitS 0).g = true
    ∧ overflowLine [] ((commitS 0).windowRoom (commitS 0).g) [(0x100, 8)] = some 0x100 := by decide +kernel

theorem test_access_traps_witness : (memS [(1, 0x101), (63, 0x100), (2, 0xFF00000000000000)] 0x200).g.mode ≠ .walker
    ∧ (memS [(1, 0x101)] 0).lockAddr 0 0 false 0x101 4 false = none ∧ (0x101 : Nat) % 4 ≠ 0
    ∧ (0x100 : Word) < (memS [(63, 0x100)] 0x200).g.slimS
    ∧ (let s := memS [(2, 0xFF00000000000000)] 0; s.translate s.scalarWho 0 0xFF00000000000000 = (s, .fault 6 0))
    ∧ (commitS 288).inCommit (commitS 288).g = true
    ∧ ((memS [] 0).modG fun g => { g with inflight := List.replicate 63 (newAccess .glb g.scalarSpot ⟨false, false⟩ 0 []) }).g.full .glb = true := by
  decide +kernel
theorem test_range_lock_witness : (let s : State := { memS [] 0 with dies := [(0, { Die.init with locks := [⟨0, false, 2, 64, true, 1⟩] })] }
    s.lockAddr 0 0 false 0 4 false = some 2) := by decide +kernel
/-- A page of another context's frame: the root lies outside the ranges of the context. -/
theorem test_protection_witness : (let s : State := { (memS [] 0) with cores := [] }; (s.translate s.scalarWho 0 0).2) = .protect 0 := by
  decide +kernel
/-- A page whose leaf names the tier, and one that names host memory. -/
theorem test_tier_witness : (let s (loc : Nat) : State := { (memS [] 0) with
      cores := [(0, { Core.init with tlb := [⟨0, 0, 16, BitVec.ofNat 64 (0xF3 + loc * 2 ^ 14)⟩] })] }
    ((s 1).translate (s 1).scalarWho 0 0).2 = .ok 0 1 ∧ (match ((s 3).translate (s 3).scalarWho 0 0).2 with | .ok _ l => l | _ => 0) = 3) := by
  decide +kernel

/-! ### Traps and the system words -/

/-- A group of slot 0 of core 0 in some mode, in a context whose HANDLER is 0x8000 and whose HLBASE is 0x9000. -/
def sysS (status : Word) (l : Store Word) : State :=
  { (withS l) with
    groups := [(0, { Group.init with s := l, st := .active, em := 1, spc := 0x1000, status := status })]
    cores := [(0, { Core.init with desc := [(0, BitVec.ofNat 1024 (0x8000 * 2 ^ 128 + 0x9000 * 2 ^ 192 + 2 ^ 21))] })] }

theorem test_handled_witness : handled (sysS 0 []) ∧ (Cause.software = .commitOverflow → (sysS 0 []).inReplay (sysS 0 []).g = false)
    ∧ swf (0 : Word) (sysS 0 []).g.s = true ∧ (sysS 0 []).g.spc.extractLsb' 0 2 = 0 := by
  unfold handled; decide +kernel
theorem test_commit_overflow_handled_witness : handled (sysS 0 []) ∧ (sysS 0 []).inReplay (sysS 0 []).g = false := by
  unfold handled; decide +kernel
/-- TRAP s5 (R321): EPCS is the trap's own address, FAULTVA the value of s5. -/
theorem test_trap : (match exec (.trap 5) (sysS 0 [(5, 0x77)]) with
    | .next t => (t.g.spc, t.g.epcs, t.g.faultva, t.g.cause, t.g.em) | _ => (0, 0, 0, 0, 0)) = (0x8000, 0x1000, 0x77, 0x38, 1) := by decide +kernel
theorem test_group_ending_witness : (sysS 1 []).g.mode ≠ .walker ∧ (sysS 1 []).g.mode = .supervisor ∧ (sysS 1 []).g.joined = true
    ∧ (withS []).g.mode ≠ .walker ∧ handlerOf ((withS []).descOn 0 0) = 0 := by decide +kernel
theorem test_exit_complete_witness : (match exec .gexit (sysS 1 []) with
    | .next t => t.groupAt 0 0 == t.g && t.drained 0 t.g && t.g.live && !t.g.nmPoison | _ => false) = true := by decide +kernel
theorem test_stack_bound_witness : (let s := memS [(63, 0x100)] 0x200
    s.g.mode ≠ .walker ∧ reachesChecks s (scalarAcc s 63 .w 0 1) ∧ (scalarAcc s 63 .w 0 1).addr < s.g.slimS
      ∧ s.rangeLocked 0 0 false 0x100 4 true = false) := by unfold reachesChecks; decide +kernel
/-- Below SLIM with a base other than s63. -/
theorem test_no_stack_bound_witness : (let s := memS [(1, 0x100)] 0x200
    reachesChecks s (scalarAcc s 1 .w 0 1) ∧ (scalarAcc s 1 .w 0 1).addr < s.g.slimS ∧ s.cur.late = 0 ∧ s.inCommit s.g = false
      ∧ scalarAccessOk s s (scalarAcc s 1 .w 0 1) ⟨false, false⟩ 0x100 0 ∧ scalarAccessOk s s (scalarAcc s 1 .w 0 0) ⟨false, false⟩ 0x100 0
      ∧ s.checkAt (s.sources s.g.team 0x100 0x100 4) = (s, none)) := by
  unfold reachesChecks scalarAccessOk scalarChecksOk; decide +kernel

/-- The handler's state after TRAP in the state above, at its first word. -/
def inHandler (prog : Word) : State := ((sysS 0 [(5, 0x77), (9, 9)]).trapEntry false .software ⟨some 0, 0, prog⟩)

theorem test_eret_witness : (inHandler 0).g.mode = .supervisor ∧ (inHandler 0).g.faultprog.extractLsb' 24 2 = 0
    ∧ (inHandler 0).g.epcs.extractLsb' 0 2 = 0 ∧ (inHandler 0).g.joined = true
    ∧ (match (inHandler 0).g.shadow with
        | some h => (h.s.all fun p => decide (1 ≤ p.1 ∧ p.1 ≤ 7)) && swf (0 : Word) h.s && decide ((inHandler 0).g.epcl = h.epcl)
        | none => false) = true := by decide +kernel
theorem test_eret_rewritten_witness :
    let t := ((sysS 0 []).trapEntry true .pageFault ⟨some 0, 3, 0⟩).modG fun g => { g with epcl := 0x5000 }
    t.g.mode = .supervisor ∧ t.g.joined = true
      ∧ (match t.g.shadow with | some h => h.laneTrap && decide (t.g.epcl ≠ h.epcl) | none => false) = true := by decide +kernel
theorem test_eret_corners_witness : (sysS 0 []).g.mode = .user ∧ (inHandler 0x3000000).g.faultprog.extractLsb' 24 2 = 3
    ∧ (let s := (sysS 1 []).modG fun g => { g with epcs := 2 }
       s.g.mode = .supervisor ∧ s.g.faultprog.extractLsb' 24 2 ≠ 3 ∧ s.g.epcs.extractLsb' 0 2 ≠ 0) := by decide +kernel
/-- ERET with REQ 1: a walk that a held row stops is left to the replay, an address that is not canonical finds no frame. -/
theorem test_eret_touch_witness :
    let s : State := { inHandler 0x1000000 with ctxs := [(0, { Ctx.init with ranges := 2 ^ 36 })], hbmStacks := [(0, { Stack.init with rows := [(0, 0)] })] }
    let u := s.modG fun g => { g with faultva := 0x100000000000000 }
    s.g.mode = .supervisor ∧ s.g.faultprog.extractLsb' 24 2 = 1 ∧ s.g.epcs.extractLsb' 0 2 = 0 ∧ s.g.joined = true ∧ s.g.shadow.isSome
      ∧ ((s.modG Group.passJoin).firstTouch 0 0 0 s.g.faultva.toNat).2 = .valid
      ∧ ((u.modG Group.passJoin).firstTouch 0 0 0 u.g.faultva.toNat).2 = .noFrame
      ∧ (inHandler 0x2000000).g.faultprog.extractLsb' 24 2 = 2
      ∧ (s.modG fun g => { g with lq := [.block ⟨0, 1, [], 0⟩] }).g.joined = false := by decide +kernel
theorem test_csr_witness : (sysS 1 [(4, 0x1377)]).g.mode = .supervisor ∧ csrKnown 0x010 = true ∧ csrKnown 0x020 = true
    ∧ csrRefuses 0x010 0x200 = false ∧ csrRefuses 0x100 0x1000 = false ∧ csrRefuses 0x010 7 = true
    ∧ (0x010 : BitVec 12).toNat ∈ [0x000, 0x010, 0x011, 0x012, 0x013, 0x014, 0x020]
    ∧ (0x007 : BitVec 12).toNat ∉ [0x000, 0x001, 0x002, 0x003, 0x004, 0x005, 0x006, 0x010, 0x011, 0x012, 0x013, 0x014, 0x020, 0x100, 0x101]
    ∧ ((sysS 1 [(4, 7)]).g.sreg 4).extractLsb' 0 3 = 7 ∧ ((sysS 1 [(4, 1023)]).g.sreg 4).toNat < 1024
    ∧ ((sysS 1 [(4, 256)]).g.sreg 4).toNat = 256 := by decide +kernel
theorem test_queued_effects_witness : fmtOk ((withS [(1, 0x1345)]).g.sreg 1) = true ∧ fmtOk ((withS [(1, 6)]).g.sreg 1) = false
    ∧ (∀ x ∈ (withS []).g.lq, ∀ y z w, x ≠ .fswitch y z w)
    ∧ ((withS []).modG fun g => { g with lq := [.csr .fmt 1, .fswitch 0 0 1] }).g.lq = .csr .fmt 1 :: [.fswitch 0 0 1]
    ∧ ((withS []).modG fun g => { g with lq := [.csr .rngkey 1] }).g.lq = [.csr .rngkey 1]
    ∧ ((withS []).modG fun g => { g with lq := [.csr .slim 1] }).g.lq = [.csr .slim 1]
    ∧ ((withS []).modG fun g => { g with lq := [.rngseed 1 2] }).g.lq = [.rngseed 1 2]
    ∧ ((withS []).modG fun g => { g with lq := [.fswitch 0 3 9] }).g.lq = [.fswitch 0 3 9]
    ∧ (withS []).g.readsDone = true ∧ ((withS []).modG fun g => g.track (outstanding g (.load .z32 3 2))).g.readsDone = false := by
  refine ⟨?_, ?_, fun x h => ?_, ?_, ?_, ?_, ?_, ?_, ?_, ?_⟩ <;> try decide +kernel
  have e : (withS []).g.lq = [] := by decide +kernel
  rw [e] at h; exact absurd h (List.not_mem_nil)
theorem test_fnfence_wait_witness : LqItem.fswitch 0 3 9 ∈ ((withS []).modG fun g => { g with lq := [.fswitch 0 3 9] }).g.lq := by decide +kernel
theorem test_csr_user_witness : (sysS 0 [(4, 0x1377)]).g.mode = .user ∧ csrRefuses 0x010 0x1345 = false ∧ csrRefuses 0x006 0x400 = true := by
  decide +kernel
theorem test_fload_witness : let s := memS [(1, 0x400)] 0
    s.lockAddr 0 0 false 0x400 1024 false = none ∧ (0x400 : Nat) % 64 = 0 ∧ s.ownsBank s.g.ctx false = true
      ∧ (0x400 : Nat) % 65536 ≤ 64512 ∧ pagesOf [0x400, 0x400 + 1023] = [0x400 / 65536]
      ∧ s.translate s.scalarWho 0 0x400 = (s, .ok 0x400 0)
      ∧ s.mayPerform s.g s.g.inflight s.g.scalarSpot ⟨false, false⟩ 0x400 1024 false = true
      ∧ s.checkAt (s.sources s.g.team 0x400 0x400 1024) = (s, none)
      ∧ (imageReject 0).isSome ∧ (memS [] 0).ownsBank 0 true = false
      ∧ (({ s with marks := [(0x400, .of .poisoned)] } : State).checkAt (s.sources s.g.team 0x400 0x400 1024)).2 = some .poison
      ∧ (({ s with dies := [(0, { Die.init with locks := [⟨0, false, 0x600, 64, true, 1⟩] })] } : State).lockAddr 0 0 false 0x400 1024 false)
          = some 0x600 := by decide +kernel
theorem test_lane_queue_witness : (withS []).g.joined = true ∧ (withS []).g.idleLanes = true ∧ (withS []).g.ret = []
    ∧ (let s := (withS []).modG fun g => { g with lq := [.block ⟨0, 1, [], 0⟩], ret := [5, 6] }
       s.g.joined = false ∧ s.g.idleLanes = false ∧ s.g.ret = 5 :: [6])
    ∧ ((withS []).modG fun g => { g with lq := [.csr .fmt 1] }).g.joined = true
    ∧ (let s := (withS []).modG fun g => { g with lq := List.replicate 64 (.block ⟨0, 1, [], 0⟩) }
       64 ≤ (s.g.lq.filter fun i => match i with | .block _ => true | _ => false).length) := by decide +kernel
/-- Leaves that TLBFILL refuses and one that it installs: the frame 0 of context 0. -/
theorem test_translation_words_witness : (sysS 2 [(1, 0), (2, 0xF3)]).g.mode = .walker ∧ ((sysS 2 [(1, 0)]).g.sreg 1).toNat < 4
    ∧ (let r : WalkReq := ⟨.scalar 0 1, 0x10000, 0, true, 0⟩
       let s := (sysS 2 []).setCore 0 { (sysS 2 []).coreAt 0 with walk := some r }
       (s.coreAt s.cur.core).walk = some r)
    ∧ (let s0 : State := { (memS [] 0).setCtx 0 { Ctx.init with ranges := 2 ^ 36 } with frames := [(0, .g0)] }
       let d := s0.descFor 0 0
       s0.malformed 0 d 0xF3 0 = false ∧ pteV 0xF3 = true ∧ pteLeaf 0xF3 = true ∧ s0.owned 0 0 1 = true
         ∧ notPermitted 0xF3 0 true = none ∧ notPermitted 0x93 1 true = some 3 ∧ pteV 0x802 = false ∧ pteFt 0x802 = true
         ∧ s0.malformed 0 d 0x802 0 = false ∧ s0.malformed 0 d 1 0 = true ∧ s0.malformed 0 d 1 1 = false ∧ pteLeaf 1 = false
         ∧ ({ s0 with ctxs := [] } : State).owned 0 0 1 = false)
    ∧ 4 ≤ ((sysS 2 [(1, 7)]).g.sreg 1).toNat ∧ ((sysS 2 []).coreAt 0).walk = none := by decide +kernel
theorem test_tlbinv_witness : (let s := sysS 1 [(1, 0x10000), (2, 1)]
       let s0 := s.modG Group.passJoin
       s.g.mode = .supervisor ∧ (s.g.sreg 2).toNat < 2 ∧ s.g.joined = true
         ∧ (s0.dropTlb s.g.ctx none).throughPages s.g.ctx (s.tlbPages s.g.ctx none) = false)
    ∧ 2 ≤ ((sysS 1 [(2, 2)]).g.sreg 2).toNat
    ∧ ((sysS 1 []).modG fun g => { g with lq := [.block ⟨0, 1, [], 0⟩] }).g.joined = false
    ∧ (let s := (memS [] 0).modG fun g => g.track { newAccess .glb g.scalarSpot ⟨false, false⟩ 0 [0] with done := false }
       (s.dropTlb 0 none).throughPages 0 (s.tlbPages 0 none) = true) := by decide +kernel

/-! ### Waits, barriers, exits and the scheduler -/

/-- A group changed from the user group of slot 0 of core 0. -/
def gS (f : Group → Group) : State := (sysS 0 [(1, 0x40), (2, 3)]).modG f
/-- The same group in a team of two, whose other group is in slot 1. -/
def teamS (arrived : List Nat) (f : Group → Group) : State :=
  let s := gS f
  let t : Team := { teamOf1 with ngroups := 2, slots := [0, 1], bar := ⟨1, arrived⟩ }
  { (s.setGroupAt 0 1 { Group.init with st := .active, gidx := 1 }) with teams := [(0, t)] }

theorem test_waits_witness : (gS id).g.joined = true ∧ (gS fun g => { g with lq := [.block ⟨0, 1, [], 0⟩] }).g.joined = false
    ∧ (3 < ((gS fun g => { g with inflight := List.replicate 4 (newAccess .glb g.scalarSpot ⟨false, false⟩ 0 []) }).g.inflight.filter fun x => x.path == .glb).length)
    ∧ ((gS id).g.sreg 2).toNat = 3 ∧ (gS id).entrantOf (· != 0) 0 (8 - (gS id).used 0 + (gS id).g.places) = none
    ∧ (let s := (gS id).setGroupAt 0 3 { Group.init with st := .pending }; s.entrantOf (· != 0) 0 (8 - s.used 0 + s.g.places)) = some 3
    ∧ (gS id).g.sreg 0 = 0 ∧ (gS id).g.sreg 2 ≠ 0 ∧ (gS id).g.sWait = none ∧ (gS id).g.st = .active := by decide +kernel
theorem test_sleep_expiry_witness : let s := gS fun g => { g with sWait := some .sleep, deadline := some 0, st := .waiting }
    (s.groupAt 0 0).sWait = some .sleep ∧ (s.groupAt 0 0).deadline = some 0 ∧ 0 ≤ s.cycles 0 ∧ (s.groupAt 0 0).st = .waiting := by
  decide +kernel
/-- Handles: an engine command that ended with status 1, one in flight, the group's own, and none. -/
theorem test_waitg_witness :
    (let s := gS fun g => { g with tokDone := [(1, 0)] }
     handleLegal s.g.cls (s.handle s.g 0x4000000000000001) = true ∧ (s.handle s.g 0x4000000000000001).status = some 0
      ∧ s.handleHeld 0 0x4000000000000001 = false)
    ∧ (let s : State := { (gS id) with ecmds := [⟨1, 1, [], 0, 0, 0, 0, true, 1, false, none, none⟩] }
       handleLegal s.g.cls (s.handle s.g 0x4000000000000001) = true ∧ (s.handle s.g 0x4000000000000001).status = none)
    ∧ (gS id).handle (gS id).g 0xC000000000000000 = .bad
    ∧ (let s : State := { teamS [] id with
        grids := [(0, ⟨0, 0, BitVec.allOnes 512, BitVec.allOnes 512, 1, 0, 0, none, 0, [], [], 0, 0, [], [], none, false⟩)] }
       s.handle s.g 0x8000000000000000 = .own) := by decide +kernel
theorem test_waitg_timeout_witness : let s0 := gS fun g => { g with sWait := some (.handle 0x4000000000000001 5), deadline := some 0, st := .waiting }
    let s : State := { s0 with ecmds := [⟨1, 1, [], 0, 0, 0, 0, true, 1, false, none, none⟩] }
    (s.groupAt 0 0).sWait = some (.handle 0x4000000000000001 5) ∧ (s.groupAt 0 0).deadline = some 0 ∧ 0 ≤ s.cycles 0
      ∧ (s.groupAt 0 0).st = .waiting ∧ (s.handle (s.groupAt 0 0) 0x4000000000000001).status = none := by decide +kernel
theorem test_joins_witness : lanesEmpty (gS id).g ∧ (gS id).g.performed = true
    ∧ (gS fun g => g.track { newAccess .glb g.scalarSpot ⟨false, false⟩ 0 [] with todo := [⟨0, 0, 0, 0, 8, .store [], 0⟩] }).g.performed = false
    ∧ (let s := gS fun g => { g with sWait := some .sleep, deadline := some 0 }; s.g.sreg 1 ≠ 0 ∧ 0 ≤ s.now)
    ∧ (gS id).g.sreg 1 ≠ BitVec.allOnes 64 := by unfold lanesEmpty; decide +kernel
/-- A wait for a task of a grid is illegal in a stochastic group. -/
theorem test_illegal_wait_witness : handleLegal 2 (.task false none) = false ∧ Handle.task false none ≠ .bad
    ∧ handleLegal 0 (.task false none) = true := by decide
theorem test_barrier_witness :
    (let s := teamS [1] id
     s.g.joined = true ∧ s.g.barPhase = none
       ∧ (match s.teamOf s.g with
          | some t => (List.range t.ngroups).all fun i => i == s.g.gidx || (s.barrierOf 0 t).arrived.contains i || s.endedIn 0 i
          | none => false) = true)
    ∧ (let s := teamS [] id
       (match s.teamOf s.g with | some t => decide (1 < t.ngroups ∧ 1 ∉ (s.barrierOf 0 t).arrived ∧ s.endedIn 0 1 = false) | none => false) = true)
    ∧ (gS id).g.barPhase = none ∧ (gS id).teamOf (gS id).g = none
    ∧ (let s := teamS [0, 1] fun g => { g with barPhase := some 1, barWaits := true }
       match s.teamOf s.g with | some t => decide (1 < (s.barrierOf 0 t).phase) | none => false) = true
    ∧ (let s := teamS [0] fun g => { g with barPhase := some 1 }
       match s.teamOf s.g with | some t => decide ((s.barrierOf 0 t).phase ≤ 1) | none => false) = true := by decide +kernel
/-- Group 1 of the team has arrived with key register 5, and group 0 arrives with key register 3. -/
def regroupS (f : Group → Group) : State :=
  let s := teamS [] f
  { s.setGroupAt 0 1 { Group.init with st := .waiting, gidx := 1 } with
    teams := [(0, { teamOf1 with ngroups := 2, slots := [0, 1], regroup := ⟨0, [1029]⟩ })] }
theorem test_regroup_witness : (let s := regroupS id
     let l := s.regroupers 0 [1029, 3]
     s.g.joined = true ∧ (s.teamOf s.g).isSome ∧ s.teamBroken 0 = false
       ∧ (match s.teamOf s.g with | some t => s.allArrived 0 t [1, 0] | none => false) = true ∧ (l.all fun p => p.2.2.quiet) = true
       ∧ l.map Prod.fst = [0, 1] ∧ (l.all fun p => p.2.2.width == 32 && p.2.2.alloc == 128 && decide (p.2.1 < 128) && p.2.2.rstack.isEmpty) = true)
    ∧ (let s := teamS [] id; match s.teamOf s.g with | some t => s.allArrived 0 t [0] | none => true) = false
    ∧ (let s := regroupS fun g => { g with rstack := [⟨.ifK, 1, 0, 0, 0, 0, 0, 0⟩] }; regroupFails (s.regroupers 0 [1029, 3]) = some .illegalWait)
    ∧ ((regroupS id).setGroupAt 0 1 { Group.init with st := .halted, gidx := 1 }).teamBroken 0 = true := by decide +kernel
/-- Lanes of two groups: every lane of group 1, with key 1, comes before those of group 0, with key 2. -/
theorem test_regroup_team : (let g0 : Group := { Group.init with v := (List.range 32).map fun i => (64 * 3 + i, 2) }
    let g1 : Group := { Group.init with gidx := 1, v := (List.range 32).map fun i => (64 * 5 + i, 1) }
    let l := [(0, 3, g0), (1, 5, g1)]
    let at_ (j i : Nat) := (regroupLane l (regroupOrder l) 32 j i).map fun q => (q.1.gidx, q.2)
    at_ 0 1 = some (1, 1) ∧ at_ 1 0 = some (0, 0) ∧ at_ 1 31 = some (0, 31)) := by decide +kernel
theorem test_regroup_alone_witness : (gS id).g.joined = true ∧ (gS id).teamOf (gS id).g = none ∧ (gS id).g.quiet = true
    ∧ (gS id).teamBroken (gS id).g.team = false ∧ (gS id).g.width = 32 ∧ (5 : VReg).toNat < (gS id).g.alloc ∧ (gS id).g.rstack = []
    ∧ (gS id).g.alloc ≤ (200 : VReg).toNat := by decide +kernel
theorem test_blocks_witness : (gS id).g.ext = 0 ∧ (gS id).budget (gS id).g < 64
    ∧ (let x : Grid := ⟨0, 0, 0, BitVec.ofNat 512 (2 ^ 20 + 2 ^ 32), 1, 0, 0, none, 0, [], [], 0, 0, [], [], none, false⟩
       let s : State := { (teamS [] id) with grids := [(0, x)] }
       64 ≤ s.budget s.g ∧ allocRows (s.rowsUsed s.cur.core) 64 s.g.places = some [0])
    ∧ allocRows [(0, 4096)] 64 1 = none
    ∧ (gS fun g => { g with ext := 64, extRows := [0] }).g.ext ≠ 0 ∧ (gS fun g => { g with ext := 64, extRows := [0] }).g.extLoads = false
    ∧ ((teamS [] id).groupAt 0 1).team = (teamS [] id).g.team ∧ ((teamS [] id).groupAt 0 1).gidx ≠ (teamS [] id).g.gidx
    ∧ ((teamS [] id).groupAt 0 1).live = true
    ∧ (let s := gS fun g => { g with stopped := true }; s.drained 0 (s.groupAt 0 0) = true ∧ (s.groupAt 0 0).live = true) := by
  decide +kernel
theorem test_blocks_full_witness : let x : Grid := ⟨0, 0, 0, BitVec.ofNat 512 (2 ^ 20 + 2 ^ 32), 1, 0, 0, none, 0, [], [], 0, 0, [], [], none, false⟩
    let s0 : State := { (teamS [] id) with grids := [(0, x)] }
    let s := s0.setGroupAt 0 2 { Group.init with st := .pending, ext := 4096, extRows := [0] }
    s.g.joined = true ∧ s.g.ext = 0 ∧ 64 ≤ s.budget s.g ∧ allocRows (s.rowsUsed s.cur.core) 64 s.g.places = none
      ∧ s.canCompact 0 = true ∧ allocRows ((s.compact 0).rowsUsed 0) 64 1 = none
      ∧ ((s.setGroupAt 0 3 { Group.init with st := .pending, inflight := [{ newAccess .glb s.g.scalarSpot ⟨false, false⟩ 0 [] with arrived := false }] }).canCompact 0
          = false) := by decide +kernel
/-- Blocks of 64 rows at every second place: RACQ of 128 rows finds none until the file is compacted. -/
theorem test_compaction_witness : let x : Grid := ⟨0, 0, 0, BitVec.ofNat 512 (2 ^ 20 + 2 * 2 ^ 32), 1, 0, 0, none, 0, [], [], 0, 0, [], [], none, false⟩
    let s0 : State := { (teamS [] fun g => { g with sWait := some (.rows 128) }) with grids := [(0, x)] }
    let s := (List.range 31).foldl (fun (t : State) i => t.setGroupAt 0 (i + 2) { Group.init with st := .pending, ext := 64, extRows := [128 * i] }) s0
    s.g.joined = true ∧ s.g.ext = 0 ∧ 128 ≤ s.budget s.g ∧ allocRows (s.rowsUsed 0) 128 1 = none ∧ s.canCompact 0 = true ∧ s.rowsWanted 0 = true
      ∧ allocRows ((s.compact 0).rowsUsed 0) 128 1 = some [2048] ∧ ((s.compact 0).groupAt 0 3).extRows = [64] ∧ s.cur.slot < 47 := by decide +kernel
theorem test_tlaunch_witness : let c := { Ctx.init with almBase := 0x40, almRecords := 4 }
    let s := (gS id).setCtx 0 c
    (s.g.sreg 1).toNat % 64 = 0 ∧ (s.ctxAt s.g.ctx).almBase.toNat ≤ (s.g.sreg 1).toNat
      ∧ ((s.g.sreg 1).toNat - 0x40) / 64 < (s.ctxAt s.g.ctx).almRecords ∧ s.inCommit s.g = false
      ∧ (s.g.sreg 2).toNat % 64 ≠ 0 ∧ (s.g.sreg 0).toNat % 64 = 0 ∧ (s.g.sreg 0).toNat < (s.ctxAt s.g.ctx).almBase.toNat := by decide +kernel
theorem test_scheduler_witness :
    (let s := (gS id).setGroupAt 0 3 { Group.init with st := .pending }; s.entrant 0 (8 - s.used 0) = some 3)
    ∧ (let s : State := { (gS id).setGroupAt 0 3 { Group.init with st := .pending } with time := 0x2000 }
       (s.groupAt 0 3).st = .pending ∧ (s.groupAt 0 3).starved = none ∧ (s.groupAt 0 3).lastIssue + (s.coreAt 0).starve.toNat ≤ s.cycles 0)
    ∧ (let s : State := { (gS id).setGroupAt 0 3 { Group.init with st := .pending, starved := some 1 } with time := 0x2000 }
       oldest Group.flaggedAt ((s.coreGroups 0).filter fun p => p.2.st == .pending && p.2.starved.isSome) = some (3, s.groupAt 0 3)
         ∧ (s.groupAt 0 3).flaggedAt + (s.coreAt 0).starve.toNat ≤ s.cycles 0)
    ∧ (let s := gS fun g => { g with st := .waiting, sWait := some .lanes }
       (s.groupAt 0 0).st = .waiting ∧ (s.groupAt 0 0).mode ≠ .walker ∧ s.scalarStuck 0 (s.groupAt 0 0) = false)
    ∧ (let s := (List.range 8).foldl (fun (t : State) i => t.setGroupAt 0 (i + 4) { Group.init with st := .active })
         ((gS id).setGroupAt 0 3 { Group.init with st := .pending, starved := some 0 })
       8 < s.used 0 + (s.groupAt 0 3).places) := by decide +kernel

/-! ### The matrix unit -/

/-- The group of team 0, whose team holds the unit, with the packs of the manual's worked product (11_scalar_ref.md). -/
def mxS (l : List MCmd) : State :=
  let s := gS fun g => { g with s := [(1, 1), (2, 0x80), (8, 0x10000), (9, 0x4000100000), (10, 0x40000000100), (11, 0x2290004), (12, 0x4000200000), (13, 0x400), (15, 0x49)] }
  let t : Team := { teamOf1 with wsize := 0x40000, matrix := true }
  { s with teams := [(0, t)], cores := [(0, { Core.init with holder := some 0, mcmds := l })] }

theorem test_matrix_issue_witness : let s := mxS []
    s.holdsMatrix = true ∧ s.g.joined = true ∧ s.g.performed = true ∧ s.mxOut 0 < 16
      ∧ (let p := (List.range 4).map (s.g.quad 8)
         loopReserved p = false ∧ loopMisaligned (loopPack p) = false ∧ overruns s.vaultWindow.2 (loopOperands (mformat s.g.fmtS) (loopPack p)) = false
           ∧ s.accReserved 0 (loopPack p).acc = false ∧ s.lockRoom (mxLocks s (loopOperands (mformat s.g.fmtS) (loopPack p))) = true)
      ∧ (let p := (List.range 4).map (s.g.quad 12)
         storeReserved p = false ∧ storeMisaligned (storePack p) = false ∧ overruns s.vaultWindow.2 (storeOperands (storePack p)) = false
           ∧ s.accReserved 0 (storePack p).acc = false ∧ s.lockRoom (mxLocks s (storeOperands (storePack p))) = true)
      ∧ s.accReserved 0 2 = false ∧ (gS id).holdsMatrix = false ∧ (gS id).g.mode ≠ .walker := by decide +kernel
/-- A command of the group in batch 1 of stream 0. -/
def mcmd (kind : Nat) (pack : List Word) : MCmd := ⟨7, kind, pack, 0, 2, 0, true, 0, 0, 1, 0x200, 0, 0, none, none⟩
theorem test_mwait_witness : (let s := (mxS []).modG fun g => { g with nextBatch := 2 }
      (s.g.sreg 1).toNat < s.g.nextBatch ∧ s.batchBusy 0 s.g 1 = false ∧ s.mxFaults 1 = [])
    ∧ (let s := (mxS [mcmd 2 []]).modG fun g => { g with nextBatch := 2 }; (s.g.sreg 1).toNat < s.g.nextBatch ∧ s.batchBusy 0 s.g 1 = true)
    ∧ (mxS []).g.nextBatch ≤ ((mxS []).g.sreg 1).toNat
    ∧ (let s (c : Cause) := (mxS [{ mcmd 2 [] with fault := some ⟨c, 5, 6⟩ }]).modG fun g => { g with nextBatch := 2 }
       (s .poison).batchBusy 0 (s .poison).g 1 = false ∧ (s .poison).mxFaults 1 = [⟨.poison, 5, 6⟩] ∧ (s .protection).mxFaults 1 = [⟨.protection, 5, 6⟩]
         ∧ (s .pageFault).mxFaults 1 = [⟨.pageFault, 5, 6⟩])
    ∧ ((mxS []).modG fun g => { g with lq := [.fswitch 0 3 9] }).g.lq.any LqItem.isSwitch = true := by decide +kernel
theorem test_matrix_complete_witness : ((mxS [mcmd 2 []]).coreAt 0).mcmds = [] ++ mcmd 2 [] :: []
    ∧ mxBlocked (mcmd 2 []) [] = false ∧ (mxS [mcmd 2 []]).atomsBefore 0 0 7 = false ∧ (mcmd 2 []).acc < 4 := by decide +kernel
/-- An MLOOP of no K-step, which reads nothing, runs; so does the state that it leaves. -/
theorem test_mloop_complete_witness : let s := mxS [mcmd 0 [0, 0, 0, 0]]
    let x : MxWho := ⟨⟨.command 7, 0, 0, true⟩, 0, (0, 0), []⟩
    (match loopRun x 0 (mcmd 0 [0, 0, 0, 0]) (s.asServed 0 0) with | .ok (_, none) => true | _ => false) = true := by decide +kernel
/-- The operands of an MLOOP of one K-step from the vault window: BF16, rows of A and B at 0, stride 1024. -/
def loopPackS : List Word := [0, 0, 0x40000000400, 0x6000001]
theorem test_mloop_step_witness : let p := loopPack loopPackS
    let s := (mxS [mcmd 0 loopPackS]).asServed 0 0
    let x : MxWho := ⟨⟨.command 7, 0, 0, true⟩, 0, (0, 0), []⟩
    p.ksteps = 1 ∧ p.holdb = false ∧ p.acc < 4 ∧ p.stream < 8 ∧ p.asp = true ∧ p.bsp = true
      ∧ (match loopA x (mformat 0) p Matrix.init 0 ⟨s, none, []⟩ with
         | .ok (q, rows, _) => rows.length == 32 && (match loopB x (mformat 0) p 0 q with | .ok (q2, codes, _) => q2.bad.isNone && decide (codes.length ≤ 65536) | _ => false)
         | _ => false) = true := by decide +kernel
theorem test_kblock_witness : FVal.qnan ∈ [(fMul .qnan (.num false 1 0)).1] ∧ (fMul (.inf true) (.num false 1 0)).1 = .inf true
    ∧ (fMul (.inf false) (.num false 1 0)).1 = .inf false := by decide
/-- An MSTORE of BF16 to the vault window at stride 1024. -/
def storePackS : List Word := [0, 1024, 0, 0x420]
theorem test_mstore_witness : let p := storePack storePackS
    p.dsp = true ∧ storeScaled p = false ∧ storeReserved storePackS = false ∧ 64 * storeBits p ≤ p.dstride ∧ p.dbase + 32 * p.dstride < 2 ^ 64
      ∧ fmtRnd 0x200 ≠ 4 ∧ (mcmd 1 storePackS).kind = 1 := by decide +kernel
theorem test_batch_witness : let s := mxS []
    s.g.sreg 1 ≠ 0 ∧ (s.g.sreg 2).toNat % 128 = 0 ∧ s.inCommit s.g = false ∧ (s.dieAt 0).posts.length < 1024
      ∧ ((s.dieAt 0).posts.filter fun y => y.wid == s.g.sreg 1).length < 31 ∧ s.g.sreg 0 = 0
      ∧ (s.g.tickets.find? fun t => t.1 == (s.g.sreg 1).toNat) = none
      ∧ ((s.modG fun g => { g with tickets := [(1, none)] }).g.tickets.find? fun t => t.1 == 1) = some (1, none)
      ∧ ((s.modG fun g => { g with tickets := [(1, some none)] }).g.tickets.find? fun t => t.1 == 1) = some (1, some none) := by decide +kernel
/-- A post of identifier 5 at address 0x100 of page 0, translated for its command. -/
def row : PostRow := ⟨5, 0x100, 0, 0, true, 0, 0, 1, 0, none, false⟩
theorem test_batch_timeout_witness : let s : State := { (mxS []) with time := 2048, dies := [(0, { Die.init with posts := [row] })] }
    ((s.dieAt 0).posts.filter fun y => y.wid == 5) = row :: [] ∧ row.time + 2048 ≤ s.dieCycles 0 ∧ (s.dieAt 0).regs = [] := by decide +kernel
theorem test_batch_complete_witness :
    let s : State := { (mxS []) with dies := [(0, { Die.init with tlb := [⟨0, 0, 16, fetchLeaf⟩], batches := [⟨3, [row], none, none⟩] })] }
    (s.dieAt 0).batches = [⟨3, [row], none, none⟩] ∧ row.settled = false
      ∧ (match mxLand (rowWho 3 row) false 1 (row.addr.toNat + 128) 2048 (s.asServed 0 row.ctx) with
          | .ok (s1, [pc]) => decide (s1 = s.asServed 0 row.ctx ∧ pc.flat = 0x180 ∧ pc.n = 2048) | _ => false) = true := by decide +kernel
/-- A batch of the same row, already read, with a slice of the core's registration. -/
def regS (bad : Option Cause) : State :=
  let r := { row with row := some ([], none) }
  let x : Registration := ⟨5, 0, 1, 2, 0, 1, none, bad⟩
  { (mxS []) with dies := [(0, { Die.init with tlb := [⟨0, 0, 16, fetchLeaf⟩], batches := [⟨3, [r], some x, none⟩], regs := [x] })] }
theorem test_batch_registered_witness :
    let r := { row with row := some ([], none) }
    let x : Registration := ⟨5, 0, 1, 2, 0, 1, none, none⟩
    let s := regS none
    (s.dieAt 0).batches = [⟨3, [r], some x, none⟩] ∧ s.batchHeld ⟨3, [r], some x, none⟩ = false
      ∧ worse none (some Cause.poison) = some .poison := by decide +kernel
/-- An answer that compares equal to an end is that end. -/
theorem ok_of_match {α ε : Type} [DecidableEq α] {x : Except ε α} {a : α}
    (h : (match x with | .ok r => decide (r = a) | .error _ => false) = true) : x = .ok a := by
  cases x with
  | ok r => exact congrArg Except.ok (of_decide_eq_true h)
  | error _ => cases h
theorem test_batch_registered_lands : let r := { row with row := some ([], none) }
    let s2 := (rowCompute ⟨5, 0, 1, 2, 0, 1, none, none⟩ 0 [] ((regS none).asServed 0 0)).1
    ∃ pc : Piece, mxLand (rowWho 3 r) false 1 (r.addr.toNat + 128) 2048 s2 = .ok (s2, [pc]) ∧ pc.flat = 0x180 ∧ pc.n = 2048 :=
  ⟨⟨0x180, 0x180, 0, 2048⟩, ok_of_match (by decide +kernel), rfl, rfl⟩
theorem test_bfqpost_traps_witness : ((mxS []).g.sreg 1) ≠ 0 ∧ ((mxS []).g.sreg 1).toNat % 128 ≠ 0
    ∧ (let x : Grid := ⟨0, 0, 0, BitVec.ofNat 512 (2 ^ 13), 1, 0, 0, none, 0, [], [], 0, 0, [], [], none, false⟩
       ({ mxS [] with grids := [(0, x)] } : State).inCommit (mxS []).g = true) := by decide +kernel
theorem test_post_full_witness : let s : State := { (mxS []) with dies := [(0, { Die.init with posts := (List.range 31).map fun i => { row with wid := 1, ticket := i } })] }
    (s.g.sreg 1) = 1 ∧ ((s.dieAt 0).posts.filter fun y => y.wid == s.g.sreg 1).length = 31 ∧ (s.dieAt 0).regs = [] ∧ s.g.performed = true := by decide +kernel
theorem test_ticket_fault_witness : (((mxS []).modG fun g => { g with tickets := [(1, some (some ⟨.pageFault, 5, 6⟩))] }).g.tickets.find? fun t => t.1 == 1)
    = some (1, some (some ⟨.pageFault, 5, 6⟩)) := by decide +kernel

/-! ### Engines and the journal -/

/-- The group with an operand pack in s8 to s11 and the window of 256 KiB at 0. -/
def engS (p0 p1 p2 p3 : Word) : State :=
  let s := mxS []
  s.modG fun g => { g with s := [(1, 0x100), (2, 0x100000005), (8, p0), (9, p1), (10, p2), (11, p3)] }
/-- An outstanding command 3 of team 9 of grid 1, whose group is not resident. -/
def ecmd (kind : Nat) (pack : List Word) : ECmd := ⟨3, kind, pack, 0, 0x100000009, 0, 0, true, 1, false, none, none⟩
/-- The module with that command, with its page 0 translated for the die, and team 2 of grid 1 with a window at 4096. -/
def doneS (kind : Nat) (pack : List Word) : State :=
  let t : Team := { teamOf1 with grid := 1, index := 2, base := 4096, wsize := 4096, mcast := 1 }
  let x : Grid := ⟨0, 0, 0, 0, 1, 0, 0, none, 0, [], [], 0, 0, [], [], none, false⟩
  { State.reset with
    ecmds := [ecmd kind pack]
    teams := [(0x100000002, t), (0x100000009, { t with index := 9 })]
    grids := [(1, x)]
    domains := [(5, ⟨[0, 1], [], 0⟩)]
    dies := [(0, { Die.init with tlb := [⟨0, 0, 16, fetchLeaf⟩] })] }

theorem test_copy_witness : let s := engS 0x1000 0x2000 0x100 0
    let x := copyPack (s.packAt 8)
    s.g.joined = true ∧ s.g.performed = true ∧ s.g.full .eng = false ∧ x.len ≠ 0 ∧ x.overlaps s.g.teamIndex = false ∧ s.inCommit s.g = false
      ∧ s.lockRoom (s.operandLock 0 x.ssp x.steam x.src x.len false ++ s.operandLock 0 x.dsp x.dteam x.dst x.len true) = true := by decide +kernel
theorem test_copy_empty_witness : (copyPack ((engS 0x1000 0x2000 0 0).packAt 8)).len = 0 ∧ (engS 0 0 0 0).g.nextTok ≠ 0 ∧ (engS 0 0 0 0).g.st ≠ .free
    ∧ ((engS 0 0 0 0).groups.all fun p => decide (p.1 = 0)) = true ∧ (copyPack ((engS 0x1000 0x1004 0x100 0).packAt 8)).overlaps 0 = true
    ∧ (copyPack ((engS 0x1000 0x40000 0x100 2).packAt 8)).dsp = true := by decide +kernel
theorem test_engine_waits_witness : let s := engS 0x1000 0x2000 0x100 0
    (s.modG fun g => { g with lq := [.block ⟨0, 1, [], 0⟩] }).g.joined = false
      ∧ (s.modG fun g => { g with inflight := List.replicate 63 (newAccess .eng g.scalarSpot ⟨false, false⟩ 0 []) }).g.full .eng = true
      ∧ ({ s with dies := [(0, { Die.init with locks := List.replicate 256 ⟨0, false, 0, 4, false, 1⟩ })] } : State).lockRoom
          [⟨false, 0x1000, 4, false, 0⟩] = false := by decide +kernel
theorem test_gather_witness : let s := engS 0x1000 0x2000 0x100000080 0x3000
    let x := gatherPack (s.packAt 8)
    x.row ≠ 0 ∧ x.row % 4 = 0 ∧ x.count = 1 ∧ x.isp = false ∧ x.dsp = false
      ∧ s.lockRoom (s.operandLock 0 x.isp 0 x.idx (4 * x.count) false ++ s.operandLock 0 x.dsp 0 x.dst (x.count * x.row) true) = true := by
  decide +kernel
theorem test_mcast_witness : let s := engS 0x1000 0 0x100 0x10000
    let x := mcastPack (s.packAt 8)
    x.len = 0x100 ∧ x.first = 0 ∧ s.receivers 0 x = some [(0, 0, 0)] ∧ s.receivers 0 ⟨0, 0, 4, 1, 1⟩ = none
      ∧ s.lockRoom [⟨false, 0x1000, 0x100, false, 0⟩, ⟨true, 0, 0x100, true, 0⟩] = true := by decide +kernel
theorem test_coll_witness : let s := engS 0x1000 0x2000 1 (BitVec.ofNat 64 (5 + 2 ^ 16 + 8 * 2 ^ 51))
    let x := collPack (s.packAt 8)
    x.count = 1 ∧ x.op = 0 ∧ x.domain = 5 ∧ x.step = 1 ∧ x.ty = .s32 ∧ s.inCommit s.g = false
      ∧ s.lockRoom [⟨false, x.src, x.bytes, false, 0⟩, ⟨false, x.dst, x.outBytes 0, true, 0⟩] = true := by decide +kernel
theorem test_nmlaunch_witness : let s := engS 0x1000 0x2000 3 0
    (s.packAt 8).getD 2 0 = 3 ∧ s.cap.hbmStacks.getLsbD 3 = true ∧ ((engS 0 0 0x80 0).packAt 8).getD 2 0 = 0x80 := by decide +kernel
theorem test_journal_witness : let s := engS 0 0 0 0
    (s.g.sreg 2).setWidth 32 = (5 : W32) ∧ (s.g.sreg 1).toNat % 4 = 0 ∧ (s.dieAt 0).journal.length < 65536 ∧ bitsOf (s.g.sreg 1) 32 32 = 0
      ∧ (s.g.sreg 1).setWidth 32 = (0x100 : W32) ∧ (commitS 0).inCommit (commitS 0).g = true := by decide +kernel
theorem test_command_over_witness : let s := doneS 5 []
    ((s.ecmds.find? fun x => x.id == 3) = some (ecmd 5 [])) ∧ s.atomsBefore 0x100000009 0 3 = false ∧ (s.asServed 0 0).cur.key = none ∧ s.hbmStacks = [] ∧ s.marks = [] ∧ s.cipher = [] ∧ s.encOn = false
      ∧ s.eqx.snap = [] ∧ (match s.team? 0x100000009 with | some y => (match s.grid? y.grid with | some g => !descAud g.desc | none => false) | none => false) = true ∧ s.teamWindow 1 2 = some (0, 4096, 4096) ∧ s.teamWindow 1 3 = none ∧ s.findGroup 0x100000009 0 = none
      ∧ s.journalOf 0 5 = [] ∧ lookupKey 6 s.domains = none := by decide +kernel
theorem test_copy_over_witness : (copyPack [0, 0x100, 64, BitVec.ofNat 64 (3 + 2 * 4 + 2 * 2 ^ 18)]).ssp = true
    ∧ (copyPack [0, 0x100, 64, BitVec.ofNat 64 (3 + 2 * 4 + 2 * 2 ^ 18)]).dteam = 2 ∧ overlap 4096 64 4352 64 = false := by decide +kernel
theorem test_gather_row_witness : (gatherPack ((engS 0x1000 0x2000 0x100000000 0).packAt 8)).row = 0
    ∧ (gatherPack ((engS 0x1000 0x2000 0x100000002 0).packAt 8)).row = 2 := by decide +kernel
theorem test_journal_over_witness :
    let w : Who := ⟨.command 3, 0, 0, true⟩
    let je : JEntry := ⟨0, 5, 0x100, 7⟩
    let s : State := { doneS 6 [5] with dies := [(0, { Die.init with tlb := [⟨0, 0, 16, fetchLeaf⟩], journal := [je] })] }
    s.journalOf 0 5 = [(0, je)] ∧ (s.asServed 0 0).translate w 2 0x100 = (s.asServed 0 0, .ok 0x100 0)
      ∧ (match (s.asServed 0 0).translate w 2 (2 ^ 60) with | (t, .fault k _) => decide (t = s.asServed 0 0) && k != 1 | _ => false) = true := by
  decide +kernel
theorem test_moves_over_witness : let w : Who := ⟨.command 3, 0, 0, true⟩
    (gatherPack [0x100, 0x200, BitVec.ofNat 64 (64 + 2 ^ 32), 0x400]).count = 1
      ∧ ((doneS 2 []).asServed 0 0).translate w 0 0x100 = ((doneS 2 []).asServed 0 0, .ok 0x100 0) ∧ (doneS 2 []).readN 0x100 4 = 0
      ∧ ((doneS 2 []).asServed 0 0).translate w 0 0x200 = ((doneS 2 []).asServed 0 0, .ok 0x200 0) ∧ ((doneS 2 []).asServed 0 0).translate w 1 0x400 = ((doneS 2 []).asServed 0 0, .ok 0x400 0)
      ∧ (mcastPack [0x100, 0, 64, 0x10002]).count = 1 ∧ (mcastPack [0x100, 0, 64, 0x10002]).first = 2
      ∧ ((doneS 3 []).team? (teamKey 1 2)).isSome ∧ lookupKey 5 (doneS 4 []).domains = some ⟨[0, 1], [], 0⟩ ∧ (doneS 4 []).eqx.st = .idle := by
  decide +kernel

/-! ### Lane words -/

/-- A lane word of a group of width 32 standing in a block at address 0, all lanes active, in the state `f` of the group. -/
def laneS (f : Group → Group) : State :=
  let s := (State.reset.withFetchWord 96 0).modG f
  { s with cur := ⟨0, 0, 0, 0, .lane, ⟨0, 0xFFFFFFFF, 0x200, [], 0, none, 0, false, none, none, none, none⟩, 0, .stream, 0, false, 0, none, false⟩ }
/-- The same in a team whose queue 1 holds one row. -/
def queueS : State :=
  let t : Team := { teamOf1 with q := [(1, [List.replicate 32 7])], matrix := true }
  { laneS id with teams := [(0, t)], cores := [(0, { Core.init with holder := some 0 })] }

theorem test_lane_witness : laneStart (laneS id) (L3uses { w3 with va := 1, vb := 2 } false [(1, false), (2, false)] [])
    (L3consumer w3 false) 0 [1, 2] [] [[], []] 0 ∧ (laneS id).active 0 = 0xFFFFFFFF := by unfold laneStart; decide +kernel
/-- A word that pops queue 1 as its source and gives its result to a register, an A row and queue 0. -/
theorem test_lane_queues_witness : let w : L3 := { w3 with va := 665, cmask := 7, route := 4 }
    laneStart queueS (L3uses w false [(w.va, false)] []) (L3consumer w false) 0 [w.va] [] [List.replicate 32 7] 0 := by
  unfold laneStart; decide +kernel
/-- FADD of 1.0 and 2.0, a sum of integers, and a conversion: no result for the assist. -/
theorem test_lane_float_witness : let e := laneEnv (laneS fun g => { g with v := [(64, 0x3F800000), (128, 0x40000000)] }) [[], []] 0
    let w : L3 := { w3 with va := 1, vb := 2 }
    (e.actives.all fun k => !(finish .f32 (arithFin w e) (fAdd (e.fsrc w 0 1 k) (e.fsrc w 1 2 k)).1).assist) = true
      ∧ (finish .f32 (arithFin w e) (fAdd (e.fsrc w 0 1 0) (e.fsrc w 1 2 0)).1).bits = 0x40400000
      ∧ (e.actives.all fun k => !(cvtFromFloat { w with ty := .s32 } e 0 k).1.assist && (cvtFromFloat { w with ty := .s32 } e 0 k).1.lane == k) = true
      ∧ (finish .f32 Fin.rne (.num false 3 0)).flags = 0 := by decide +kernel
/-- The image whose every field but RMODE is zero: PA = PB = LO = HI = 0, so that every finite value evaluates. -/
def image : Image := BitVec.ofNat 8192 (2 ^ 256)
/-- The same with the NaN rule TRAP. -/
def trapImage : Image := BitVec.ofNat 8192 (2 ^ 256 + 3 * 2 ^ 264)
def fnS (img : Image) (f : Group → Group) : State := { laneS f with cores := [(0, { Core.init with fn := [(0, img)] })] }
/-- An infinity of E5M2 in v1. -/
theorem test_same_infinity_witness : let e := laneEnv (laneS fun g => { g with v := [(64, 0xFC)] }) [[]] 0
    e.rdF .e5m2 0 1 0 0 = .inf true ∧ (laneS id).elemBad [1, 2] 1 false 0 = false ∧ (e.lanes.all fun k => !(laneS id).elemBad [1, 2] 0 false k) = true := by
  decide +kernel
theorem test_function_witness : (fnS image id).fnImage 0 = some image ∧ (fnS image id).fnErrors [0, 0] = [] ∧ (laneS id).fnImage 0 = none
    ∧ ((laneEnv (fnS image id) [[]] 0).actives.all fun k => (evalOrders image [false, true] ((laneEnv (fnS image id) [[]] 0).fnArg { w3 with va := 1 } k)).isSome) = true
    ∧ (softMerge image (.inf true) (FVal.zero false) FVal.one none).isSome = true
    ∧ (softNorm image image FVal.one FVal.one FVal.one).isSome = true := by decide +kernel
/-- A group with a handler whose function register is empty, or meets TRAP with a NaN. -/
theorem test_function_trap_witness :
    let s : State := { fnS trapImage (fun g => { g with v := [(64, 0x7FC00000)] }) with
      cores := [(0, { Core.init with fn := [(0, trapImage)], desc := [(0, BitVec.ofNat 1024 (0x8000 * 2 ^ 128))] })] }
    let u : Uses := { L3uses { w3 with va := 1 } false [(1, false)] [] with binds := true, wv := [0], even := [] }
    handled s ∧ s.laneChecks u false false = none ∧ s.mustWait u = false ∧ s.badLanes u [1] 0 = 0 ∧ s.fnErrors [0] = [] ∧ s.fnErrors [1] = []
      ∧ s.fnImage 0 = some trapImage ∧ s.fnImage 1 = none
      ∧ evalOrders trapImage [false] ((laneEnv s [[]] 0).fnArg { w3 with va := 1 } 0) = none := by unfold handled; decide +kernel

/-! ### Masks, exchanges and control words -/

theorem test_mask_witness : laneStart (laneS id) (maskUses { w3 with vd := 3 } [(1, false), (2, false)] []) (L3consumer w3 false) 0 [1, 2] [] [[], []] 0
    ∧ laneStart (laneS id) (maskUses { w3 with vd := 3 } [] [1, 2]) (L3consumer w3 false) 0 [] [] [] 0 := by
  unfold laneStart; exact ⟨by decide +kernel, by decide +kernel⟩
theorem test_lret_witness : laneStart (laneS id) (L3uses n3 false [(1, false)] []) (L3consumer n3 false) 0 [1] [] [[]] 0
    ∧ (laneS fun g => { g with ret := [1, 2, 3, 4] }).g.ret.length = 4 ∧ (laneS id).laneChecks (L3uses n3 false [] [0]) false false = none := by
  unfold laneStart; decide +kernel
theorem test_exchange_witness : (laneS id).g.width = 32 ∧ bitsOf ({ w3 with aux := 33 } : L3).aux 0 6 = 33
    ∧ ((laneEnv (laneS id) [[], []] 0).actives.all fun k => decide (((laneEnv (laneS id) [[], []] 0).src 1 2 false k).toNat < 32)) = true := by
  decide +kernel
/-- Entries of each kind on the stack, and a full stack. -/
theorem test_exchange_error_witness : let s := laneS fun g => { g with badV := [64 + 33] }
    let t := laneS fun g => { g with badV := [64 + 5] }
    let w : L3 := { w3 with va := 1, vb := 2, aux := 5 }
    laneStart t { L3uses w w.ty.is64 [(w.va, w.ty.is64)] [] with far := farOf [w.va] w.ty.is64 [] 0 } (L3consumer w false) 0 [1] [] [[]] 0
      ∧ s.elemBad [1] 0 false 5 = false ∧ t.elemBad [1] 0 false 5 = true ∧ (laneEnv t [[]] 0).actives ≠ [] := by unfold laneStart; decide +kernel
theorem test_control_witness : let e (k : RKind) : REntry := ⟨k, 0xFF, 0xF0, 0, 24, 0, 0, 0⟩
    let u : Uses := { Uses.empty with rm := [1] }
    (laneS id).laneChecks u false false = none ∧ (laneS id).mustWait u = false ∧ (laneS id).laneChecks Uses.empty false false = none
      ∧ (laneS id).mustWait Uses.empty = false ∧ (laneS id).laneChecks { Uses.empty with wm := [2] } false false = none
      ∧ (laneS fun g => { g with rstack := [e .ifK] }).laneChecks Uses.empty false false = none
      ∧ (laneS fun g => { g with rstack := [e .loopK], em := 1 }).g.em ≠ 0 ∧ (laneS fun g => { g with rstack := [e .loopK], em := 0 }).g.em = 0
      ∧ (laneS id).g.blockId = 0 ∧ (List.replicate 32 (e .ifK)).length = 32 := by decide +kernel

/-! ### Pair words -/

theorem test_pair_witness : let x : Slot := { slot with vd := 4, va := 1, vb := 2 }
    let y : Slot := { slot with vd := 5, va := 1, vb := 2 }
    pairConflict (xReads .faddF32 x) (yReads .iadd y) [4] [5] = false
      ∧ pairConflict (xReads .faddF32 x) (yReads .iadd { y with va := 4 }) [4] [5] = true
      ∧ laneStart (laneS id) ⟨[1, 2, 1, 2], [4, 5], [], [], [], 0, [], [], false⟩ ⟨0, false, 1, 0⟩ 0 [1, 2, 1, 2] [] [[], [], [], []] 0
      ∧ ((laneEnv (laneS id) [] 0).actives.all fun k => !(xLane .faddF32 x (laneEnv (laneS id) [] 0) k).1.assist) = true := by
  unfold laneStart; decide +kernel

/-! ### Lane memory words -/

/-- Lanes 0 and 1 of the group, the first two words of page 0 from address 0x100: what the accesses land on. -/
def mS (f : Group → Group) : State :=
  let s := laneS fun g => f { g with m := [(1, 3)], k := [(0, 0x100)] }
  { s with cur := { s.cur with lane := { s.cur.lane with k := s.g.k } } }
def lmw (vd : VReg) (path : BitVec 3) (aux : BitVec 12) (ty : EType) : LM := ⟨vd, 0, 656, 2, 0, 0, path, 0, 0, 1, ty, aux⟩
/-- The same with its address offsets kept. -/
def keptS (w : LM) : State := (mS id).keepOffsets w (memEnv (mS id) w [[]])
def goods (n : Nat) : List Landed := [(⟨0, 0, 0x100, n⟩, 0x100, 0), (⟨0, 1, 0x104, n⟩, 0x104, 0)]
def rowGoods : List Landed := goods 4 ++ [(⟨1, 0, 0x108, 4⟩, 0x108, 0), (⟨1, 1, 0x10C, 4⟩, 0x10C, 0)]
def vGoods : List Landed := [(⟨0, 0, 0x100, 8⟩, 0x100, 0), (⟨0, 1, 0x108, 8⟩, 0x108, 0)]

theorem test_vld_witness : laneAccessOk (mS id) (mS id) (lmw 2 1 0 .f32) (memUses (lmw 2 1 0 .f32) [] (lmRegs (lmw 2 1 0 .f32)) (lmEven (lmw 2 1 0 .f32))) 0 false [] (oneRow (lmw 2 1 0 .f32) 4) (goods 4) [] [[]] 0
    ∧ apart (goods 4) ∧ checkLanes .glb (mS id) ((goods 4).map (todoOf (fun _ => .load .f32 2 1))) = ((mS id), (goods 4).map (todoOf (fun _ => .load .f32 2 1)), []) := by
  unfold laneAccessOk apart; refine ⟨?_, ?_, ?_⟩ <;> decide +kernel
theorem test_vstv_witness : laneAccessOk (mS id) (mS id) ({ lmw 2 1 0 .b32 with scl := 3 }) (memUses { lmw 2 1 0 .b32 with scl := 3 } [2, 3] [] []) 1 false [2, 3] (oneRow { lmw 2 1 0 .b32 with scl := 3 } 8) vGoods [] [[], [], []] 0
    ∧ apart vGoods ∧ checkLanes .glb (mS id) (vGoods.map (todoOf (fun _ => .load .f32 2 2))) = ((mS id), vGoods.map (todoOf (fun _ => .load .f32 2 2)), []) := by
  unfold laneAccessOk apart; refine ⟨?_, ?_, ?_⟩ <;> decide +kernel
theorem test_vldm_witness : laneAccessOk (mS id) (keptS (lmw 2 1 65 .b32)) (lmw 2 1 65 .b32) (memUses (lmw 2 1 65 .b32) [] [2, 3] []) 0 true [] (multiRows (lmw 2 1 65 .b32)) rowGoods [] [[]] 0
    ∧ apart rowGoods ∧ checkLanes .glb (keptS (lmw 2 1 65 .b32)) (rowGoods.map (todoOf (fun x => .load .b32 (2 + x.reg) 1))) = ((keptS (lmw 2 1 65 .b32)), rowGoods.map (todoOf (fun x => .load .b32 (2 + x.reg) 1)), []) := by
  unfold laneAccessOk apart; refine ⟨?_, ?_, ?_⟩ <;> decide +kernel
theorem test_vatom_witness : laneAccessOk (mS id) (mS id) (lmw 2 1 8 .s32) (memUses (lmw 2 1 8 .s32) [2] [2] []) 2 false [2] (oneRow (lmw 2 1 8 .s32) 4) (goods 4) [] [[], []] 0
    ∧ apart (goods 4) ∧ checkLanes .glb (mS id) ((goods 4).map (todoOf (fun x => .rmw .add .s32 false 0 0 0 (some (128 + x.lane))))) = ((mS id), (goods 4).map (todoOf (fun x => .rmw .add .s32 false 0 0 0 (some (128 + x.lane)))), []) := by
  unfold laneAccessOk apart; refine ⟨?_, ?_, ?_⟩ <;> decide +kernel
theorem test_nmatom_witness : laneAccessOk (mS id) (mS id) (lmw 2 5 0 .s32) (memUses (lmw 2 5 0 .s32) [2] [] []) 2 false [2] (oneRow (lmw 2 5 0 .s32) 4) (goods 4) [] [[], []] 0
    ∧ apart (goods 4) ∧ checkLanes .nma (mS id) ((goods 4).map (todoOf (fun _ => .store []))) = ((mS id), (goods 4).map (todoOf (fun _ => .store [])), []) := by
  unfold laneAccessOk apart; refine ⟨?_, ?_, ?_⟩ <;> decide +kernel
theorem test_vst_special_witness : laneAccessOk (mS id) (mS id) (lmw 656 1 0 .z32) (memUses (lmw 656 1 0 .z32) [] [] []) 1 false [656] (oneRow (lmw 656 1 0 .z32) 4) (goods 4) [] [[], []] 0
    ∧ apart (goods 4) ∧ checkLanes .glb (mS id) ((goods 4).map (todoOf (fun _ => .store []))) = ((mS id), (goods 4).map (todoOf (fun _ => .store [])), []) := by
  unfold laneAccessOk apart; refine ⟨?_, ?_, ?_⟩ <;> decide +kernel

/-- A stack access below SLIM fails its check, and an address outside the canonical form is a page fault of its lane. -/
theorem test_vld_fault_witness : let w := lmw 2 1 0 .f32
    let s := mS fun g => { g with m := [(1, 1)], k := [(0, 0x100000000000000)] }
    let x : LaneAcc := ⟨0, 0, 0x100000000000000, 4⟩
    s.laneChecks (memUses w [] (lmRegs w) (lmEven w)) false false = none ∧ s.badLanes (memUses w [] (lmRegs w) (lmEven w)) [w.vo] 1 = 0
      ∧ s.accessChecks (lmPath w) 0 (oneRow w 4 (memEnv s w [[]])).flatten = none
      ∧ s.land (lmPath w) 0 (oneRow w 4 (memEnv s w [[]])).flatten = (s, .ok [] false [(x, 6, 0)])
      ∧ ((mS fun g => { g with k := [(0, 0x102)] }).accessChecks (lmPath w) 0 (oneRow w 4 (memEnv (mS fun g => { g with k := [(0, 0x102)] }) w [[]])).flatten)
          = some (.misaligned, 0x102, 3) := by decide +kernel
theorem test_nmfence_witness : (mS fun g => { g with nmPending := 2 }).laneChecks Uses.empty false false = none
    ∧ (mS fun g => { g with nmPending := 2 }).mustWait Uses.empty = false ∧ (mS fun g => { g with nmPoison := true }).g.nmPending = 0
    ∧ (∀ r ∈ ({ n3 with vd := 500, aux := 0xFFE } : L3).rpfList, r < 128 ∧ (mS id).g.pending r = false ∨ 128 ≤ r) := by decide +kernel
/-- The team of slot 0 holds its core’s matrix unit; v1 and v2 of lanes 0 and 1 hold positions and values. -/
def accS (f : Group → Group) : State :=
  { queueS with groups := (mS fun g => f { g with v := [(64, 5), (65, 6), (128, 7), (129, 8)] }).groups }
theorem test_accumulator_witness : let w : L3 := { w3 with vd := 3, va := 1, vb := 2, mreg := 1 }
    let s := accS id
    laneStart s (L3uses w false [(w.va, false)] []) ⟨3, false, 1, 0⟩ 1 [w.va] [(1, [List.replicate 32 7])] [[]] 0
      ∧ s.laneChecks (L3uses w false [(w.va, false), (w.vb, false)] []) false true = none
      ∧ s.badLanes (L3uses w false [(w.va, false), (w.vb, false)] []) [w.va, w.vb] 1 = 0 ∧ s.accReserved 0 0 = false ∧ s.accBusy 0 0 = false
      ∧ (s.coreAt 0).mx.poison.getLsbD 0 = false ∧ (laneEnv s [[], []] 1).actives = [0, 1]
      ∧ ([0, 1].map fun k => ((laneEnv s [[], []] 1).src 1 w.vb false k).toNat) = [7, 8]
      ∧ 16383 < ((laneEnv (accS fun g => { g with v := [(64, 16384)] }) [[]] 1).src 0 w.va false 0).toNat := by
  unfold laneStart; decide +kernel

/-! ### Near-memory programs -/

/-- SDUE 0 of stack 0 runs a program of command 3, its page 0 translated. -/
def nmS (f : NmProg → NmProg) : State :=
  let s := doneS 5 []
  { s with hbmStacks := [(0, { Stack.init with sdue := [(0, f { fetchProg with cmd := 3 })] })], cur := { s.cur with stack := 0, sdue := 0, stream := .sdue } }
def nmP (l : Store Byte) : NmProg := { fetchProg with cmd := 3, w := l }

theorem test_near_memory_arithmetic_witness : (nmS id).prog? = some (nmP []) ∧ 8 ≤ na.ty.bits ∧ EType.bits (EType.ofCode (na.imm.extractLsb' 0 4)) = 32
    ∧ imageReject (BitVec.ofNat 8192 (ofBytes (wideBytes (nmP [(34, 16), (36, 1)]) 0 ++ wideBytes (nmP [(34, 16), (36, 1)]) 1))) = none
    ∧ evalImage (BitVec.ofNat 8192 (2 ^ 276 + 2 ^ 288)) false (FVal.zero false) ≠ .trap ∧ imageReject (BitVec.ofNat 8192 1) ≠ none
    ∧ imageReject (BitVec.ofNat 8192 (2 ^ 276 + 2 ^ 288 + 3 * 2 ^ 264)) = none
    ∧ evalImage (BitVec.ofNat 8192 (2 ^ 276 + 2 ^ 288 + 3 * 2 ^ 264)) false .qnan = .trap := by decide +kernel
theorem test_near_memory_access_witness : let s := nmS id
    let w := s.progWho (nmP [])
    let l : List Piece := [⟨0x800, 0x800, 0, 64⟩]
    s.landRange w 0 0x800 64 = (s, .ok l) ∧ s.landRange w 1 0x800 64 = (s, .ok l) ∧ s.landRange w 2 0x800 64 = (s, .ok l) ∧ s.pieceRefused l = none ∧ s.writesHeld l 0 0 = false
      ∧ s.piecesHeld l 0 0 = false ∧ readPieces s l = (s, List.replicate 64 0, none)
      ∧ s.landRange w 0 0x800 2048 = (s, .ok [⟨0x800, 0x800, 0, 2048⟩]) ∧ s.landRange w 0 0x800 4 = (s, .ok [⟨0x800, 0x800, 0, 4⟩])
      ∧ ({ nmP [] with locks := [(0x800, 1)] }.locks.find? fun y => y.1 == 0x800) = some (0x800, 1) := by decide +kernel
theorem test_near_memory_end_witness : let s := nmS id
    s.landRange (s.progWho (nmP [])) 1 120 8 = (s, .ok [⟨120, 120, 0, 8⟩]) ∧ (s.ecmds.find? fun y => y.id == 3) = some (ecmd 5 [])
      ∧ (ecmd 5 []).recIndex = none ∧ (ecmd 5 []).kind ≠ 3 ∧ (ecmd 5 []).tok ≠ 0 := by decide +kernel
theorem test_near_memory_start_witness : let st : Stack := { Stack.init with queue := [(1, nmP [])] }
    let s : State := { nmS id with hbmStacks := [(0, st)] }
    let here : State := { s with cur := { s.cur with stack := 0, sdue := 1, stream := .sdue } }
    let s0 : State := ((here.setStack 0 { st with queue := st.queue.erase (1, nmP []) }).setProg (nmP [])).asContext 0
    here.prog? = none ∧ (st.queue.find? fun q => q.1 == 1) = some (1, nmP []) ∧ s.launchHeld (nmP []) = false
      ∧ s0.landRange (s0.progWho (nmP [])) 0 0 128 = (s0, .ok [⟨0, 0, 0, 128⟩]) ∧ s0.piecesHeld [⟨0, 0, 0, 128⟩] 0 1 = false
      ∧ readPieces s0 [⟨0, 0, 0, 128⟩] = (s0, List.replicate 128 0, none) := by decide +kernel
theorem test_near_memory_events_witness : let at_ : NmAtom := ⟨0x100, 0x100, .s32, 0, 5, 0, 0, 0, 0, 0⟩
    let s : State := { nmS id with hbmStacks := [(0, { Stack.init with atoms := [at_] })] }
    let s3 := (s.asServed 0 0).setStack 0 { s.stackAt 0 with atoms := [] }
    (s.stackAt 0).atoms[0]? = some at_ ∧ s.rowHeld 0x100 4 32 0 = false ∧ s.noShadow 0x100 4 = false ∧ s.lockedOut 0 0 0 0 false 0x100 4 true = false ∧ s3.checkRead 0x100 4 = (s3, none)
      ∧ ((({ s3 with marks := [(0x100, .of .poisoned)] } : State).checkRead 0x100 4).2 = some .poison)
      ∧ ({ nmS (fun p => { p with waiting := some (0, 1, .z32) }) with time := 2 ^ 20 } : State).prog?
          = some { nmP [] with waiting := some (0, 1, .z32) } := by decide +kernel

/-! ### Records and grids -/

/-- Four tables from address 0x100000 that map page 0 of context 0 on frame 0, for all of frames 0 to 31; its record region at 0x400,
and bytes of page 0. -/
def tableMem : List Host.Cell :=
  [(0x100000, 1), (0x100001, 0x20), (0x100002, 0x10), (0x102000, 1), (0x102001, 0x40), (0x102002, 0x10), (0x104000, 1), (0x104001, 0x60),
   (0x104002, 0x10), (0x106000, 0xF3)]
def recS (l : List Host.Cell) : State :=
  { State.reset with
    mem := l ++ tableMem
    frames := [(0, .g0)]
    ctxs := [(0, { Ctx.init with
      created := true
      desc := BitVec.ofNat 1024 (0x100000 * 2 ^ 64)
      ranges := BitVec.ofNat 512 (32 * 2 ^ 36)
      almBase := 0x400
      almRecords := 16 })] }
/-- Record 1, as the bytes of memory give it. -/
def rec1 (l : List Host.Cell) : BitVec 512 := BitVec.ofNat 512 ((recS l).readN 0x440 64)

theorem test_record_witness : recordAt (recS [(0x440, 1), (0x444, 1)]) 0 1 0x440 (rec1 [(0x440, 1), (0x444, 1)])
    ∧ recDep (rec1 [(0x440, 1), (0x444, 1)]) = 1 ∧ recState (rec1 [(0x440, 1), (0x444, 1)]) = 1
    ∧ recDep (rec1 []) = 0 ∧ recState (rec1 [(0x444, 0x72)]) = 2 ∧ recBad (rec1 [(0x444, 0x72)]) = true := by
  unfold recordAt readable
  refine ⟨⟨?_, ?_, ?_, ?_, ?_, ?_, ?_, ?_⟩, ?_, ?_, ?_, ?_, ?_⟩
  case refine_5 =>
    have hk : ((recS [(0x440, 1), (0x444, 1)]).asContext 0).cur.key = none := by decide +kernel
    have hc : ((recS [(0x440, 1), (0x444, 1)]).asContext 0).cipher = [] := by decide +kernel
    intro i _
    rw [hk, hc]
    exact fun x h => nomatch h
  all_goals decide +kernel
/-- An empty task; and a copy whose operand block stands at 0x500. -/
theorem test_record_checks_witness : let s : State := (recS [(0x444, 0x42)]).setCtx 0 { (recS []).ctxAt 0 with checks := [1] }
    1 ∈ (s.ctxAt 0).checks ∧ (s.touch 0 (recDesc (rec1 [(0x444, 0x42)])) 32).cur.rowWait = s.cur.rowWait
      ∧ s.heldFor 0x440 64 = false ∧ (1 ∉ ((recS []).ctxAt 0).checks) := by decide +kernel
theorem test_record_check_witness : recKind (rec1 [(0x444, 0x42)]) = 4 ∧ recBad (rec1 [(0x444, 0x42)]) = false ∧ recNsucc (rec1 [(0x444, 0x42)]) = 0
    ∧ ((recS [(0x444, 0x42)]).recordState 0 1 3).deviceFlat 0 ((recS [(0x444, 0x42)]).recordVa 0 1) = some 0x440
    ∧ (let l : List Host.Cell := [(0x444, 0x22), (0x449, 5), (0x509, 0x10), (0x510, 64)]
       recBad (rec1 l) = false ∧ recKind (rec1 l) = 2 ∧ (recS l).deviceRead 0 (recDesc (rec1 l)) 32 = some (0x1000 * 2 ^ 64 + 64 * 2 ^ 128)
         ∧ blockFails 2 (blockWords (BitVec.ofNat 512 (0x1000 * 2 ^ 64 + 64 * 2 ^ 128))) = none) := by decide +kernel
def entry (record : BitVec 512) : QEntry := ⟨0, 1, none, record, BitVec.ofNat 512 (64 * 2 ^ 128), 0, none⟩
theorem test_record_events_witness : (let s : State := { recS [] with time := 2 ^ 24, dies := [(0, { Die.init with q1 := [entry 0] })] }
      s.queueAt 0 1 = [entry 0] ∧ (entry 0).since + (s.dieAt 0).age ≤ s.dieCycles 0 ∧ s.queueAt 0 2 = []
        ∧ ({ s with time := 0 } : State).dieCycles 0 < (entry 0).since + (s.dieAt 0).age)
    ∧ (let s : State := { recS [] with bar2 := some 0 }
       s.deviceFlat 0 (s.recordVa 0 1) = some 0x440 ∧ s.inBar2 0x444 4 = true ∧ (recS []).inBar2 0x444 4 = false ∧ (s.ctxAt 0).audit = none
         ∧ s.devicePieces 0 (s.recordVa 0 1 + 4) 4 = some [(0x444, 4)])
    ∧ (let s : State := { recS [] with ctxs := [(0, { (recS []).ctxAt 0 with batch := some (0x800, 0, 0x900) })] }
       (s.ctxAt 0).batch = some (BitVec.ofNat 64 0x800, 0, BitVec.ofNat 64 0x900)) := by decide +kernel

/-- A grid of one team of class 2 for record 1, with a kernel descriptor, and its resident team on core 0. -/
def grid1 (desc : Nat) : Grid := { newGrid 0 1 (BitVec.ofNat 512 (2 * 2 ^ 42 + 2 ^ 256)) (BitVec.ofNat 512 desc) [] none [] with placed := 1 }
def team1 : Team := { teamOf1 with grid := 1 }
def gridS (x : Grid) (g : Group) : State :=
  { recS [(0x444, 0x24)] with grids := [(1, x)], teams := [(teamKey 1 0, team1)], groups := [(0, { g with team := teamKey 1 0 })] }
theorem test_retirement_witness : let g : Group := { Group.init with st := .exited }
    let s := gridS (grid1 0) g
    gridKey 0 1 = 1 ∧ s.team? (teamKey 1 0) = some team1 ∧ s.grid? 1 = some (grid1 0) ∧ s.canRetire (teamKey 1 0) team1 (grid1 0) = true
      ∧ descCommit (grid1 0).desc = false ∧ (grid1 0).retired + 1 = recTeams (grid1 0).record
      ∧ (s.deviceFlat 0 (recStatblk (grid1 0).record)).isSome = true
      ∧ (gridS (grid1 0x2000) g).canRetire (teamKey 1 0) team1 (grid1 0x2000) = true ∧ descCommit (grid1 0x2000).desc = true
      ∧ s.canRetire (teamKey 1 0) team1 { grid1 0 with record := BitVec.ofNat 512 (2 * 2 ^ 42 + 2 * 2 ^ 256) } = true := by decide +kernel
/-- A commit task that has retired with one window of one line; the same with a bad word in it; and a faulted one without a team. -/
theorem test_commit_witness : let l : CLine := ⟨0, 1, 7⟩
    let x : Grid := { grid1 0x2000 with retired := 1, sealed := [⟨0, 0, 4096, [l]⟩] }
    let s : State := { gridS x Group.init with teams := [], groups := [] }
    x.retired = recTeams x.record ∧ s.eqx.st ≠ .hold ∧ (∀ y ∈ x.sealed, s.sealedBad y = false) ∧ s.deviceFlat 0 (l.addr * 128) = some 0
      ∧ descAud x.desc = false ∧ ({ s with marks := [(vaultFlat 0 4096, .of .uncorrectable)] } : State).sealedBad ⟨0, 0, 4096, [l]⟩ = true
      ∧ s.gridTeams 1 = [] ∧ recTries (rec1 [(0x444, 0x24)]) = 0 ∧ recRetry (rec1 [(0x445, 0x10)]) = 1 ∧ team1.saving = false := by decide +kernel
/-- Only core 0 is present. -/
def oneCore : Capability := { Capability.full with cores := 1 }
theorem test_vigil_witness : let x : Grid := { grid1 0x16000 with placed := 0, replayOf := some (1, 2), cores := [(0, 16)] }
    let s : State := { recS [] with cap := oneCore, grids := [(replayKey 0 1, x)], ctxs := [(0, { (recS []).ctxAt 0 with audit := some 0x900 })] }
    s.grid? (replayKey 0 1) = some x ∧ x.placed < recTeams x.record ∧ s.blockedTo 3 = false ∧ (∀ l < 4, s.resumptions l = [])
      ∧ (match s.placeTeam (replayKey 0 1) 0 { x with desc := BitVec.ofNat 512 (2 ^ 20 + 2 ^ 13) } (fun c => x.origin 0 != some (clusterOf c)) with
          | .ok _ => true | _ => false) = true
      ∧ (s.ctxAt 0).audit = some (BitVec.ofNat 64 0x900) ∧ s.devicePieces 0 (0x900 + 1) 1 = some [(0x901, 1)] := by decide +kernel
/-- Record 1 of class 2 with one group of width 32, and a copy, at the head of level 0. -/
theorem test_placement_witness : let d : BitVec 512 := BitVec.ofNat 512 (1 + 2 ^ 8 + 2 * 2 ^ 10 + 2 ^ 20)
    let e : QEntry := { entry (BitVec.ofNat 512 (2 * 2 ^ 42 + 2 ^ 256)) with desc := d }
    let s : State := { recS [] with cap := oneCore, dies := [(0, { Die.init with q0 := [e] })] }
    let x := s.entryGrid e
    let s0 := s.setGrid 1 x
    (∀ l < 4, s.resumptions l = []) ∧ s.dieOrder 0 = [] ++ 0 :: [1, 2, 3, 4, 5, 6, 7] ∧ s.queueAt 0 0 = [e] ∧ recKind e.record = 0 ∧ recClass e.record = 2
      ∧ descCommit x.desc = false ∧ s0.candidates (needOf 0 d) [] (fun _ => true) = [0] ∧ chooseSlots (s0.freeSlots 0) 32 1 = some [0]
      ∧ s0.placeWindows 0 (descVault d) 0 = some (0, 0) ∧ s0.stackSlots (s0.descFor 0 0) 0 1 = some [none]
      ∧ (match s0.blocksFor 0 [128] with | .ok _ [0] => true | _ => false) = true
      ∧ recKind (entry (BitVec.ofNat 512 (2 * 2 ^ 36))).record = 2 ∧ (copyPack (blockWords (entry 0).desc)).len = 64
      ∧ s.lockRoom (recordLocks s 2 0 (blockWords (entry 0).desc)) = true := by decide +kernel
def headS : State := { recS [] with dies := [(0, { Die.init with q0 := [entry 0] })] }
theorem test_heads_witness (l : Nat) : headS.blockedAt l = false := by
  match l with
  | 0 => decide +kernel
  | 1 => decide +kernel
  | 2 => decide +kernel
  | n + 3 =>
    have h : ∀ d, headS.isBlocking d (n + 3) = false := by
      intro d
      have q : headS.queueAt d (n + 3) = [] := by
        unfold State.queueAt State.dieAt Die.queue sget lookupKey headS
        by_cases e : d = 0 <;> simp [e, Die.init, eq_comm, lookupKey]
      unfold State.isBlocking; rw [q]
    exact List.any_eq_false.2 fun d _ => by simp [h d]
theorem test_head_blocking_witness : let e : QEntry := { entry 0 with failing := some 0 }
    let s : State := { recS [] with
      time := 2 ^ 24
      dies := [(0, { Die.init with q0 := [e] })]
      ctxs := [(0, { (recS []).ctxAt 0 with preemptOn := true })] }
    s.queueAt 0 0 = [e] ∧ s.isBlocking 0 0 = true ∧ (s.ctxAt e.ctx).preemptOn = true
      ∧ (let u : State := { s with teams := [(teamKey 1 0, team1)], grids := [(1, grid1 0)] }
         u.gangRoom [teamKey 1 0] = false ∧ u.gangRoom [] = true) := by decide +kernel
theorem test_save_witness : let g : Group := { Group.init with st := .parked }
    let t : Team := { team1 with saving := true }
    let s : State := { gridS (grid1 0) g with teams := [(teamKey 1 0, t)] }
    let gs := ((s.teamGroups (teamKey 1 0)).filter fun p => p.2.savable).map Prod.snd
    s.team? (teamKey 1 0) = some t ∧ s.team? (teamKey (replayKey 0 1) 0) = none ∧ s.aborting t = false ∧ s.teamDrained (teamKey 1 0) t = true
      ∧ t.mcast = 0 ∧ s.grid? t.grid = some (grid1 0) ∧ s.framesFor (teamKey 1 0) t ≤ 2
      ∧ (let u : State := { s with ctxs := [(0, { s.ctxAt 0 with savePool := [(8, .g0), (9, .g0)] })] }
         u.framesFor (teamKey 1 0) t ≤ (u.freeSaves 0).length) ∧ s.teamLevel t < 4 ∧ gs ≠ [] := by decide +kernel
/-- The same of a concurrent grid, whose team is a gang. -/
theorem test_restore_gang_witness : let i : SaveImage := ⟨[{ Group.init with st := .saved, width := 32, team := teamKey 1 0 }], none, [(3, 9)], [], []⟩
    let t : Team := { team1 with image := some i, wsize := 4096 }
    let e : QEntry := { entry (BitVec.ofNat 512 (2 ^ 256)) with team := some (teamKey 1 0) }
    let s : State := { gridS { grid1 0 with record := BitVec.ofNat 512 (2 ^ 256) } Group.init with
      teams := [(teamKey 1 0, t)], groups := [], dies := [(0, { Die.init with q0 := [e] })] }
    s.resumptions 0 = [(0, e)] ∧ s.gangOf (teamKey 1 0) t = [teamKey 1 0] := by decide +kernel
theorem test_restore_witness : let i : SaveImage := ⟨[{ Group.init with st := .saved, width := 32, team := teamKey 1 0 }], none, [(3, 9)], [], []⟩
    let t : Team := { team1 with image := some i, wsize := 4096 }
    let s : State := { gridS (grid1 0) Group.init with teams := [(teamKey 1 0, t)], groups := [], dies := [(0, { Die.init with q0 := [{ entry (grid1 0).record with team := some (teamKey 1 0) }] })] }
    s.resumptions 0 = [] ∧ s.dieOrder 0 = [] ++ 0 :: [1, 2, 3, 4, 5, 6, 7] ∧ s.queueAt 0 0 = [{ entry (grid1 0).record with team := some (teamKey 1 0) }] ∧ s.gangOf (teamKey 1 0) t = [teamKey 1 0] ∧ swf 0 i.bytes = true ∧ (∀ c ∈ i.bytes, c.1 < t.wsize)
      ∧ chooseSlots (s.freeSlots 0) 32 1 = some [0] ∧ s.placeWindows 0 4096 (descWindow (s.teamDesc t)) = some (0, 0) ∧ s.ctxOk 0 (s.teamCtx t) = true
      ∧ s.corePresent 0 = true ∧ (s.setTeam (teamKey 1 0) { t with image := none }).rowsHeld 0 ≤ 3968
      ∧ (match s.blocksFor 0 (blockSizes i.groups) with | .ok _ [0] => true | _ => false) = true := by decide +kernel

/-! ### Service -/

/-- An access of a lane word without data. -/
def noData : Access := newAccess .glb ⟨true, 0, [], []⟩ ⟨false, false⟩ 0 []
/-- A load of two elements in flight before an access without data; a held lane; a page request of a parked group. -/
def load2 : Access := { noData with
  writes := [(64, 5), (65, 6)]
  arrived := false }
def serveS (f : Group → Group) : State := { State.reset with groups := [(0, f { Group.init with st := .active })] }
theorem test_completion_witness : let s := serveS fun g => { g with inflight := [load2, noData] }
    nthAccess .glb 0 (s.groupAt 0 0).inflight = some load2 ∧ load2.todo = [] ∧ noData.todo = [] ∧ (load2.writes.map Prod.fst).Nodup ∧ nthAccess .glb 1 (s.groupAt 0 0).inflight = some noData
      ∧ noData.arrived = true ∧ (∀ b ∈ (s.groupAt 0 0).inflight, b.done = false) ∧ (s.groupAt 0 0).live = true
      ∧ ({ noData with bad := some ⟨1, 2, 3, .poison, 0, 0⟩ } : Access).cmd = none := by decide +kernel
theorem test_assist_witness : let s := serveS fun g => { g with st := .parked, assistRec := some ⟨[(64, 5)], [], [], true⟩ }
    (s.groupAt 0 0).assistRec = some ⟨[(64, 5)], [], [], true⟩ ∧ (s.groupAt 0 0).stopped = false ∧ s.team? (s.groupAt 0 0).team = none := by decide +kernel
theorem test_walk_witness : let q : WalkReq := ⟨.scalar 0 0, 0x1000, 0, true, 0⟩
    let s : State := { serveS id with cores := [(0, { Core.init with missed := [q] })] }
    (s.coreAt 0).walk = none ∧ s.canAsk 0 q = true ∧ s.misses 0 q = true
      ∧ (let s : State := { (serveS fun g => { g with st := .parked, pageReq := some q }) with priOut := [(0, q)] }
         (s.groupAt 0 0).pageReq = some q ∧ (s.priOut.find? fun y => y.2.who == .scalar 0 0) = some (0, q) ∧ q.who = .scalar 0 0)
      ∧ s.pasidBusy 0 = false ∧ (serveS fun g => { g with inflight := [noData] }).pasidBusy 0 = true := by decide +kernel

/-! ### The cut, the fabric and power -/

/-- A cut in a state, with frame 1 in SNAP. -/
def cutS (st : CutState) : State := { State.reset with eqx := { Equinox.init with st := st, snap := [(1, 0, 65536)] }, cap := { Capability.full with hbmStacks := 3 } }
theorem test_cut_witness : let s := cutS .hold
    let t : State := { s with eqx := { s.eqx with acks := [0] } }
    s.cap.hbmStacks.getLsbD 1 = true ∧ 0 ∉ s.eqx.acks ∧ (∀ j, j < 32 → t.cap.hbmStacks.getLsbD j = true → j = 1 ∨ j ∈ t.eqx.acks) ∧ t.eqx.held = []
      ∧ eqxNflow t.eqx.req = 0 ∧ (∃ y ∈ s.eqx.snap, y.1 = 1) ∧ (∀ y ∈ s.eqx.shadow, y.frame ≠ 1)
      ∧ ((cutS .draining).eqx.snap.find? fun p => p.1 == 1) = some (1, 0, 65536) ∧ (cutS .draining).encOn = false ∧ (cutS .draining).marks = [] := by decide +kernel
theorem test_shadow_room_witness : (cutS .cut).eqx.shadow.length < Config.shadowFrames := Nat.succ_pos _
/-- A request whose set of one flow, at address 0, names flow 0. -/
theorem test_marker_witness : let s : State := { cutS .cut with eqx := { (cutS .cut).eqx with req := BitVec.ofNat 512 (2 ^ 320) } }
    s.cutFlows s.eqx.req = [0] ∧ 0 ∉ s.eqx.markers ∧ s.eqx.snap ≠ [] := by decide +kernel
/-- Flow 7 reaches frames 0 to 15. -/
def flowS (frozen : Bool) : State := { State.reset with flows := [(7, ⟨BitVec.ofNat 576 (7 + 16 * 2 ^ 100), true, frozen, 0, 0, [], [], []⟩)] }
theorem test_message_witness : let m : FabricMsg := ⟨7, 0, 0, 0x1000, [1, 2], false⟩
    ((flowS false).flowAt 7).setUp = true ∧ ((flowS true).flowAt 7).frozen = true ∧ (flowS false).outOfRange m = false
      ∧ (flowS false).outOfRange { m with addr := 0x100000 } = true ∧ (flowS false).rowHeld 0x1000 2 32 0 = false ∧ m.seq = ((flowS false).flowAt 7).expect ∧ (flowS false).eqx.st = .idle
      ∧ ({ flowS false with flows := [(7, ⟨BitVec.ofNat 576 (7 + 2 ^ 13 + 16 * 2 ^ 100), true, false, 0, 0, [], [], []⟩)], eqx := { Equinox.init with st := .hold } } : State).holdsBack m
          = true := by decide +kernel
theorem test_message_waits_witness : (flowS false).messageWaits ⟨7, 0, 0, 0x1000, [1, 2], false⟩ = false := by
  simp [State.messageWaits, State.rowHeld, State.noShadow, flowS, State.reset, Equinox.init]
/-- An unordered flow that is frozen keeps what came before. -/
theorem test_frozen_waits_witness : let m : FabricMsg := ⟨7, 0, 0, 0x1000, [1, 2], false⟩
    let s : State := { State.reset with flows := [(7, ⟨BitVec.ofNat 576 (7 + 16 * 2 ^ 100), true, true, 0, 0, [m], [], []⟩)] }
    (s.flowAt 7).waiting.head? = some m ∧ (s.flowAt 7).ordered = false ∧ s.outOfRange m = false ∧ s.holdsBack m = false := by decide +kernel
theorem test_sample_witness : State.reset.time < State.reset.sampledAt + millisecond
    ∧ State.reset.sampledAt + millisecond ≤ ({ State.reset with time := 2700000 } : State).time := by decide +kernel
theorem test_firmware_witness : let i : FwImage := ⟨[1], 0, true⟩
    [i].all State.reset.fw.passes = true ∧ [{ i with signed := false }].all State.reset.fw.passes = false ∧ State.reset.fw.inForce [] = [] := by decide +kernel
theorem test_power_witness : let s : State := { State.reset with time := 4096, dies := [(1, { Die.init with clock := 8 })] }
    (s.dieAt 1).sag = false ∧ (s.dieAt 1).clock < 16 ∧ (s.dieAt 1).clockSince + 1024 ≤ s.dieCycles 1 ∧ ({ Die.init with sag := true } : Die).sag = true
      ∧ (s.stackAt 0).bloomSince + ({ s with time := 2 ^ 40 } : State).filterPeriod ≤ 2 ^ 40 := by decide +kernel
theorem test_scrub_witness : let s : State := { State.reset with frames := [(frameOf dramFirst, .g0)] }
    s.rowHeld dramFirst 32 32 0 = false ∧ s.encOn = false ∧ s.marksIn dramFirst 32 = [] ∧ dramFirst % 65536 = 0 ∧ stackOf dramFirst = 0 := by
  refine ⟨by simp [State.rowHeld, State.reset], rfl, by simp [State.marksIn, State.reset], ?_, by simp [stackOf]⟩
  unfold dramFirst Config.stackBytes; omega

/-! ### The mailbox -/

def mbS : State := recS []
/-- A command in slot 3 with a buffer of so many bytes. -/
def mbH (len : Nat) : MbHdr := ⟨3, 7, 0, BitVec.ofNat 32 len, 0⟩
theorem test_slot_witness : (mbH 128).rz = 0 ∧ badBuffer (mbH 128) 128 = false ∧ badBuffer (mbH 72) 72 = false ∧ badBuffer (mbH 64) 64 = false
    ∧ badBuffer (mbH 32) (4 * 8) = false ∧ (⟨mbH 128, 1, some 0, mbS.inArgs⟩ : MbCmd).ready mbS ∧ mbS.frozenCommand 4 = false ∧ mbS.namedGangs 0 none = []
    ∧ (let s := mbS.mbTake (mbH 128) 4 (some 0) ⟨0, none⟩; s.mbBehind 4 (some 0) = true ∧ (⟨{ mbH 0 with slot := 4 }, 2, some 0, s.inArgs⟩ : MbCmd).placed s) := by
  unfold MbCmd.ready MbCmd.placed; decide +kernel
theorem test_context_witness : (mbS.ctxAt 0).created = true ∧ (State.reset.ctxAt 63).created = false ∧ ctxDescBad 0 = false
    ∧ ctxDescBad (BitVec.ofNat 1024 (2 ^ 23)) = true ∧ mbS.throughPages 0 (mbS.tlbPages 0 none) = false ∧ mbS.eqx.st ≠ .hold
    ∧ State.reset.throughPages 0 (State.reset.tlbPages 0 none) = false
    ∧ (∀ p ∈ mbS.groups, p.2.st = .free ∨ p.2.ctx ≠ 0 ∨ p.1 % 48 = 47) := by
  decide +kernel
theorem test_resident_witness : let s : State := { mbS with groups := [(3, { Group.init with st := .active })] }
    ∃ p ∈ s.groups, p.2.st ≠ .free ∧ p.2.ctx = 0 ∧ p.1 % 48 ≠ 47 := ⟨_, List.mem_cons_self, by decide, by decide, by decide⟩
def noStack : State := { State.reset with cap := { Capability.full with hbmStacks := 0 } }
/-- The first frame of module DRAM can be formatted; frames 0 to 31 are the context’s, frame 32 is not. -/
theorem test_frames_witness : mbS.formattable (frameOf dramFirst) = true ∧ (∀ i, i < 32 → mbS.owned 0 (0 + i) 1 = true) ∧ mbS.owned 0 32 1 = false
    ∧ noStack.formattable 7 = false ∧ (∀ i, i < 0 → mbS.formattable (31 + i) = true) := by
  refine ⟨?_, by decide +kernel, by decide +kernel, ?_, fun i h => absurd h (Nat.not_lt_zero i)⟩
  · have h : frameOf dramFirst * 65536 = dramFirst := by unfold frameOf dramFirst Config.stackBytes; omega
    have h1 : mbS.cap = Capability.full := by decide +kernel
    have h2 : ~~~(BitVec.extractLsb' 0 128 Capability.full.pcs) = 0 := by decide +kernel
    have h3 : Capability.full.hbmStacks.getLsbD 0 = true := by decide +kernel
    have h4 : mbS.encOn = false := rfl
    simp [State.formattable, State.inCarveOut, h, h1, h4, isDram, stackOf, h2, h3]
  · simp [State.formattable, noStack]
def scopeWords : List W32 := [0, 1, 2, 3, 4, 5, 6, 7]
theorem test_tables_all : scopeWords.all (fun w => !scopeWordBad w) = true := by decide +kernel
theorem test_tables_witness : scopeWords.length % 8 = 0 ∧ 31 + scopeWords.length / 8 ≤ 32 ∧ ∀ w ∈ scopeWords, scopeWordBad w = false :=
  ⟨by decide, by decide, fun w h => by simpa using List.all_eq_true.mp test_tables_all w h⟩
theorem test_exponent_witness : ∀ n, some 20 = some n → n ≤ 20 := fun n h => by cases h; exact Nat.le_refl 20
theorem test_age_witness : ∀ n, 10 ≤ n → n ≤ 24 → (0 : Nat) ≠ 2 ^ n :=
  fun n _ _ h => absurd h.symm (Nat.pos_iff_ne_zero.mp (Nat.pow_pos (n := n) (Nat.succ_pos 1)))
theorem test_release_witness : let s : State := { mbS with
      groups := [(47 * 48 + 3, { Group.init with st := .frozen, team := 9 })], ecmds := [⟨4, 1, [], 0, 0, 0, 0, true, 1, true, none, none⟩]
      teams := [(9, team1)] }
    (s.groupAt 47 (s.slotOf 47 3)).st = .frozen ∧ (s.groupAt 47 2).st ≠ .halted ∧ (s.groupAt 47 2).st ≠ .frozen ∧ (∃ y ∈ s.ecmds, y.id = 4 ∧ y.frozen = true)
      ∧ s.team? 9 = some team1 ∧ s.performedIn 9 (fun i => i == 0) = true ∧ ((flowS true).flowAt 7).frozen = true ∧ ((flowS false).flowAt 7).frozen = false := by decide +kernel
/-- A halted group whose store has not performed. -/
theorem test_release_waits_witness : let s : State := { mbS with groups := [(3, { Group.init with
      st := .halted, team := 9, inflight := [{ noData with todo := [⟨0, 0, 0, 0, 8, .store [], 0⟩] }] })] }
    (s.groupAt 0 (s.slotOf 0 3)).st = .halted ∧ s.performedIn (s.groupAt 0 3).team (fun i => i == (s.groupAt 0 3).gidx) = false := by decide +kernel
theorem test_flow_witness : bitsOf (BitVec.ofNat 576 (2 ^ 36)) 54 10 = 0 ∧ (BitVec.ofNat 576 (2 ^ 36)).extractLsb' 36 18 &&& State.reset.cap.links ≠ 0
    ∧ (BitVec.ofNat 576 0).extractLsb' 36 18 &&& State.reset.cap.links = 0 := by decide +kernel
theorem test_arm_witness : let s : State := { mbS with domains := [(0, ⟨[], [], 0⟩)] }
    let r : BitVec 512 := BitVec.ofNat 512 (5 * 2 ^ 32 + 5)
    eqxBad r = false ∧ (lookupKey (eqxDomain r) s.domains).isSome = true ∧ s.armRefused 0 = true ∧ (cutS .armed).eqx.st = .armed
      ∧ (cutS .armed).eqx.held = [] ∧ (cutS .done).eqx.st = .done ∧ (cutS .cut).eqx.st ≠ .armed := by decide +kernel
/-- Page 0 of context 0, with frame 5 in the pool. -/
def migS : State := { mbS with ctxs := [(0, { mbS.ctxAt 0 with pool := [(5, .g0)] })] }
theorem test_migrate_witness : (migS.entryOf 0 0 = some (0, 0xF3, 0x106000) ∧ migS.entryOf 0 (2 ^ 56) = none ∧ pteV 0xF3 = true ∧ pteLeaf 0xF3 = true
    ∧ pteLoc 0xF3 = 0 ∧ pteSz 0xF3 = 0 ∧ migS.malformed 0 (migS.ctxAt 0).desc 0xF3 0 = false ∧ migS.owned 0 (pteFrame 0xF3) 1 = true
    ∧ (0xF3 : Word).getLsbD 10 = false ∧ migS.marks = [] ∧ migS.rowHeld (pteFrame 0xF3 * 65536) 65536 32 0 = false
    ∧ migS.throughPages 0 [(frameOf 0, 1)] = false ∧ migS.cipher = [] ∧ migS.eqx.queued = []) ∧ migS.poolRun 0 1 .g0 = some 5 := by
  refine ⟨by decide +kernel, ?_⟩
  have h : (((migS.ctxAt 0).pool.filter fun p => p.2 == Granule.g0).map Prod.fst).filter
      (fun f => f % 1 == 0 && (List.range 1).all fun i => (((migS.ctxAt 0).pool.filter fun p => p.2 == Granule.g0).map Prod.fst).contains (f + i)) = [5] := by decide +kernel
  unfold State.poolRun
  dsimp only
  rw [h]
  simp [Nat.mod_one]

/-! ### The invariant of memory -/

/-- Two listed bytes, and a supply sag next. -/
theorem test_canonical_witness : let s : State := { State.reset with mem := [(3, 7), (9, 1)], moves := [⟨0, .event (.supplySagTrip 2), 0, false, 0, []⟩] }
    s.MemoryOk ∧ step s = .next (s.begin.setDie 2 { s.begin.dieAt 2 with clock := 8, sag := true, clockSince := s.begin.dieCycles 2 }) :=
  ⟨by unfold State.MemoryOk; decide +kernel, rfl⟩

end Sys2Proof.Tests
end

section
/-! The fetch of a scalar word (R18, R223, R235). -/

namespace Sys2Proof.Proofs

open Sys2Proof.Machine

/-! ### Fetching a scalar word -/

/-- Four bytes and the number that they are, lowest first (R5). -/
theorem seenN_four (s : State) (a : Nat) :
    s.seenN a 4 = (s.seen a).toNat + 256 * (s.seen (a + 1)).toNat + 65536 * (s.seen (a + 2)).toNat
      + 16777216 * (s.seen (a + 3)).toNat := by
  show ofBytes [s.seen (a + 0), s.seen (a + 1), s.seen (a + 2), s.seen (a + 3)] = _
  simp only [ofBytes, Nat.add_zero]
  omega

/-- The walker's words come from their physical addresses, without a translation (R223). -/
theorem fetch_of_walker {s : State} (hs : s.cur.stream = .scalar) (hw : s.g.mode = .walker) :
    s.fetch = (s, .word (s.readN (s.g.spc.toNat % 2 ^ 52) 4)) := by
  simp [State.fetch, hs, hw]

/-- A scalar word that does not straddle a page is one part of the fetch. -/
theorem fetch_of_onePage {s : State} (hs : s.cur.stream = .scalar) (hw : s.g.mode ≠ .walker)
    (hp : s.g.spc.toNat % 65536 ≤ 65532) : s.fetch = s.fetchPart s.streamWho 3 s.g.spc.toNat 4 := by
  have hk : min 4 (65536 - s.g.spc.toNat % 65536) = 4 := by omega
  simp [State.fetch, State.fetchWord, hs, hw, hk]

/-- A part whose page is translated, which no row lock, no refusal of the host and no mark stops, reads its bytes. -/
theorem fetchPart_reads {s s1 : State} {w : Who} {kind va n flat loc : Nat} (ht : s.translate w kind va = (s1, .ok flat loc))
    (hh : s1.heldFor flat n = false) (hr : loc = 3 → Config.hostRefuses s.tick = false) (hc : s1.checkRead flat n = (s1, none)) :
    s.fetchPart w kind va n = (s1, .word (s1.seenN flat n)) := by
  have hl : (loc = 3 && Config.hostRefuses s.tick) = false := by simpa using hr
  simp [State.fetchPart, ht, hl, hh, hc]

/-- A part whose translation fails fails at its first byte (R235). -/
theorem fetchPart_fails {s s1 : State} {w : Who} {kind va k l : Nat} (n : Nat) (ht : s.translate w kind va = (s1, .fault k l)) :
    s.fetchPart w kind va n = (s1, .fault k l va) := by
  simp [State.fetchPart, ht]

/-- Settles O10: the walker’s words directly, any other through the one part that its page makes. -/
theorem fetchReadsTheWord : Obligations.FetchReadsTheWord := by
  intro s s1 flat loc hs
  refine ⟨fetch_of_walker hs, fun hw hp => ⟨fun ht hh hr hc => ?_, fun k l ht => ?_⟩⟩
  · rw [fetch_of_onePage hs hw hp, fetchPart_reads ht hh hr hc, seenN_four]
  · rw [fetch_of_onePage hs hw hp, fetchPart_fails 4 ht]

end Sys2Proof.Proofs
end

section
/-! Every operation of the model keeps the canonical form of memory: the shared operations first, then the instructions and the
events, in the order of the model's files. A lemma `ok_f` says so of `f`. -/

namespace Sys2Proof.Proofs

open Sys2Proof.Machine Sys2Proof.Laws

-- Elaborated in parallel, so many short theorems would start more threads than the memory limit leaves room for.
set_option Elab.async false

/-! ### What carries a state -/

/-- A result leaves memory in canonical form where it is a next state. -/
def NextOk : Result → Prop
  | .next t => t.MemoryOk
  | _ => True

/-- Where the outcome of a computation is a value, its state `f` keeps the form; where it is a stop, the stop's states do. -/
def StopsOk {ε α : Type} (stop : ε → Prop) (f : α → State) : Except ε α → Prop
  | .ok a => (f a).MemoryOk
  | .error e => stop e

theorem StopsOk.ok {ε α : Type} {stop : ε → Prop} {f : α → State} {r : Except ε α} {a : α} (h : StopsOk stop f r) (e : r = .ok a) :
    (f a).MemoryOk := by rw [e] at h; exact h

theorem StopsOk.error {ε α : Type} {stop : ε → Prop} {f : α → State} {r : Except ε α} {x : ε} (h : StopsOk stop f r)
    (e : r = .error x) : stop x := by rw [e] at h; exact h

theorem stopsOk_ite {ε α : Type} {stop : ε → Prop} {f : α → State} {a b : Except ε α} {c : Prop} [Decidable c] (ha : StopsOk stop f a)
    (hb : StopsOk stop f b) : StopsOk stop f (if c then a else b) := by
  split
  · exact ha
  · exact hb

/-- The state of a pair that a match has taken apart. -/
theorem ok_of_fst {α : Type} {p : State × α} {t : State} {x : α} (h : p.1.MemoryOk) (e : p = (t, x)) : t.MemoryOk := by
  rw [e] at h; exact h

/-- A change of other fields. -/
theorem ok_same {s t : State} (h : s.MemoryOk) (e : t.mem = s.mem := by rfl) : t.MemoryOk := ok_of_mem e h

theorem ok_ite {a b : State} {c : Prop} [Decidable c] (ha : a.MemoryOk) (hb : b.MemoryOk) : (if c then a else b).MemoryOk := by
  split
  · exact ha
  · exact hb

theorem ok_ite_fst {α : Type} {a b : State × α} {c : Prop} [Decidable c] (ha : a.1.MemoryOk) (hb : b.1.MemoryOk) :
    (if c then a else b).1.MemoryOk := by
  split
  · exact ha
  · exact hb

theorem nextOk_ite {a b : Result} {c : Prop} [Decidable c] (ha : NextOk a) (hb : NextOk b) : NextOk (if c then a else b) := by
  split
  · exact ha
  · exact hb

/-- A fold over a state with more beside it. -/
theorem ok_foldl_fst {α β : Type} (l : List α) (f : State × β → α → State × β) (hf : ∀ q x, q.1.MemoryOk → (f q x).1.MemoryOk)
    {q : State × β} (h : q.1.MemoryOk) : (l.foldl f q).1.MemoryOk := by
  induction l generalizing q with
  | nil => exact h
  | cons x r ih => exact ih (hf q x h)

section
variable {s : State} (h : s.MemoryOk)
include h

/-! ### The parts of the state (Machine/Ops) -/

theorem ok_setGroupAt {core slot : Nat} {g : Group} : (s.setGroupAt core slot g).MemoryOk := h
theorem ok_setG {g : Group} : (s.setG g).MemoryOk := h
theorem ok_modG {f : Group → Group} : (s.modG f).MemoryOk := h
theorem ok_setCore {c : Nat} {x : Core} : (s.setCore c x).MemoryOk := h
theorem ok_setDie {d : Nat} {x : Die} : (s.setDie d x).MemoryOk := h
theorem ok_setStack {k : Nat} {x : Stack} : (s.setStack k x).MemoryOk := h
theorem ok_setCtx {c : Nat} {x : Ctx} : (s.setCtx c x).MemoryOk := h
theorem ok_setFlow {f : Nat} {x : Flow} : (s.setFlow f x).MemoryOk := h
theorem ok_setTeam {k : Nat} {t : Team} : (s.setTeam k t).MemoryOk := h
theorem ok_setGrid {k : Nat} {x : Grid} : (s.setGrid k x).MemoryOk := h
theorem ok_event {e : MgmtEvent} : (s.event e).MemoryOk := h
theorem ok_send {o : Out} : (s.send o).MemoryOk := h
theorem ok_nextPc : s.nextPc.MemoryOk := h
theorem ok_jump {w : Word} : (s.jump w).MemoryOk := h
theorem ok_withKey {k : Option Nat} : (s.withKey k).MemoryOk := h
theorem ok_asContext {ctx : Nat} : (s.asContext ctx).MemoryOk := h
theorem ok_asServed {core ctx : Nat} : (s.asServed core ctx).MemoryOk := h
theorem ok_writeNext {d : SReg} {v : Word} : (s.writeNext d v).MemoryOk := h

theorem ok_faultGrid {g : Group} : (s.faultGrid g).MemoryOk := by
  unfold State.faultGrid
  repeat' split
  all_goals exact h

theorem ok_walkerTrap : s.walkerTrap.MemoryOk := by
  unfold State.walkerTrap
  dsimp only
  split <;> exact h

theorem ok_trapEntry {lane : Bool} {c : Cause} {i : TrapInfo} : (s.trapEntry lane c i).MemoryOk :=
  ok_ite (ok_walkerTrap h) (ok_ite (ok_faultGrid (ok_setG h)) (ok_ite (ok_faultGrid (ok_setG h)) (ok_setG h)))

theorem ok_haltGroup {core slot : Nat} {lane : Bool} {epcl : Word} {b : Bad} : (s.haltGroup core slot lane epcl b).MemoryOk :=
  ok_event (ok_faultGrid (ok_setGroupAt h))

theorem ok_freezeGroup {core slot acc : Nat} {va pa : Word} : (s.freezeGroup core slot acc va pa).MemoryOk :=
  ok_event (ok_faultGrid (ok_setGroupAt h))

theorem ok_haltLane {b : Bad} : (s.haltLane b).MemoryOk := ok_haltGroup h
theorem ok_trapScalar {c : Cause} {va : Option Word} {p : Word} : NextOk (s.trapScalar c va p) := ok_trapEntry h
theorem ok_trapS {c : Cause} : NextOk (s.trapS c) := ok_trapEntry h
theorem ok_trapLane {c : Cause} {va : Option Word} {m p : Word} : NextOk (s.trapLane c va m p) := ok_trapEntry h
theorem ok_haltScalar {b : Bad} : NextOk (s.haltScalar b) := nextOk_ite (ok_walkerTrap h) (ok_haltGroup h)
theorem ok_protection {acc : Nat} {va pa : Word} : NextOk (s.protection acc va pa) := nextOk_ite (ok_walkerTrap h) (ok_freezeGroup h)

theorem ok_quadChecked {a : SReg} {k : State → Result} (hk : NextOk (k s)) : NextOk (quadChecked a k s) :=
  nextOk_ite (ok_trapS h) (nextOk_ite (ok_trapS h) hk)

/-! ### Marks, translation, windows (Machine/Memory) -/

theorem ok_markRanges {l : List (Nat × Nat)} : (s.markRanges l).MemoryOk := (markRanges_same s l).ok h
theorem ok_poisonRange {a n : Nat} : (s.poisonRange a n).MemoryOk := h
theorem ok_checkAt {l : List Nat} : (s.checkAt l).1.MemoryOk := ok_of_mem (checkAt_mem s l) h
theorem ok_checkRead {a n : Nat} : (s.checkRead a n).1.MemoryOk := ok_of_mem (checkRead_mem s a n) h

theorem ok_install {w : Who} {t : TlbEntry} : (s.install w t).MemoryOk := ok_ite (ok_setCore (ok_setDie h)) (ok_setDie h)

theorem ok_fill {w : Who} {kind va level : Nat} {e : Word} : (s.fill w kind va level e).1.MemoryOk := by
  unfold State.fill
  split
  · exact ok_install h
  · exact h

theorem ok_noteMiss {w : Who} {kind va : Nat} : (s.noteMiss w kind va).MemoryOk := ok_ite h (ok_setCore h)
theorem ok_noteHost {pasid page : Nat} : (s.noteHost pasid page).MemoryOk := ok_ite h h

theorem ok_lookup {w : Who} {kind va : Nat} : (s.lookup w kind va).1.MemoryOk := by
  unfold State.lookup
  split
  · exact h
  dsimp only
  generalize (if isGroupReq w.req = true then _ else none : Option TlbEntry) = l1
  cases l1 with
  | some t => exact h
  | none =>
    dsimp only
    split
    · exact h
    · split
      · exact ok_setCore h
      · split
        · exact ok_noteMiss h
        · split
          · exact ok_fill h
          · exact h
          · exact h
          · exact ok_event h

theorem ok_translate {w : Who} {kind va : Nat} : (s.translate w kind va).1.MemoryOk := by
  unfold State.translate
  split
  · exact ok_noteHost (ok_of_fst (ok_lookup h) ‹_›)
  · exact ok_lookup h

theorem ok_translatePages {w : Who} {kind : Nat} {l : List Nat} : (s.translatePages w kind l).1.MemoryOk := by
  induction l generalizing s with
  | nil => exact h
  | cons p r ih => exact ih (ok_translate h)

theorem ok_bufferAll {team : Nat} {l : List (Nat × List Byte)} : (s.bufferAll team l).MemoryOk := by
  unfold State.bufferAll
  split
  · exact h
  · exact ok_markRanges (ok_setTeam h)

theorem ok_bufferBytes {g : Group} {va : Nat} {l : List Byte} : (s.bufferBytes g va l).MemoryOk := ok_bufferAll h

theorem ok_auditReads {team : Nat} {win : List CLine} {l : List (Nat × Nat × Nat)} : (s.auditReads team win l).MemoryOk := by
  unfold State.auditReads
  repeat' split
  all_goals exact h

theorem ok_noteReads {g : Group} {l : List (Nat × Nat × Nat)} : (s.noteReads g l).MemoryOk := ok_auditReads h

/-! ### The device's own accesses, records, page requests (Machine/Records) -/

theorem ok_warm {ctx va : Nat} : (s.warm ctx va).MemoryOk := by
  unfold State.warm
  split <;> exact h

theorem ok_touch {ctx va n : Nat} : (s.touch ctx va n).MemoryOk := ok_ite (ok_warm (ok_warm h)) (ok_warm (ok_warm h))

theorem ok_unlessHeld {t : State} (ht : t.MemoryOk) : (s.unlessHeld t).MemoryOk := ok_ite h ht

theorem ok_orHeld {r : Result} (hr : NextOk r) : NextOk (s.orHeld r) := by
  cases r with
  | next t => exact ok_unlessHeld h hr
  | fault _ => trivial
  | refused _ => trivial

theorem ok_writeAs {ctx va : Nat} {l : List Byte} : (s.writeAs ctx va l).MemoryOk := by
  unfold State.writeAs
  split
  · exact h
  · exact ok_touch (ok_foldl_fst _ _ (fun q p hq => ok_store p.1 _ false hq) h)

theorem ok_deviceWrite {ctx va : Nat} {l : List Byte} : (s.deviceWrite ctx va l).MemoryOk := ok_withKey (ok_writeAs (ok_asContext h))
theorem ok_touchRecord {ctx index : Nat} : (s.touchRecord ctx index).MemoryOk := ok_ite (ok_touch h) h
theorem ok_writeHead {ctx index : Nat} {r : BitVec 512} : (s.writeHead ctx index r).MemoryOk := ok_deviceWrite h
theorem ok_toCheck {ctx index : Nat} : (s.toCheck ctx index).MemoryOk := ok_setCtx h

theorem ok_recordState {ctx index st : Nat} : (s.recordState ctx index st).MemoryOk := by
  unfold State.recordState
  split
  · exact ok_writeHead h
  · exact h

theorem ok_recordFailed {ctx index cause : Nat} : (s.recordFailed ctx index cause).MemoryOk := by
  unfold State.recordFailed
  split
  · exact ok_ite (ok_event (ok_writeHead h)) (ok_writeHead h)
  · exact h

theorem ok_decrement {ctx index : Nat} : (s.decrement ctx index).MemoryOk := by
  unfold State.decrement
  split
  · exact ok_event (ok_touchRecord h)
  · exact ok_ite (ok_event (ok_touchRecord h)) (ok_ite (ok_toCheck (ok_writeHead h))
      (ok_ite (ok_recordFailed (ok_writeHead h)) (ok_writeHead h)))

theorem ok_decrementAll {ctx list n : Nat} : (s.decrementAll ctx list n).MemoryOk := by
  induction n with
  | zero => exact h
  | succ n ih =>
    unfold State.decrementAll
    dsimp only
    split
    · exact ok_decrement (ok_touch ih)
    · exact ok_event ih

theorem ok_recordDone {ctx index : Nat} : (s.recordDone ctx index).MemoryOk := by
  unfold State.recordDone
  split
  · exact ok_ite (ok_event (ok_decrementAll (ok_writeHead h))) (ok_decrementAll (ok_writeHead h))
  · exact h

theorem ok_firstTouch {ctx core die va : Nat} : (s.firstTouch ctx core die va).1.MemoryOk := by
  unfold State.firstTouch
  split
  · exact h
  · split
    · exact h
    · split
      · exact h
      · split
        · exact h
        · exact ok_withKey (ok_store _ _ _ (ok_withKey (ok_setCtx h)))

theorem ok_askHost {p : Nat × WalkReq} : (s.askHost p).MemoryOk := h
theorem ok_sendPage {core : Nat} {r : WalkReq} : (s.sendPage core r).MemoryOk := ok_ite (ok_askHost h) h

theorem ok_nextPage {pasid : Nat} : (s.nextPage pasid).MemoryOk := by
  unfold State.nextPage
  split <;> exact h

/-! ### The ends of commands (Machine/Commands) -/

theorem ok_serveAts : s.serveAts.MemoryOk := ok_of_mem (serveAts_mem s) h

theorem ok_modTeamGroup {team gidx : Nat} {f : Group → Group} : (s.modTeamGroup team gidx f).MemoryOk := by
  unfold State.modTeamGroup
  split <;> exact h

theorem ok_raiseIn {team gidx n : Nat} {f : BitVec 7} : (s.raiseIn team gidx f n).MemoryOk := by
  unfold State.raiseIn
  split
  · exact ok_modTeamGroup h
  · repeat' split
    all_goals exact h

theorem ok_releaseLocks {id : Nat} : (s.releaseLocks id).MemoryOk := h
theorem ok_dropProgram {id : Nat} : (s.dropProgram id).MemoryOk := h

theorem ok_dropRefs {c : ECmd} : (s.dropRefs c).MemoryOk := by
  refine ok_ite (ok_foldl _ _ (fun t i ht => ?_) h) h
  split <;> exact ht

theorem ok_tellEnd {c : ECmd} {status : Nat} {cause : Option Nat} : (s.tellEnd c status cause).MemoryOk := by
  unfold State.tellEnd
  split
  · exact ok_modTeamGroup h
  · exact ok_ite (ok_recordDone h) (ok_recordFailed h)

theorem ok_endCause {c : ECmd} {status : Nat} {cause : Option Nat} : (s.endCause c status cause).MemoryOk := 
  ok_tellEnd (ok_releaseLocks (ok_same (ok_dropRefs h)))

theorem ok_endCommand {c : ECmd} {status : Nat} : (s.endCommand c status).MemoryOk := ok_endCause h

theorem ok_freezeEngine {c : ECmd} {acc : Nat} {va pa : Word} : (s.freezeEngine c acc va pa).MemoryOk := 
  ok_unlessHeld h (ok_event (ok_tellEnd (ok_same (ok_dropProgram (id := c.id) (ok_dropRefs h)))))

theorem ok_freezeMatrix {core ctx acc : Nat} {m : MCmd} {va pa : Word} : (s.freezeMatrix core m ctx acc va pa).MemoryOk := h

theorem ok_freezeRequester {r : WalkReq} {pa : Word} : (s.freezeRequester r pa).MemoryOk := by
  unfold State.freezeRequester
  split
  · exact ok_freezeGroup h
  · exact ok_freezeGroup h
  · split
    · exact ok_freezeEngine h
    · split
      · split
        · exact ok_freezeMatrix h
        · exact h
      · exact h

/-! ### Waits and joins (Machine/Waits) -/

theorem ok_lookUp {ctx : Nat} {w : Word} : (s.lookUp ctx w).MemoryOk := ok_ite (ok_warm h) h
theorem ok_wait {w : Wait} : NextOk (s.wait w) := h
theorem ok_stall {r : Stall} : NextOk (s.stall r) := h
theorem ok_laneStall {w : LaneWait} : (s.laneStall w).MemoryOk := h

theorem ok_join {f : State → Result} (hf : ∀ t : State, t.MemoryOk → NextOk (f t)) : NextOk (s.join f) :=
  nextOk_ite (hf _ (ok_modG h)) (ok_stall h)

theorem ok_joinAll {f : State → Result} (hf : ∀ t : State, t.MemoryOk → NextOk (f t)) : NextOk (s.joinAll f) :=
  nextOk_ite (nextOk_ite (hf _ (ok_modG h)) (ok_stall h)) (ok_stall h)

theorem ok_joinCommand {f : State → Result} (hf : ∀ t : State, t.MemoryOk → NextOk (f t)) : NextOk (s.joinCommand f) :=
  nextOk_ite (nextOk_ite (hf _ (ok_modG h)) (ok_stall h)) (ok_stall h)

/-! ### Lane words (Machine/Operands) -/

theorem ok_laneReject {c : Cause} {mreg : Nat} : NextOk (s.laneReject c mreg) := nextOk_ite (ok_protection h) (ok_trapLane h)
theorem ok_laneStalled {w : LaneWait} : (s.laneStalled w).MemoryOk := ok_ite h (ok_laneStall h)
theorem ok_laneNext {u : Uses} : (s.laneNext u).MemoryOk := h
theorem ok_writeArow {l : List (Nat × W32)} : (s.writeArow l).MemoryOk := h

theorem ok_setQueues {q : Store (List (List W32))} : (s.setQueues q).MemoryOk := by
  unfold State.setQueues
  split <;> exact h

theorem ok_popBad {l : List VReg} : (s.popBad l).MemoryOk := by
  unfold State.popBad
  split <;> exact h

theorem ok_deliver {c : Consumer} {q : Store (List (List W32))} {broken : Bool} {elems : List Elem} {regs : List (Nat × Elem)}
    {masks : List (Nat × Word)} {flags : Flags} {upd : Group → Group} {t : State}
    (e : s.deliver c q broken elems regs masks flags upd = some t) : t.MemoryOk := by
  unfold State.deliver at e
  dsimp only at e
  split at e
  · cases e
  · cases e
    exact ok_modG (ok_ite (ok_writeArow (ok_setQueues h)) (ok_setQueues h))

theorem ok_emptyFn {l : List Nat} : (s.emptyFn l).MemoryOk := h
theorem ok_setAside {u : Uses} {a : Option (Nat × Nat)} {upd : Group → Group} : (s.setAside u a upd).MemoryOk := h
theorem ok_heldBack {u : Uses} {c : Consumer} {a : Bool} {upd : Group → Group} : (s.heldBack u c a upd).MemoryOk :=
  ok_ite h (ok_setAside h)

/-- A lane word waits, traps, halts its group, or delivers its results: none of these writes memory. -/
theorem ok_runLane {u : Uses} {mreg : Nat} {reserved : Bool} {c : Consumer} {fields : List VReg} {f : Env → LaneDo} :
    NextOk (runLane u mreg reserved c fields f s) := by
  unfold runLane
  dsimp only
  split
  · exact ok_laneReject h
  split
  · exact ok_laneStalled h
  split
  · exact ok_laneStalled h
  split
  · exact ok_haltLane h
  split
  · exact ok_trapLane (ok_modG h)
  · exact ok_haltLane (ok_emptyFn h)
  · exact ok_haltLane h
  · split
    · next e =>
      split at e
      · cases e
      · exact ok_laneNext (ok_deliver (ok_popBad h) e)
    · exact ok_heldBack h

end

end Sys2Proof.Proofs
end

section
/-! The canonical form of memory (continued): fetching, the streams, pieces of memory, accesses, and the scalar words. -/

namespace Sys2Proof.Proofs

open Sys2Proof.Machine Sys2Proof.Laws

set_option Elab.async false

section
variable {s : State} (h : s.MemoryOk)
include h

/-! ### Fetching (Machine/Fetch, Machine/Streams) -/

theorem ok_fetchPart {w : Who} {kind va n : Nat} : (s.fetchPart w kind va n).1.MemoryOk := by
  unfold State.fetchPart
  have ht := ok_translate h (w := w) (kind := kind) (va := va)
  split
  · exact ok_of_fst ht ‹_›
  · exact ok_of_fst ht ‹_›
  · exact ok_of_fst ht ‹_›
  · next s1 _ _ e =>
    have h1 : s1.MemoryOk := ok_of_fst ht e
    split
    · exact h1
    · split
      · exact h1
      · split <;> exact ok_of_fst (ok_checkRead h1) ‹_›

theorem ok_fetchWord {w : Who} {kind va n : Nat} : (s.fetchWord w kind va n).1.MemoryOk := by
  unfold State.fetchWord
  dsimp only
  split
  · exact ok_fetchPart h
  · split
    · next s1 _ e =>
      have h1 : s1.MemoryOk := ok_of_fst (ok_fetchPart h) e
      split
      · exact ok_of_fst (ok_fetchPart h1) ‹_›
      · exact ok_fetchPart h1
    · exact ok_fetchPart h

theorem ok_fetchPast {base n a : Nat} : (s.fetchPast base n a).1.MemoryOk := by
  unfold State.fetchPast
  dsimp only
  split
  · split
    · split
      · exact ok_of_fst (ok_fetchWord h) ‹_›
      · exact h
    · exact ok_fetchWord h
  · exact h

theorem ok_fetch : s.fetch.1.MemoryOk := by
  unfold State.fetch
  split
  · split
    · exact h
    · exact ok_fetchWord h
  · dsimp only
    split
    · split
      · exact ok_fetchPast h
      · exact ok_fetchWord h
    · exact ok_fetchWord h
  · split
    · exact h
    · exact ok_fetchWord h

theorem ok_setProg {p : NmProg} : (s.setProg p).MemoryOk := h

theorem ok_progFail {cause : Nat} : (s.progFail cause).MemoryOk := by
  unfold State.progFail
  split
  · exact h
  · dsimp only
    split
    · exact ok_ite (ok_event (ok_endCause (ok_dropProgram h))) (ok_unlessHeld h (ok_endCause (ok_dropProgram h)))
    · exact ok_dropProgram h

theorem ok_progFault {kind acc va : Nat} : (s.progFault kind acc va).MemoryOk := by
  unfold State.progFault
  split
  · exact h
  · dsimp only
    split
    · split
      · next e =>
        have h1 := ok_of_fst (ok_firstTouch h) e
        exact ok_ite (ok_setProg (ok_sendPage h1)) (ok_progFail h1)
      · exact ok_of_fst (ok_firstTouch h) ‹_›
    · exact ok_ite (ok_ite (ok_setProg (ok_sendPage h)) (ok_progFail h)) (ok_progFail h)

theorem ok_progFreeze {acc va pa : Nat} : (s.progFreeze acc va pa).MemoryOk := by
  unfold State.progFreeze
  split
  · exact h
  · exact ok_freezeRequester h

theorem ok_rejectWord {c : Cause} : NextOk (rejectWord c s) := by
  unfold rejectWord
  split
  · exact ok_trapS h
  · exact ok_laneReject h
  · exact ok_progFail h

theorem ok_execFetchFault : NextOk (execFetchFault s) := by
  unfold execFetchFault
  split
  · next e =>
    have h1 := ok_of_fst (ok_fetch h) e
    split
    · exact ok_trapScalar h1
    · exact ok_trapLane h1
    · exact ok_progFault h1
  · exact ok_of_fst (ok_fetch h) ‹_›

theorem ok_fetchProtected {va pa : Nat} : NextOk (fetchProtected va pa s) := by
  unfold fetchProtected
  split
  · exact ok_progFreeze h
  · exact ok_protection h

theorem ok_fetchBad {c : Cause} {va pa : Nat} : NextOk (fetchBad c va pa s) := by
  unfold fetchBad
  split
  · exact ok_haltScalar h
  · exact ok_haltLane h
  · exact ok_progFail h

theorem ok_fetchWaits {r : Stall} {w : LaneWait} : NextOk (s.fetchWaits r w) := by
  unfold State.fetchWaits
  split
  · exact ok_stall h
  · exact ok_laneStalled h
  · exact h

theorem ok_noteMask {w : Nat} : (s.noteMask w).MemoryOk := h

/-! ### Pieces of memory (Machine/EngMem) -/

theorem ok_landParts {w : Who} {kind : Nat} {l : List (Nat × Nat)} : (s.landParts w kind l).1.MemoryOk := by
  induction l generalizing s with
  | nil => exact h
  | cons p r ih =>
    unfold State.landParts
    have ht := ok_translate h (w := w) (kind := kind) (va := p.1)
    split
    · next e =>
      have h1 := ih (ok_of_fst ht e)
      split
      · exact ok_of_fst h1 ‹_›
      · exact h1
    all_goals exact ok_of_fst ht ‹_›

theorem ok_landRange {w : Who} {kind va n : Nat} : (s.landRange w kind va n).1.MemoryOk := ok_landParts h

theorem ok_readPieces {l : List Piece} : (readPieces s l).1.MemoryOk := by
  induction l generalizing s with
  | nil => exact h
  | cons p r ih => exact ih (ok_checkRead h)

theorem ok_writePieces {l : List Piece} {b : List Byte} : (writePieces s l b).MemoryOk := by
  induction l generalizing s b with
  | nil => exact h
  | cons p r ih => exact ih (ok_store _ _ _ h)

theorem ok_poisonAt {l : List Nat} : (s.poisonAt l).MemoryOk := ok_ite h (ok_writeCells _ _ _ h)

theorem ok_poisonPieces {l : List Piece} {b : List Bool} : (poisonPieces s l b).MemoryOk := by
  induction l generalizing s b with
  | nil => exact h
  | cons p r ih => exact ih (ok_poisonAt h)

theorem ok_writeBad {l : List Piece} {b : List Byte} {c : List Bool} : (writeBad s l b c).MemoryOk := by
  induction l generalizing s b c with
  | nil => exact h
  | cons p r ih => exact ih (ok_store _ _ _ h)

theorem ok_putPoisoned {l : List Piece} {b : List Byte} {c : List Bool} : (putPoisoned s l b c).MemoryOk :=
  ok_ite (ok_poisonPieces (ok_writeBad h)) (ok_writePieces h)

theorem ok_landSpace {w : Who} {v : Option (Nat × Nat)} {kind va n : Nat} : (s.landSpace w v kind va n).1.MemoryOk := by
  unfold State.landSpace
  split
  · exact h
  · exact ok_landRange h

theorem ok_keepMiss {t : State} {core : Nat} : (s.keepMiss t core).MemoryOk := h

theorem ok_addLocks {ctx cmd : Nat} {l : List LockReq} : (s.addLocks ctx cmd l).MemoryOk := by
  unfold State.addLocks
  exact ok_foldl l _ (fun _ _ ht => ok_setDie ht) h

theorem ok_cmdFault {c : ECmd} {user : Bool} {kind acc va : Nat} : (s.cmdFault c user kind acc va).MemoryOk := by
  unfold State.cmdFault
  dsimp only
  split
  · split
    · next e =>
      have h1 := ok_of_fst (ok_firstTouch h) e
      exact ok_ite (ok_same (ok_sendPage h1)) (ok_endCause h1)
    · exact ok_of_fst (ok_firstTouch h) ‹_›
  · exact ok_ite (ok_ite (ok_same (ok_sendPage h)) (ok_endCause h)) (ok_endCause h)

/-! ### Accesses that perform (Machine/Access) -/

theorem ok_checkLanes {path : Path} {l : List Todo} : (checkLanes path s l).1.MemoryOk := by
  induction l generalizing s with
  | nil => exact h
  | cons x r ih =>
    unfold checkLanes
    split <;> exact ih (ok_of_fst (ok_checkAt h) ‹_›)

theorem ok_performLoads {path : Path} {l : List Todo} : (performLoads path l s).1.MemoryOk := by
  unfold performLoads
  split
  next e =>
    have h1 := ok_of_fst (ok_checkLanes h) e
    exact ok_ite h1 (ok_noteReads h1)

theorem ok_performStores {l : List Todo} : (performStores l s).1.MemoryOk := ok_storeAll _ h

theorem ok_rmwAt {op : AtomOp} {t : EType} {ftz : Bool} {flat : Nat} {v c : W32} : (rmwAt op t ftz flat v c s).1.MemoryOk :=
  ok_modG (ok_store _ _ _ h)

theorem ok_rmwAll {l : List Todo} : (rmwAll l s).1.MemoryOk := by
  induction l generalizing s with
  | nil => exact h
  | cons x r ih =>
    unfold rmwAll
    split
    · exact ih (ok_modG (ok_rmwAt h))
    · exact ih h

theorem ok_performAtoms {path : Path} {l : List Todo} : (performAtoms path l s).1.MemoryOk := by
  unfold performAtoms
  split
  next e => exact ok_rmwAll (ok_of_fst (ok_checkLanes h) e)

theorem ok_performScalarAtom {x : Todo} {op : AtomOp} {n : Nat} {v c : Word} {d : SReg} :
    (performScalarAtom x op n v c d s).1.MemoryOk := by
  unfold performScalarAtom
  split
  · exact ok_of_fst (ok_checkRead h) ‹_›
  · exact ok_modG (ok_store _ _ _ (ok_of_fst (ok_checkRead h) ‹_›))

theorem ok_performList {path : Path} {l : List Todo} : (performList path l s).1.MemoryOk := by
  unfold performList
  split
  · exact h
  · split
    · exact ok_performLoads h
    · exact ok_performStores h
    · exact ok_performAtoms h
    · exact ok_performScalarAtom h

theorem ok_issueAccess {a : Access} {returns : Bool} {late : Word} {l : List Todo} : (s.issueAccess a returns late l).1.MemoryOk :=
  ok_modG (ok_performList h)

theorem ok_performLater {n j : Nat} : (s.performLater n j).MemoryOk := by
  unfold State.performLater
  split
  · exact h
  split
  · exact h
  split
  · exact h
  dsimp only
  split
  · exact ok_ite (ok_modG (ok_performList h))
      (ok_ite (ok_haltGroup (ok_modG (ok_performList h))) (ok_modG (ok_haltGroup (ok_modG (ok_performList h)))))
  · exact ok_modG (ok_performList h)

/-! ### Scalar words (Machine/ScalarAlu, Machine/ScalarMem, Machine/ScalarCtl) -/

theorem ok_scalarResult {d : SReg} {v : Word} : NextOk (scalarResult d v s) := ok_writeNext h

/-- A word with one result leaves memory alone. -/
theorem ok_aluTwoSrc {f : Word → Word → Word} {d a b : SReg} : NextOk (aluTwoSrc f d a b s) := ok_scalarResult h
theorem ok_aluOneSrc {f : Word → Word} {d a : SReg} : NextOk (aluOneSrc f d a s) := ok_scalarResult h
theorem ok_aluImm {f : Word → Word → Word} {d a : SReg} {i : BitVec 12} : NextOk (aluImm f d a i s) := ok_scalarResult h

theorem ok_scalarTrack {x : ScalarAcc} : (scalarTrack x s).MemoryOk := h

/-- A checked access goes on in a state, or has ended in a result. -/
def CheckedOk : Checked → Prop
  | .go t _ _ => t.MemoryOk
  | .done r => NextOk r

omit h in
theorem CheckedOk.go {c : Checked} (hc : CheckedOk c) {t : State} {flat loc : Nat} (e : c = .go t flat loc) : t.MemoryOk := by
  rw [e] at hc; exact hc

omit h in
theorem CheckedOk.done {c : Checked} (hc : CheckedOk c) {r : Result} (e : c = .done r) : NextOk r := by
  rw [e] at hc; exact hc

theorem ok_walkerCheck {x : ScalarAcc} : CheckedOk (walkerCheck x s) := by
  unfold walkerCheck
  dsimp only
  split
  · exact ok_walkerTrap h
  split
  · split
    · exact ok_walkerTrap h
    · exact ok_freezeRequester (ok_modG (ok_setCore h))
  split
  · exact ok_walkerTrap h
  · exact h

theorem ok_scalarCheck {x : ScalarAcc} : CheckedOk (scalarCheck x s) := by
  unfold scalarCheck
  dsimp only
  split
  · exact ok_walkerCheck h
  split
  · exact ok_trapScalar h
  split
  · exact ok_trapScalar h
  split
  · exact ok_trapScalar h
  have ht := ok_translate h (w := s.scalarWho) (kind := x.kind) (va := x.addr.toNat)
  split
  · exact ok_stall (ok_of_fst ht ‹_›)
  · exact ok_trapScalar (ok_of_fst ht ‹_›)
  · exact ok_protection (ok_of_fst ht ‹_›)
  · next e =>
    have h1 := ok_of_fst ht e
    split
    · exact ok_ite (ok_nextPc (ok_modG h1)) (ok_scalarTrack (ok_modG h1))
    · split
      · exact ok_protection h1
      · exact h1

theorem ok_scalarLoad {signed : Bool} {d a : SReg} {z : Size} {imm : BitVec 12} : NextOk (scalarLoad signed d a z imm s) := by
  unfold scalarLoad
  dsimp only
  split
  · exact (ok_scalarCheck h).done ‹_›
  · next e =>
    have h1 := (ok_scalarCheck h).go e
    split
    · exact ok_stall h1
    · split
      · exact ok_haltScalar (ok_of_fst (ok_checkAt h1) ‹_›)
      · exact ok_scalarResult (ok_noteReads (ok_of_fst (ok_checkAt h1) ‹_›))

theorem ok_scalarIssue {x : ScalarAcc} {o : Order} {returns : Bool} {t : Todo} : NextOk (scalarIssue x o returns t s) := by
  unfold scalarIssue
  dsimp only
  split
  · exact ok_haltScalar (ok_of_fst (ok_issueAccess h) ‹_›)
  · exact ok_nextPc (ok_of_fst (ok_issueAccess h) ‹_›)

theorem ok_execSt {d a : SReg} {z : Size} {imm : BitVec 12} : NextOk (execSt d a z imm s) := by
  unfold execSt
  dsimp only
  split
  · exact ok_stall h
  split
  · exact (ok_scalarCheck h).done ‹_›
  · next e =>
    have h1 := (ok_scalarCheck h).go e
    split
    · split
      · exact ok_stall h1
      · split
        · exact ok_trapScalar h1
        · exact ok_scalarTrack (ok_bufferBytes h1)
    · exact ok_scalarIssue h1

theorem ok_satom {n : Nat} {d a b : SReg} {op : AtomOp} {scope : BitVec 5} : NextOk (satom n d a b op scope s) := by
  unfold satom
  dsimp only
  split
  · exact ok_trapS h
  split
  · exact ok_stall h
  split
  · exact (ok_scalarCheck h).done ‹_›
  · exact ok_scalarIssue ((ok_scalarCheck h).go ‹_›)

theorem ok_jumpReg {t : Word} {link : Bool} : NextOk (jumpReg t link s) := nextOk_ite (ok_trapS h) (nextOk_ite h h)
theorem ok_branchIf {c : Bool} {off : BitVec 11} : NextOk (branchIf c off s) := ok_ite (ok_jump h) (ok_nextPc h)
theorem ok_execLissue {n : BitVec 6} {blk : BitVec 20} : NextOk (execLissue n blk s) := nextOk_ite (ok_stall h) h

theorem ok_execSpop {d : SReg} : NextOk (execSpop d s) := by
  unfold execSpop
  split
  · exact ok_writeNext (ok_modG h)
  · exact nextOk_ite (ok_trapS h) (ok_wait h)

end

end Sys2Proof.Proofs
end

section
/-! The canonical form of memory (continued): the group scheduler and the scalar words over the system. -/

namespace Sys2Proof.Proofs

open Sys2Proof.Machine Sys2Proof.Laws

set_option Elab.async false

section
variable {s : State} (h : s.MemoryOk)
include h

/-! ### The group scheduler (Machine/Sched) -/

theorem ok_enterVacant {core : Nat} : (s.enterVacant core).MemoryOk := by
  unfold State.enterVacant
  split <;> exact h

theorem ok_makeRoom {core need n : Nat} : (s.makeRoom core need n).MemoryOk := by
  induction n generalizing s with
  | zero => exact h
  | succ n ih =>
    unfold State.makeRoom
    split
    · exact h
    · split
      · exact h
      · exact ih (ok_setGroupAt h)

theorem ok_compact {core : Nat} : (s.compact core).MemoryOk := ok_foldl _ _ (fun _ _ ht => ok_ite ht (ok_setGroupAt ht)) h

theorem ok_execStarvationFlag {core slot : Nat} : NextOk (execStarvationFlag core slot s) := nextOk_ite (ok_setGroupAt h) h

theorem ok_execForcedSwap {core : Nat} : NextOk (execForcedSwap core s) := by
  unfold execForcedSwap
  split
  · exact h
  · exact nextOk_ite (ok_setGroupAt (ok_makeRoom h)) h

/-! ### Barriers, regroups, waits (Machine/ScalarSys) -/

theorem ok_barDone {d : SReg} : (barDone d s).MemoryOk := ok_writeNext (ok_modG h)

theorem ok_barAwait {d : SReg} {phase : Nat} : NextOk (barAwait d phase s) := by
  unfold barAwait
  split
  · exact ok_barDone h
  · exact nextOk_ite (ok_barDone (ok_setTeam h)) (ok_wait (ok_setTeam h))

theorem ok_barArrive : (barArrive s).2.MemoryOk := by
  unfold barArrive
  split <;> exact h

theorem ok_execBar {d : SReg} : NextOk (execBar d s) := by
  refine ok_joinAll h fun t ht => ?_
  split
  · exact nextOk_ite (ok_barAwait ht) (ok_trapS ht)
  · exact ok_barAwait (ok_modG (ok_barArrive ht))

theorem ok_execBararrive {d : SReg} : NextOk (execBararrive d s) :=
  ok_joinAll h fun _ ht => nextOk_ite (ok_trapS ht) (ok_writeNext (ok_barArrive ht))

theorem ok_execBarwait {d : SReg} : NextOk (execBarwait d s) := by
  refine ok_join h fun t ht => ?_
  split
  · exact ok_trapS ht
  · exact ok_barAwait ht

theorem ok_regroupTrap {c : Cause} {key : Nat} {l : List (Nat × Nat × Group)} : (regroupTrap c key l s).MemoryOk := by
  unfold regroupTrap
  refine ok_of_mem (s := List.foldl _ _ l) rfl (ok_foldl l _ (fun t p ht => ok_trapEntry (ok_same ht)) ?_)
  split <;> exact h

theorem ok_setRegroup {n : Nat} {l : List Nat} : (s.setRegroup n l).MemoryOk := by
  unfold State.setRegroup
  split <;> exact h

theorem ok_execRegroup {v : VReg} : NextOk (execRegroup v s) := by
  refine nextOk_ite (ok_trapS h) (ok_join h fun t ht => ?_)
  dsimp only
  split
  · exact ok_regroupTrap (ok_setRegroup ht)
  split
  · exact ok_wait (ok_setRegroup ht)
  split
  · exact ok_regroupTrap (ok_setRegroup ht)
  · exact ok_same (ok_setRegroup ht)

theorem ok_fenceWord : NextOk (fenceWord s) := ok_joinAll h fun _ ht => ok_nextPc ht

theorem ok_execWaitp {p : Path} {a : SReg} : NextOk (execWaitp p a s) := ok_join h fun _ ht => nextOk_ite (ok_nextPc ht) (ok_wait ht)

theorem ok_waitgEnd {d : SReg} {st : Nat} : (waitgEnd d st s).MemoryOk := ok_writeNext (ok_modG h)

theorem ok_execWaitg {d a b : SReg} : NextOk (execWaitg d a b s) := by
  refine ok_join h fun t ht => ?_
  have hl := ok_lookUp ht (ctx := t.g.ctx) (w := t.g.sreg a)
  dsimp only
  split
  · exact ok_stall ht
  split
  · exact ok_trapS hl
  · exact ok_trapS hl
  · split
    · exact ok_trapS hl
    split
    · exact ok_waitgEnd hl
    split
    · exact ok_waitgEnd hl
    split
    · exact nextOk_ite (ok_waitgEnd hl) (ok_wait (ok_modG hl))
    · exact ok_wait (ok_modG hl)

theorem ok_asGroup {core slot : Nat} : (s.asGroup core slot).MemoryOk := h
theorem ok_wake : s.wake.MemoryOk := h

theorem ok_execWaitgTimeout {core slot : Nat} : NextOk (execWaitgTimeout core slot s) := by
  unfold execWaitgTimeout
  dsimp only
  split
  · exact nextOk_ite (ok_wake (ok_waitgEnd (ok_asGroup h))) h
  · exact h

theorem ok_execYield : NextOk (execYield s) := by
  unfold execYield
  dsimp only
  split
  · exact ok_modG (ok_nextPc h)
  · exact ok_setGroupAt (ok_modG (ok_modG (ok_nextPc h)))

theorem ok_execSleep {a : SReg} : NextOk (execSleep a s) := nextOk_ite h (nextOk_ite h (nextOk_ite (ok_wait h) (ok_wait (ok_modG h))))
theorem ok_execSleepExpiry {core slot : Nat} : NextOk (execSleepExpiry core slot s) := nextOk_ite h h
theorem ok_execFnfence : NextOk (execFnfence s) := nextOk_ite (ok_stall h) h

/-! ### Registers, launches, ends of groups (Machine/ScalarSys) -/

theorem ok_racqDone {n : Nat} {rows : List Nat} : (racqDone n rows s).MemoryOk := h

theorem ok_execRacq {n : Rows} : NextOk (execRacq n s) := by
  refine ok_join h fun t ht => ?_
  dsimp only
  split
  · exact ok_trapS ht
  split
  · exact ok_trapS ht
  split
  · exact ok_racqDone ht
  split
  · exact ok_wait ht
  split
  · exact ok_racqDone (ok_compact ht)
  · exact ok_modG (ok_compact ht)

theorem ok_execRrel : NextOk (execRrel s) := ok_join h fun _ ht => nextOk_ite (ok_trapS ht) (nextOk_ite (ok_stall ht) ht)

theorem ok_execTlaunch {d a : SReg} : NextOk (execTlaunch d a s) :=
  nextOk_ite (ok_trapS h) (nextOk_ite (ok_protection h) (nextOk_ite (ok_trapS h)
    (ok_joinAll h fun _ ht => nextOk_ite (ok_stall ht) (ok_writeNext (ok_decrement ht)))))

theorem ok_leave : s.leave.MemoryOk := ok_ite (ok_faultGrid (ok_modG h)) (ok_modG h)

theorem ok_execGexit : NextOk (execGexit s) := by
  refine ok_join h fun t ht => ?_
  exact ok_leave ht

theorem ok_execTretire : NextOk (execTretire s) := ok_join h fun _ ht => ok_same (ok_leave ht)

theorem ok_execGroupExitComplete {core slot : Nat} : NextOk (execGroupExitComplete core slot s) :=
  nextOk_ite (nextOk_ite (ok_haltGroup h) (ok_setGroupAt (ok_setCore h))) h

theorem ok_eretAsk : (eretAsk s).MemoryOk := ok_ite (ok_modG (ok_sendPage h)) (ok_modG h)

theorem ok_execEret : NextOk (execEret s) := by
  refine nextOk_ite (ok_protection h) (nextOk_ite (ok_faultGrid (ok_modG h)) (nextOk_ite (ok_trapS h) (ok_join h fun t ht => ?_)))
  split
  · exact ok_modG ht
  · split
    · exact ok_eretAsk (ok_of_fst (ok_firstTouch ht) ‹_›)
    · exact ok_modG (ok_of_fst (ok_firstTouch ht) ‹_›)
  · exact ok_eretAsk ht

/-! ### The walker's words, functions, control registers (Machine/ScalarSys) -/

theorem ok_execTlbfill {a b : SReg} : NextOk (execTlbfill a b s) := by
  refine nextOk_ite (ok_protection h) (nextOk_ite (ok_trapS h) ?_)
  dsimp only
  split
  · exact ok_modG h
  · split
    · exact ok_setCore (ok_of_fst (ok_fill (ok_setCore (ok_modG h))) ‹_›)
    · exact ok_freezeRequester (ok_of_fst (ok_fill (ok_setCore (ok_modG h))) ‹_›)
    · exact ok_of_fst (ok_fill (ok_setCore (ok_modG h))) ‹_›

theorem ok_walkerIdle {core : Nat} : (s.walkerIdle core).MemoryOk := h

theorem ok_dropTlb {ctx : Nat} {va : Option Nat} : (s.dropTlb ctx va).MemoryOk := ok_foldl _ _ (fun _ _ ht => ok_walkerIdle ht) h

theorem ok_execTlbinv {a b : SReg} : NextOk (execTlbinv a b s) :=
  nextOk_ite (ok_protection h) (nextOk_ite (ok_trapS h)
    (ok_join h fun _ ht => nextOk_ite (ok_wait (ok_dropTlb ht)) (ok_nextPc (ok_dropTlb ht))))

/-- The pieces of an FLOAD: the state keeps the form, and so does the result in which it ends early. -/
theorem ok_floadPieces {va n : Nat} {l : List Nat} :
    (floadPieces va s n l).1.MemoryOk ∧ ∀ r, (floadPieces va s n l).2 = .error r → NextOk r := by
  induction l generalizing s n with
  | nil => exact ⟨h, fun r e => nomatch e⟩
  | cons p rest ih =>
    unfold floadPieces
    dsimp only
    have ht := ok_translate h (w := s.scalarWho) (kind := 0) (va := max va (p * 65536))
    split
    · next e => exact ⟨ok_of_fst ht e, fun r er => by cases er; exact ok_stall (ok_of_fst ht e)⟩
    · next e => exact ⟨ok_of_fst ht e, fun r er => by cases er; exact ok_trapScalar (ok_of_fst ht e)⟩
    · next e => exact ⟨ok_of_fst ht e, fun r er => by cases er; exact ok_protection (ok_of_fst ht e)⟩
    · next e =>
      have h1 := ok_of_fst ht e
      split
      · exact ⟨h1, fun r er => by cases er; exact ok_stall h1⟩
      split
      · exact ⟨h1, fun r er => by cases er; exact ok_protection h1⟩
      split
      · exact ⟨ok_of_fst (ih h1).1 ‹_›, fun r er => nomatch er⟩
      · exact ih h1

theorem ok_execFload {bank : Bool} {fn : BitVec 4} {a : SReg} : NextOk (execFload bank fn a s) := by
  unfold execFload
  dsimp only
  split
  · exact ok_trapScalar h
  split
  · exact ok_trapScalar h
  split
  · exact ok_trapS h
  have hp := ok_floadPieces h (va := (s.g.sreg a).toNat) (n := 1024)
    (l := pagesOf [(s.g.sreg a).toNat, (s.g.sreg a).toNat + 1023])
  split
  · next e => exact hp.2 _ (by rw [e])
  · next e =>
    have h1 := ok_of_fst hp.1 e
    split
    · exact ok_haltScalar (ok_of_fst (ok_checkAt h1) ‹_›)
    · next e2 =>
      have h2 := ok_of_fst (ok_checkAt h1) e2
      split
      · exact ok_trapScalar h2
      · exact ok_nextPc (ok_modG (ok_noteReads h2))

theorem ok_execFunctionRegisterSwitch : NextOk (execFunctionRegisterSwitch s) := by
  unfold execFunctionRegisterSwitch
  split
  · exact nextOk_ite h (ok_modG (ok_setCore h))
  · exact h

theorem ok_execLaneQueueScalarEffect : NextOk (execLaneQueueScalarEffect s) := by
  unfold execLaneQueueScalarEffect
  split <;> exact h

theorem ok_execSetfmt {a : SReg} : NextOk (execSetfmt a s) := nextOk_ite h (ok_trapS h)

theorem ok_csrWrite {r : BitVec 12} {v : Word} : (s.csrWrite r v).MemoryOk := by
  unfold State.csrWrite
  split <;> exact h

theorem ok_csrChecked {r : BitVec 12} {v : Option Word} {f : State → Result} (hf : NextOk (f s)) : NextOk (csrChecked r v f s) := by
  unfold csrChecked
  split
  · exact ok_trapS h
  split
  · exact ok_protection h
  split
  · exact nextOk_ite (ok_trapS h) hf
  · exact hf

theorem ok_execCsrr {d : SReg} {r : BitVec 12} : NextOk (execCsrr d r s) :=
  ok_csrChecked h (ok_writeNext (ok_ite (ok_modG h) h))

theorem ok_execCsrw {a : SReg} {r : BitVec 12} : NextOk (execCsrw a r s) := ok_csrChecked h (ok_nextPc (ok_csrWrite h))
theorem ok_execCsrx {d a : SReg} {r : BitVec 12} : NextOk (execCsrx d a r s) := ok_csrChecked h (ok_writeNext (ok_csrWrite h))
theorem ok_execDependenceResolved {core slot : Nat} : NextOk (execDependenceResolved core slot s) := nextOk_ite h h

end

end Sys2Proof.Proofs
end

section
/-! The canonical form of memory (continued): lane words that act at their issue, and near-memory programs. -/

namespace Sys2Proof.Proofs

open Sys2Proof.Machine Sys2Proof.Laws

set_option Elab.async false

section
variable {s : State} (h : s.MemoryOk)
include h

/-! ### Lane words that act at their issue (Machine/LaneIssue, Machine/LaneMem, Machine/LaneCtl, Machine/Pair) -/

/-- A word that acts at its issue: its act is given the state, and what issues it afterwards. -/
theorem ok_laneIssue {u : Uses} {mreg : Nat} {matrix : Bool} {fields : List VReg} {k : Env → (State → State) → Result}
    (hk : ∀ e fin, (∀ t : State, t.MemoryOk → (fin t).MemoryOk) → NextOk (k e fin)) : NextOk (laneIssue u mreg matrix fields k s) := by
  unfold laneIssue
  split
  · exact ok_laneReject h
  split
  · exact ok_laneStalled h
  split
  · exact ok_laneStalled h
  split
  · exact ok_haltLane h
  · exact hk _ _ fun t ht => ok_laneNext (ok_modG (ok_setQueues (ok_popBad ht)))

theorem ok_keepOffsets {w : LM} {e : Env} : (s.keepOffsets w e).MemoryOk := h

theorem ok_land {path : Path} {kind : Nat} {l : List LaneAcc} : (s.land path kind l).1.MemoryOk := by
  unfold State.land
  split
  · exact h
  split
  next e =>
    have h1 := ok_of_fst (ok_translatePages h) e
    split
    · exact h1
    · split <;> exact h1

theorem ok_landRows {path : Path} {kind : Nat} {l : List (List LaneAcc)} : (s.landRows path kind l).1.MemoryOk := by
  induction l generalizing s with
  | nil => exact h
  | cons row rest ih =>
    unfold State.landRows
    split
    · next e =>
      have h1 := ih (ok_of_fst (ok_land h) e)
      split
      · exact ok_of_fst h1 ‹_›
      · exact h1
    · exact ok_of_fst (ok_land h) ‹_›
    · exact ok_land h

theorem ok_faultLanes {path : Path} {kind prog : Nat} {mask : Word} {bad : List (LaneAcc × Nat × Nat)} :
    NextOk (faultLanes path kind mask prog bad s) := by
  unfold faultLanes
  split
  · exact h
  · exact ok_trapLane h

theorem ok_bufferTodos {l : List Todo} : (s.bufferTodos l).MemoryOk := ok_bufferAll h

theorem ok_queueAtoms {w : LM} {l : List Todo} : (s.queueAtoms w l).MemoryOk := by
  unfold State.queueAtoms
  exact ok_modG (ok_foldl _ _ (fun _ _ ht => ok_setStack ht) h)

theorem ok_laneAccess {w : LM} {kind : Nat} {returns all : Bool} {a : Access} {l : List Todo} {q : State × Option Bad}
    (e : laneAccess w kind returns all a l s = some q) : q.1.MemoryOk := by
  unfold laneAccess at e
  dsimp only at e
  split at e
  · split at e
    · cases e; exact ok_modG (ok_queueAtoms h)
    · cases e
  split at e
  · split at e
    · cases e; exact ok_modG (ok_bufferTodos h)
    · cases e
  split at e
  · split at e
    · cases e; exact ok_issueAccess h
    · cases e
  · cases e; exact ok_issueAccess h

theorem ok_performWord {w : LM} {kind : Nat} {returns multi tier : Bool} {good : List Landed} {l : List Todo}
    {fault : Option (State → Result)} {finish : State → State}
    (hk : ∀ k, fault = some k → ∀ t : State, t.MemoryOk → NextOk (k t)) (hf : ∀ t : State, t.MemoryOk → (finish t).MemoryOk) :
    NextOk (performWord w kind returns multi good tier l fault finish s) := by
  unfold performWord
  have h0 : (if tier then s.modG Group.tmiss else s).MemoryOk := ok_ite (ok_modG h) h
  dsimp only
  split
  · exact ok_protection h
  split
  · exact ok_laneStall h
  · next e => exact ok_haltLane (ok_laneAccess h0 e)
  · next e =>
    have h1 := ok_laneAccess h0 e
    split
    · exact hk _ rfl _ h1
    · exact hf _ h1

theorem ok_memWord {w : LM} {u : Uses} {kind : Nat} {returns multi : Bool} {data : List VReg} {rows : Env → List (List LaneAcc)}
    {acts : Env → List Landed → List Todo} : NextOk (memWord w u kind returns multi data rows acts s) := by
  refine nextOk_ite (ok_laneStalled h) (ok_laneIssue h fun e fin hf => ?_)
  have h0 : (if multi then s.keepOffsets w e else s).MemoryOk := ok_ite (ok_keepOffsets h) h
  dsimp only
  split
  · exact ok_trapLane h
  split
  · exact ok_trapLane h0
  have hl : (if multi then State.landRows (if multi then s.keepOffsets w e else s) (lmPath w) kind (rows e)
      else State.land (if multi then s.keepOffsets w e else s) (lmPath w) kind (rows e).flatten).1.MemoryOk :=
    ok_ite_fst (ok_landRows h0) (ok_land h0)
  split
  · exact ok_laneStall (ok_of_fst hl ‹_›)
  · exact ok_protection (ok_of_fst hl ‹_›)
  · next e1 =>
    have h1 := ok_of_fst hl e1
    split
    · exact ok_trapLane h1
    · refine ok_performWord h1 (fun k ek t ht => ?_) hf
      split at ek
      · cases ek
      · cases ek; exact ok_faultLanes ht

theorem ok_execVpref {w : LM} : NextOk (execVpref w s) := ok_laneIssue h fun _ _ hf => hf _ h

theorem ok_execNmfence {w : L3} : NextOk (execNmfence w s) :=
  ok_laneIssue h fun _ _ hf => nextOk_ite (ok_laneStall h) (nextOk_ite (ok_haltLane h) (hf _ h))

theorem ok_execRpf {w : L3} : NextOk (execRpf w s) :=
  nextOk_ite (ok_laneReject h) (nextOk_ite (ok_laneStall h) (ok_laneIssue h fun _ _ hf => hf _ (ok_modG h)))

theorem ok_accWord {w : L3} {u : Uses} {fields : List VReg} {pf : Nat} {pr : VReg} {poisons : Bool}
    {k : Env → (Nat → Nat) → (State → State) → Result}
    (hk : ∀ e pos fin, (∀ t : State, t.MemoryOk → (fin t).MemoryOk) → NextOk (k e pos fin)) :
    NextOk (accWord w u fields pf pr poisons k s) :=
  nextOk_ite (ok_protection h) (nextOk_ite (ok_laneStall h) (ok_laneIssue h fun e fin hf =>
    nextOk_ite (ok_trapLane h) (nextOk_ite (ok_haltLane h) (hk e _ fin hf))))

theorem ok_execAccrd {w : L3} : NextOk (execAccrd w s) := ok_accWord h fun _ _ _ hf => hf _ (ok_modG h)

theorem ok_execAccwr {w : L3} : NextOk (execAccwr w s) := by
  unfold execAccwr
  refine ok_accWord h fun e pos fin hf => ?_
  exact hf _ (ok_modG (ok_setCore h))

theorem ok_ctlWord {reads writes : List Nat} {f : Group → LaneWord → Option Group} : NextOk (ctlWord reads writes f s) := by
  refine ok_laneIssue h fun e fin hf => ?_
  split
  · exact hf _ (ok_setG h)
  · exact ok_trapLane h

theorem ok_loopBack {w : Word} : (s.loopBack w).MemoryOk := h

theorem ok_execEndloop {w : L3} : NextOk (execEndloop w s) := by
  refine ok_laneIssue h fun e fin hf => ?_
  split
  · exact nextOk_ite (nextOk_ite (hf _ (ok_modG h)) (ok_loopBack h)) (ok_trapLane h)
  · exact ok_trapLane h

theorem ok_execLret {w : L3} : NextOk (execLret w s) := nextOk_ite (ok_laneStall h) (ok_runLane h)

theorem ok_pairWord {x : Option (XOp × Slot)} {y : Option (YOp × Slot)} {look mreg : BitVec 4} : NextOk (Machine.pairWord x y look mreg s) :=
  nextOk_ite (ok_laneReject h) (nextOk_ite (ok_laneReject h) (ok_runLane h))

/-! ### Near-memory programs (Machine/NearMem) -/

theorem ok_nmWord {f : NmProg → State → Result} (hf : ∀ p, NextOk (f p s)) : NextOk (Machine.nmWord f s) := by
  unfold Machine.nmWord
  split
  · exact hf _
  · exact h

theorem ok_progNext {p : NmProg} : NextOk (s.progNext p) := h
theorem ok_progJump {p : NmProg} {off : BitVec 16} : NextOk (s.progJump p off) := h
theorem ok_progEnd {c : Cause} : NextOk (s.progEnd c) := ok_progFail h
theorem ok_wideResult {p : NmProg} {wd : Nat} {t : EType} {l : List (Nat × Flags)} : NextOk (s.wideResult p wd t l) := h

theorem ok_nmAccess {p : NmProg} {dram : Bool} {va align n kind : Nat} {k : List Piece → State → Result}
    (hk : ∀ l t, t.MemoryOk → NextOk (k l t)) : NextOk (nmAccess p dram va align n kind k s) := by
  unfold nmAccess
  have hl := ok_landRange h (w := s.progWho p) (kind := kind) (va := va) (n := n)
  split
  · exact ok_progEnd h
  split
  · exact ok_of_fst hl ‹_›
  · exact ok_progFault (ok_of_fst hl ‹_›)
  · exact ok_progFreeze (ok_of_fst hl ‹_›)
  · next e =>
    have h1 := ok_of_fst hl e
    split
    · exact ok_progEnd h1
    split
    · exact ok_progFreeze h1
    · exact nextOk_ite h1 (hk _ _ h1)

/-- An access that reads first: a bad byte ends the program, otherwise it goes on with the bytes. -/
theorem ok_afterRead {l : List Piece} {k : State → List Byte → Result} (hk : ∀ t b, t.MemoryOk → NextOk (k t b)) :
    NextOk (match readPieces s l with
      | (s1, _, some c) => s1.progEnd c
      | (s1, b, none) => k s1 b) := by
  split
  · exact ok_progEnd (ok_of_fst (ok_readPieces h) ‹_›)
  · exact hk _ _ (ok_of_fst (ok_readPieces h) ‹_›)

theorem ok_execNld {w : NM} : NextOk (execNld w s) :=
  ok_nmWord h fun _ => ok_nmAccess h fun _ _ ht => ok_afterRead ht fun _ _ hu => ok_progNext hu

theorem ok_execNst {w : NM} : NextOk (execNst w s) :=
  ok_nmWord h fun _ => ok_nmAccess h fun _ _ ht => ok_progNext (ok_writePieces ht)

theorem ok_execNatom {w : NM} : NextOk (execNatom w s) :=
  ok_nmWord h fun _ => ok_nmAccess h fun _ _ ht => ok_afterRead ht fun _ _ hu => ok_progNext (ok_writePieces hu)

theorem ok_execNmatomPerform {stack n : Nat} : NextOk (execNmatomPerform stack n s) := by
  unfold execNmatomPerform
  dsimp only
  split
  · exact h
  split
  · exact h
  split
  · exact ok_modTeamGroup (ok_of_fst (ok_checkRead (ok_setStack (ok_asServed h))) ‹_›)
  · exact ok_modTeamGroup (ok_store _ _ _ (ok_of_fst (ok_checkRead (ok_setStack (ok_asServed h))) ‹_›))

theorem ok_execNlock {w : NM} : NextOk (execNlock w s) := by
  refine ok_nmWord h fun p => nextOk_ite (ok_progEnd h) (nextOk_ite (ok_progEnd h) (ok_nmAccess h fun l t ht => ?_))
  split
  · exact ok_progNext (ok_setStack ht)
  · exact ht

theorem ok_execNunlock {w : NM} : NextOk (execNunlock w s) := by
  refine ok_nmWord h fun p => nextOk_ite (ok_progEnd h) ?_
  split
  · exact ok_progEnd h
  · exact ok_progNext (ok_setStack h)

theorem ok_wideFloat2 {w : NA} {op : FVal → FVal → FVal × Flags} : NextOk (wideFloat2 w op s) := ok_nmWord h fun _ => ok_wideResult h
theorem ok_execNfma {w : NA} : NextOk (execNfma w s) := ok_nmWord h fun _ => ok_wideResult h
theorem ok_execNscale {w : NA} : NextOk (execNscale w s) := ok_nmWord h fun _ => ok_wideResult h
theorem ok_execNcmp {w : NA} : NextOk (execNcmp w s) := ok_nmWord h fun _ => ok_wideResult h
theorem ok_execNcvt {w : NA} : NextOk (execNcvt w s) := ok_nmWord h fun _ => ok_progNext h
theorem ok_execNsel {w : NA} : NextOk (execNsel w s) := ok_nmWord h fun _ => ok_progNext h
theorem ok_execNiadd {w : NA} : NextOk (execNiadd w s) := ok_nmWord h fun _ => ok_progNext h
theorem ok_execNloopSet {w : NC} : NextOk (execNloopSet w s) := ok_nmWord h fun _ => ok_progNext h
theorem ok_execNmov {w : NA} : NextOk (execNmov w s) := ok_nmWord h fun _ => nextOk_ite (ok_progNext h) (ok_progNext h)

theorem ok_execNapply {w : NA} : NextOk (execNapply w s) :=
  ok_nmWord h fun _ => nextOk_ite (ok_progEnd h) (nextOk_ite (ok_progEnd (ok_setProg h)) (ok_wideResult h))

theorem ok_execNloopStep {w : NC} : NextOk (execNloopStep w s) :=
  ok_nmWord h fun _ => nextOk_ite (ok_progNext h) (nextOk_ite (ok_progNext h) (ok_progJump h))

theorem ok_execNbr {w : NC} : NextOk (execNbr w s) := ok_nmWord h fun _ => nextOk_ite (ok_progJump h) (ok_progNext h)

theorem ok_execNwait {w : NM} : NextOk (execNwait w s) :=
  ok_nmWord h fun _ => nextOk_ite h (ok_nmAccess h fun _ _ ht => ok_afterRead ht fun _ _ hu => nextOk_ite (ok_progNext hu) (ok_setProg hu))

theorem ok_execNwaitExpiry {stack sdue : Nat} : NextOk (execNwaitExpiry stack sdue s) := by
  unfold execNwaitExpiry
  dsimp only
  split
  · exact h
  split
  · exact nextOk_ite h h
  · exact h

theorem ok_execNsignal {w : NM} : NextOk (execNsignal w s) := ok_nmWord h fun _ => ok_orHeld h (ok_progNext (ok_decrement h))

theorem ok_execNend {w : NC} : NextOk (execNend w s) := by
  refine ok_nmWord h fun p => ok_nmAccess h fun l t ht => ok_unlessHeld ht ?_
  split
  · exact ok_endCommand (ok_dropProgram (ok_writePieces ht))
  · exact ok_dropProgram (ok_writePieces ht)

theorem ok_nmLoad : NextOk (nmLoad s) :=
  ok_nmWord h fun _ => ok_nmAccess (ok_asContext h) fun _ _ ht => ok_afterRead ht fun _ _ hu => ok_setProg hu

theorem ok_autoStack {c : ECmd} : (autoStack c s).1.MemoryOk := by
  unfold autoStack
  dsimp only
  have hl := ok_landRange (ok_asServed h (core := c.core) (ctx := c.ctx)) (w := cmdWho c true) (kind := 0)
    (va := (c.pack.getD 1 0).toNat) (n := 8)
  split
  · next e =>
    have h1 := ok_of_fst hl e
    split
    · next e2 =>
      have h2 := ok_of_fst (ok_readPieces h1) e2
      split
      · next e3 =>
        have h3 := ok_of_fst (ok_translate h2) e3
        split
        · exact h3
        · exact ok_endCommand h3
      · exact ok_cmdFault (ok_of_fst (ok_translate h2) ‹_›)
      · exact ok_freezeEngine (ok_of_fst (ok_translate h2) ‹_›)
      · exact ok_of_fst (ok_translate h2) ‹_›
    · exact ok_endCommand (ok_of_fst (ok_readPieces h1) ‹_›)
  · exact ok_cmdFault (ok_of_fst hl ‹_›)
  · exact ok_freezeEngine (ok_of_fst hl ‹_›)
  · exact ok_of_fst hl ‹_›

theorem ok_autoLaunch {stack : Nat} {l : List ECmd} : (autoLaunch stack l s).1.MemoryOk := by
  induction l generalizing s with
  | nil => exact h
  | cons c r ih =>
    unfold autoLaunch
    split
    · exact ih h
    split
    · next e =>
      have h1 := ok_of_fst (ok_autoStack h) e
      split
      · exact h1
      · exact ih h1
    · exact ih (ok_of_fst (ok_autoStack h) ‹_›)

theorem ok_execNmProgramStart {stack sdue : Nat} : NextOk (execNmProgramStart stack sdue s) := by
  have h0 : ({ s with cur := { s.cur with stack := stack, sdue := sdue, stream := .sdue } } : State).MemoryOk := h
  unfold execNmProgramStart
  split
  · exact h
  dsimp only
  split
  · exact nextOk_ite h (ok_nmLoad h0)
  split
  · exact nextOk_ite h (ok_nmLoad (ok_setProg (ok_setStack h0)))
  split
  · exact ok_nmLoad (ok_setProg (ok_of_fst (ok_autoLaunch h0) ‹_›))
  · exact ok_unlessHeld h (ok_of_fst (ok_autoLaunch h0) ‹_›)

end

end Sys2Proof.Proofs
end

section
/-! The canonical form of memory (continued): matrix commands and batches. -/

namespace Sys2Proof.Proofs

open Sys2Proof.Machine Sys2Proof.Laws

set_option Elab.async false

section
variable {s : State} (h : s.MemoryOk)
include h

/-! ### Matrix words and their commands (Machine/Matrix) -/

theorem ok_loadBanks {core : Nat} {b : BitVec 2} : (s.loadBanks core b).MemoryOk := h

theorem ok_mxSubmit {kind stream acc : Nat} {pack : List Word} {locks : List LockReq} :
    (mxSubmit kind pack stream acc locks s).MemoryOk := by
  unfold mxSubmit
  exact ok_nextPc (ok_same (s := s.addLocks s.g.ctx s.nextCmd locks) (ok_addLocks h))

theorem ok_mxIssue {k : State → Result} (hk : ∀ t : State, t.MemoryOk → NextOk (k t)) : NextOk (mxIssue k s) :=
  nextOk_ite (ok_protection h) (ok_joinCommand h fun _ ht => nextOk_ite (ok_stall ht) (hk _ ht))

theorem ok_execMloop {a : SReg} : NextOk (execMloop a s) := by
  refine ok_quadChecked h (ok_mxIssue h fun t ht => ?_)
  exact nextOk_ite (ok_trapS ht) (nextOk_ite (ok_trapS ht) (nextOk_ite (ok_trapS ht) (nextOk_ite (ok_protection ht)
    (nextOk_ite (ok_stall ht) (ok_mxSubmit ht)))))

theorem ok_execMstore {a : SReg} : NextOk (execMstore a s) := by
  refine ok_quadChecked h (ok_mxIssue h fun t ht => ?_)
  exact nextOk_ite (ok_trapS ht) (nextOk_ite (ok_trapS ht) (nextOk_ite (ok_trapS ht) (nextOk_ite (ok_protection ht)
    (nextOk_ite (ok_stall ht) (ok_modG (ok_mxSubmit ht))))))

theorem ok_execMzero {acc : BitVec 2} {stream : BitVec 3} : NextOk (execMzero acc stream s) := by
  refine ok_mxIssue h fun t ht => ?_
  exact nextOk_ite (ok_protection ht) (ok_mxSubmit ht)

theorem ok_execMfence {d : SReg} : NextOk (execMfence d s) := nextOk_ite (ok_protection h) (ok_writeNext (ok_modG h))
theorem ok_dropFaults {n : Nat} : (s.dropFaults n).MemoryOk := h

theorem ok_raiseEnded {e : Ended} : NextOk (raiseEnded e s) :=
  nextOk_ite (ok_haltScalar h) (nextOk_ite (ok_protection h) (ok_trapScalar h))

theorem ok_execMwait {a : SReg} : NextOk (execMwait a s) := by
  refine nextOk_ite (ok_protection h) (nextOk_ite (ok_trapS h) (nextOk_ite (ok_wait h) ?_))
  split
  · exact ok_nextPc h
  · exact ok_raiseEnded (ok_dropFaults h)

omit h in
/-- The state in which a matrix command or a batch has stopped. -/
def MxStopOk : MxStop → Prop
  | .wait t => t.MemoryOk
  | .fault t _ _ _ _ => t.MemoryOk
  | .protect t _ _ _ => t.MemoryOk

theorem ok_mxLand {x : MxWho} {vlt : Bool} {kind va n : Nat} : StopsOk MxStopOk Prod.fst (mxLand x vlt kind va n s) := by
  unfold mxLand
  have hl := ok_landSpace h (w := x.who) (v := if vlt then some x.vault else none) (kind := kind) (va := va % 2 ^ 64) (n := n)
  split
  · exact ok_of_fst hl ‹_›
  · exact ok_of_fst hl ‹_›
  · exact ok_of_fst hl ‹_›
  · next e =>
    have h1 := ok_of_fst hl e
    refine stopsOk_ite h ?_
    split <;> exact h1

omit h in
theorem ok_mxGet {x : MxWho} {vlt : Bool} {va n : Nat} {q : MxRead} (h : q.s.MemoryOk) :
    StopsOk MxStopOk (fun r => r.1.s) (mxGet x vlt va n q) := by
  unfold mxGet
  split
  · exact (ok_mxLand h).error ‹_›
  · exact ok_checkAt ((ok_mxLand h).ok ‹_›)

omit h in
theorem ok_mxGets {x : MxWho} {vlt : Bool} {n : Nat} {l : List Nat} {q : MxRead} (h : q.s.MemoryOk) :
    StopsOk MxStopOk (fun r => r.1.s) (mxGets x vlt n l q) := by
  induction l generalizing q with
  | nil => exact h
  | cons va r ih =>
    unfold mxGets
    split
    · next e => exact (ok_mxGet h).error e
    · next e =>
      have h1 := ih ((ok_mxGet h).ok e)
      split
      · next e2 => exact h1.error e2
      · next e2 =>
        have h2 := h1.ok e2
        exact h2

omit h in
theorem ok_loopA {x : MxWho} {f : MFormat} {p : LoopPack} {mx : Matrix} {j : Nat} {q : MxRead} (h : q.s.MemoryOk) :
    StopsOk MxStopOk (fun r => r.1.s) (loopA x f p mx j q) := by
  unfold loopA
  have hr : StopsOk MxStopOk (fun r : MxRead × List (List Byte) => r.1.s) (if p.abuf then
      .ok ({ q with bad := worse q.bad (if mx.arowBad f.bits then some .uncorrectable else none) }, (List.range 32).map (mx.bufferRow f.bits))
    else mxGets x p.asp (4 * f.bits) ((List.range 32).map fun m => p.abase + m * p.astride + 4 * f.bits * j) q) := by
    split
    · exact h
    · exact ok_mxGets h
  dsimp only
  split
  · exact hr.error ‹_›
  · next e =>
    have h1 := hr.ok e
    split
    · split
      · exact (ok_mxGet h1).error ‹_›
      · exact (ok_mxGet h1).ok ‹_›
    · exact h1

omit h in
theorem ok_loopB {x : MxWho} {f : MFormat} {p : LoopPack} {j : Nat} {q : MxRead} (h : q.s.MemoryOk) :
    StopsOk MxStopOk (fun r => r.1.s) (loopB x f p j q) := by
  unfold loopB
  split
  · exact (ok_mxGets h).error ‹_›
  · next e =>
    have h1 := (ok_mxGets h).ok e
    split
    · split
      · exact (ok_mxGet h1).error ‹_›
      · exact (ok_mxGet h1).ok ‹_›
    · exact h1

omit h in
theorem ok_loopCompute {m : MCmd} {core j : Nat} {f : MFormat} {p : LoopPack} {rows : List (List Byte)} {side : List Byte}
    {slice : Option (List Byte × List Nat)} {badB : Bool} {q : MxRead} (h : q.s.MemoryOk) :
    (loopCompute m core j f p rows side slice badB q).MemoryOk :=
  ok_noteReads (ok_raiseIn (ok_ite (ok_loadBanks (ok_setCore h)) (ok_setCore h)))

theorem ok_loopStep {x : MxWho} {m : MCmd} {core j : Nat} : StopsOk MxStopOk Prod.fst (loopStep x m core j s) := by
  unfold loopStep
  dsimp only
  have ha := ok_loopA (x := x) (f := mformat m.fmt) (p := loopPack m.pack) (mx := (s.coreAt core).mx) (j := j) (q := ⟨s, none, []⟩) h
  split
  · exact ha.error ‹_›
  · next q1 _ _ e =>
    have h1 := ha.ok e
    split
    · exact ok_loopCompute h1
    · have hb := ok_loopB (x := x) (f := mformat m.fmt) (p := loopPack m.pack) (j := j) (q := { q1 with bad := none }) h1
      split
      · exact hb.error ‹_›
      · next e2 => exact ok_loopCompute (hb.ok e2)

theorem ok_loopSteps {x : MxWho} {m : MCmd} {core n j : Nat} {bad : Option Cause} :
    StopsOk MxStopOk Prod.fst (loopSteps x m core n j s bad) := by
  induction n generalizing s j bad with
  | zero => exact h
  | succ n ih =>
    unfold loopSteps
    split
    · exact ih ((ok_loopStep h).ok ‹_›)
    · exact (ok_loopStep h).error ‹_›

theorem ok_register {core : Nat} {m : MCmd} : (s.register core m).MemoryOk := ok_ite (ok_setDie h) (ok_setDie h)

theorem ok_loopRun {x : MxWho} {core : Nat} {m : MCmd} : StopsOk MxStopOk Prod.fst (loopRun x core m s) := by
  unfold loopRun
  dsimp only
  split
  · exact (ok_loopSteps h).error ‹_›
  · next e => exact ok_ite (ok_register ((ok_loopSteps h).ok e)) ((ok_loopSteps h).ok e)

theorem ok_poisonWindow {team va n : Nat} : (s.poisonWindow team va n).MemoryOk := by
  unfold State.poisonWindow
  split
  · exact h
  · exact ok_foldl _ _ (fun _ _ ht => ok_poisonRange ht) h

theorem ok_mxPut {x : MxWho} {m : MCmd} {vlt poisoned : Bool} {va : Nat} {bytes : List Byte} :
    StopsOk MxStopOk Prod.fst (mxPut x m vlt poisoned va bytes s) := by
  unfold mxPut
  split
  · exact (ok_mxLand h).error ‹_›
  · next e =>
    have h1 := (ok_mxLand h).ok e
    dsimp only
    split
    · exact ok_ite (ok_poisonWindow (ok_bufferBytes h1)) (ok_bufferBytes h1)
    · exact ok_ite (ok_putPoisoned h1) (ok_writePieces h1)

theorem ok_storeRows {x : MxWho} {m : MCmd} {p : StorePack} {rowOf : Nat → StoreRow} {poisoned : Bool} {n i : Nat} {w : List (Nat × Nat)} :
    StopsOk MxStopOk Prod.fst (storeRows x m p rowOf poisoned n i s w) := by
  induction n generalizing s i w with
  | zero => exact h
  | succ n ih =>
    unfold storeRows
    dsimp only
    split
    · exact (ok_mxPut h).error ‹_›
    · next e =>
      have h1 := (ok_mxPut h).ok e
      split
      · exact (ok_mxPut h1).error ‹_›
      · exact ih ((ok_mxPut h1).ok ‹_›)

theorem ok_storeRun {x : MxWho} {core : Nat} {m : MCmd} : StopsOk MxStopOk Prod.fst (storeRun x core m s) := by
  unfold storeRun
  dsimp only
  split
  · exact h
  split
  · exact (ok_storeRows h).error ‹_›
  · next e => exact ok_raiseIn (ok_markRanges ((ok_storeRows h).ok e))

theorem ok_mxDone {core : Nat} {m : MCmd} {e : Option Ended} : (s.mxDone core m e).MemoryOk := h
theorem ok_mxAsk {core acc va : Nat} {m : MCmd} : (s.mxAsk core m acc va).MemoryOk := ok_setCore (ok_sendPage h)

theorem ok_mxEnd {core : Nat} {m : MCmd} {r : Except MxStop (State × Option Ended)} (hr : StopsOk MxStopOk Prod.fst r) :
    (mxEnd s core m r).MemoryOk := by
  unfold mxEnd
  split
  · exact ok_mxDone hr
  · exact ok_keepMiss h
  · exact ok_freezeMatrix hr
  · split
    · split
      · next e => exact ok_ite (ok_mxAsk (ok_of_fst (ok_firstTouch h) e)) (ok_mxDone hr)
      · exact ok_of_fst (ok_firstTouch h) ‹_›
    · exact ok_ite (ok_mxAsk h) (ok_mxDone hr)

theorem ok_execMatrixCommandComplete {core cmd : Nat} : NextOk (execMatrixCommandComplete core cmd s) := by
  unfold execMatrixCommandComplete
  dsimp only
  split
  · exact h
  split
  · exact h
  have h1 := fun ctx => ok_asServed h (core := core) (ctx := ctx)
  split
  · exact ok_mxEnd (h1 _) (ok_loopRun (h1 _))
  · exact ok_mxEnd (h1 _) (ok_storeRun (h1 _))
  · exact ok_mxDone (ok_setCore (h1 _))

/-! ### Batches (Machine/Matrix) -/

theorem ok_rowFreeze {r : PostRow} {acc va pa : Nat} : (s.rowFreeze r acc va pa).MemoryOk := by
  unfold State.rowFreeze
  split
  · exact ok_ite (ok_freezeGroup h) h
  · exact h

theorem ok_readRow {id : Nat} {r : PostRow} : (readRow id r s).1.MemoryOk := by
  unfold readRow
  have hg := ok_mxGet (x := rowWho id r) (vlt := false) (va := r.addr.toNat) (n := 66) (q := ⟨s.asServed r.core r.ctx, none, []⟩)
    (ok_asServed h)
  split
  · exact ok_withKey (hg.ok ‹_›)
  · next e => exact ok_withKey (ok_rowFreeze (hg.error e))
  · exact ok_keepMiss h
  · exact h

theorem ok_readBatch {id : Nat} {l : List PostRow} : (readBatch id l s).1.MemoryOk := by
  induction l generalizing s with
  | nil => exact h
  | cons r rest ih => exact ih (ok_readRow h)

theorem ok_formBatch {die n : Nat} {wid : Word} : (s.formBatch die wid n).MemoryOk := by
  unfold State.formBatch
  dsimp only
  split
  · exact ok_same (ok_ite_fst (ok_readBatch h) h)
  · exact ok_setCore (ok_same (ok_ite_fst (ok_readBatch h) h))

theorem ok_execBfqpost {d a b : SReg} : NextOk (execBfqpost d a b s) :=
  nextOk_ite (ok_trapS h) (nextOk_ite (ok_trapScalar h) (nextOk_ite (ok_trapS h) (nextOk_ite (ok_stall h) (nextOk_ite (ok_stall h)
    (ok_writeNext (ok_ite (ok_formBatch (ok_modG (ok_setDie h))) (ok_modG (ok_setDie h))))))))

theorem ok_execBfqwait {a : SReg} : NextOk (execBfqwait a s) := by
  unfold execBfqwait
  dsimp only
  split
  · exact ok_trapS h
  · exact ok_wait h
  · split
    · exact ok_nextPc (ok_modG h)
    · exact ok_raiseEnded (ok_modG h)

theorem ok_execBatchFormTimeout {die : Nat} {wid : Word} : NextOk (execBatchFormTimeout die wid s) := by
  unfold execBatchFormTimeout
  dsimp only
  split
  · exact h
  · exact ok_ite (ok_formBatch h) h

theorem ok_rowOver {die j : Nat} {b : Batch} {r : PostRow} {e : Option Ended} {f : Flags} : (s.rowOver die b j r e f).MemoryOk :=
  ok_modTeamGroup (ok_raiseIn (ok_setDie h))

theorem ok_rowCompute {reg : Registration} {j : Nat} {bytes : List Byte} : (rowCompute reg j bytes s).1.MemoryOk := h

theorem ok_rowWrite {x : MxWho} {r : PostRow} {bytes : List Byte} {f : Flags} : StopsOk MxStopOk Prod.fst (rowWrite x r bytes f s) := by
  unfold rowWrite
  split
  · exact (ok_mxLand h).error ‹_›
  · exact ok_writePieces ((ok_mxLand h).ok ‹_›)

theorem ok_rowBytes {x : MxWho} {r : PostRow} : StopsOk MxStopOk Prod.fst (rowBytes x r s) := by
  unfold rowBytes
  split
  · exact h
  · have hg := ok_mxGet (x := x) (vlt := false) (va := r.addr.toNat) (n := 66) (q := ⟨s, none, []⟩) h
    split
    · exact hg.error ‹_›
    · exact hg.ok ‹_›

theorem ok_rowPoison {reg : Registration} : (s.rowPoison reg).MemoryOk := h

theorem ok_rowRun {b : Batch} {j : Nat} {r : PostRow} : StopsOk MxStopOk Prod.fst (rowRun b j r s) := by
  unfold rowRun
  dsimp only
  split
  · exact ok_rowWrite h
  split
  · exact (ok_rowBytes h).error ‹_›
  · next e =>
    have h1 := (ok_rowBytes h).ok e
    split
    · exact ok_rowPoison h1
    · exact ok_rowWrite (ok_rowCompute h1)

theorem ok_rowAsk {die acc va : Nat} {b : Batch} {r : PostRow} : (s.rowAsk die b r acc va).MemoryOk := ok_setDie (ok_sendPage h)

theorem ok_batchRows {die : Nat} {b : Batch} {l : List (PostRow × Nat)} : (batchRows die b l s).1.MemoryOk := by
  induction l generalizing s with
  | nil => exact h
  | cons q rest ih =>
    obtain ⟨r, j⟩ := q
    unfold batchRows
    have hr := ok_rowRun (b := b) (j := j) (r := r) (ok_asServed h (core := r.core) (ctx := r.ctx))
    split
    · exact ih h
    split
    · next e => exact ih (ok_rowOver (hr.ok e))
    · exact ok_keepMiss h
    · next t _ _ _ e =>
      have ht : t.MemoryOk := hr.error e
      exact ih (ok_rowOver (ok_rowFreeze ht))
    · next t _ _ _ _ e =>
      have ht : t.MemoryOk := hr.error e
      split
      · split
        · next e1 =>
          have h1 := ok_of_fst (ok_firstTouch h) e1
          exact ok_ite_fst (ok_rowAsk h1) (ih (ok_rowOver ht))
        · exact ok_of_fst (ok_firstTouch h) ‹_›
      · exact ok_ite_fst (ok_rowAsk h) (ih (ok_rowOver ht))

theorem ok_execBatchComplete {die batch : Nat} : NextOk (execBatchComplete die batch s) := by
  unfold execBatchComplete
  dsimp only
  split
  · exact h
  split
  · exact h
  split
  · exact ok_of_fst (ok_batchRows h) ‹_›
  · next e =>
    have h1 := ok_of_fst (ok_batchRows h) e
    split
    · exact ok_setDie h1
    · exact ok_setCore (ok_setDie h1)

end

end Sys2Proof.Proofs
end

section
/-! The canonical form of memory (continued): engine commands and journals. -/

namespace Sys2Proof.Proofs

open Sys2Proof.Machine Sys2Proof.Laws

set_option Elab.async false

section
variable {s : State} (h : s.MemoryOk)
include h

/-! ### The issue of engine commands (Machine/Engine) -/

theorem ok_launch {c : ECmd} {locks : List LockReq} : (s.launch c locks).MemoryOk := by
  unfold State.launch
  exact ok_modG (ok_same (s := s.addLocks c.ctx c.id locks) (ok_addLocks h))

theorem ok_engIssue {kind : Nat} {pack : List Word} {locks : List LockReq} {after : ECmd → State → State} {d : SReg}
    (ha : ∀ c t, State.MemoryOk t → (after c t).MemoryOk) : (engIssue kind pack locks after d s).MemoryOk :=
  ha _ _ (ok_writeNext (ok_modG (ok_launch h)))

omit h in
theorem ok_later (c : ECmd) (t : State) (h : t.MemoryOk) : (later c t).MemoryOk := h

theorem ok_engGate {k : State → Result} (hk : ∀ t : State, t.MemoryOk → NextOk (k t)) : NextOk (engGate k s) :=
  ok_joinCommand h fun _ ht => nextOk_ite (ok_stall ht) (hk _ ht)

theorem ok_engChecked {a b c d : Bool} {locks : List LockReq} {k : State → State} (hk : (k s).MemoryOk) :
    NextOk (engChecked a b c d locks k s) :=
  nextOk_ite (ok_trapS h) (nextOk_ite (ok_trapS h) (nextOk_ite (ok_trapS h) (nextOk_ite (ok_trapS h) (nextOk_ite (ok_stall h) hk))))

theorem ok_execCopy {d a : SReg} : NextOk (execCopy d a s) := by
  refine ok_quadChecked h (ok_engGate h fun t ht => ok_engChecked ht (ok_engIssue ht ?_))
  split
  · exact fun _ _ hu => ok_endCommand hu
  · exact ok_later

theorem ok_execGather {d a : SReg} : NextOk (execGather d a s) :=
  ok_quadChecked h (ok_engGate h fun _ ht => ok_engChecked ht (ok_engIssue ht ok_later))

theorem ok_takeRefs {grid : Nat} {l : List (Nat × Nat × Nat)} : (s.takeRefs grid l).MemoryOk := by
  refine ok_foldl l _ (fun t r ht => ?_) h
  split
  · exact ok_setTeam ht
  · exact ht

theorem ok_execMcast {d a : SReg} : NextOk (execMcast d a s) := by
  refine ok_quadChecked h (ok_engGate h fun t ht => ok_engChecked ht ?_)
  generalize t.receivers _ _ = rs
  cases rs with
  | none => exact ok_engIssue ht fun _ _ hu => ok_endCommand hu
  | some l => exact ok_engIssue (ok_takeRefs ht) ok_later

theorem ok_execColl {d a : SReg} : NextOk (execColl d a s) :=
  ok_quadChecked h (ok_engGate h fun _ ht => ok_engChecked ht (ok_engIssue ht ok_later))

theorem ok_deliverProgram {sel : Word} {c : ECmd} : (deliverProgram sel c s).MemoryOk := ok_ite h (ok_ite (ok_endCommand h) (ok_setStack h))

theorem ok_execNmlaunch {d a : SReg} : NextOk (execNmlaunch d a s) :=
  ok_quadChecked h (ok_engGate h fun _ ht => ok_engChecked ht (ok_engIssue ht fun _ _ hu => ok_deliverProgram hu))

/-! ### Moves of the engines (Machine/Engine) -/

omit h in
/-- The state in which an engine command has stopped. -/
def MoveStopOk : MoveStop → Prop
  | .wait t => t.MemoryOk
  | .fault t _ _ _ _ => t.MemoryOk
  | .protect t _ _ _ _ => t.MemoryOk

theorem ok_movePieces {w : Who} {p : Place} {kind n : Nat} : StopsOk MoveStopOk Prod.fst (movePieces w p kind n s) := by
  unfold movePieces
  have hl := ok_landSpace h (w := w) (v := p.space) (kind := kind) (va := p.va % 2 ^ 64) (n := n)
  split
  · exact ok_of_fst hl ‹_›
  · exact ok_of_fst hl ‹_›
  · exact ok_of_fst hl ‹_›
  · next e =>
    have h1 := ok_of_fst hl e
    refine stopsOk_ite h ?_
    split <;> exact h1

theorem ok_landMove {w : Who} {src dst : Place} {n : Nat} : StopsOk MoveStopOk Prod.fst (landMove w src dst n s) := by
  unfold landMove
  split
  · next e => exact (ok_movePieces h).error e
  · next e =>
    have h1 := (ok_movePieces h).ok e
    split
    · next e2 => exact (ok_movePieces h1).error e2
    · next e2 =>
      have h2 := (ok_movePieces h1).ok e2
      exact h2

theorem ok_engineReads {team : Nat} {v : Option (Nat × Nat)} {l : List Piece} : (s.engineReads team v l).MemoryOk :=
  ok_ite (ok_auditReads h) h

theorem ok_moveAll {w : Who} {team n : Nat} {src dst : Place} : StopsOk MoveStopOk Prod.fst (moveAll w team src dst n s) := by
  unfold moveAll
  split
  · next e => exact (ok_landMove h).error e
  · next e => exact ok_putPoisoned (ok_engineReads (ok_readPieces ((ok_landMove h).ok e)))

theorem ok_putSome {i : Nat} {b : List Piece} {q : List Byte × List Bool} : (putSome s i b q).MemoryOk :=
  ok_foldl _ _ (fun _ _ ht => ok_ite (ok_store _ _ _ ht) ht) h

theorem ok_movePart {a b : List Piece} : (movePart s a b).MemoryOk := ok_putSome (ok_readPieces h)

/-- What a stopped move has written: nothing, or a part of its bytes. -/
theorem ok_moveSome {w : Who} {src dst : Place} {off : Nat} : (moveSome w src dst off s).MemoryOk := by
  have part : ∀ o, (match landMove w src dst o s with | .ok (s1, a, b) => movePart s1 a b | .error _ => s : State).MemoryOk := by
    intro o
    split
    · next e => exact ok_movePart ((ok_landMove h).ok e)
    · exact h
  unfold moveSome
  split
  · next e => exact ok_movePart ((ok_landMove h).ok e)
  · exact part _
  · exact part _
  · exact h

theorem ok_engStop {c : ECmd} {part : Nat → State} {e : MoveStop} (hp : ∀ n, (part n).MemoryOk) : (engStop c s part e).MemoryOk := by
  unfold engStop
  split
  · exact ok_keepMiss h
  · exact ok_ite (ok_cmdFault h) (ok_endCause (hp _))
  · exact ok_freezeEngine (hp _)

theorem ok_copyRun {c : ECmd} : (copyRun c s).MemoryOk := by
  unfold copyRun
  dsimp only
  split
  · refine ok_ite (ok_endCommand h) ?_
    split
    · next e => exact ok_endCommand ((ok_moveAll h).ok e)
    · exact ok_engStop h fun _ => ok_moveSome h
  · exact ok_endCommand h

theorem ok_gatherRead {c : ECmd} {x : GatherPack} {iv : Option (Nat × Nat)} {i : Nat} :
    StopsOk MoveStopOk Prod.fst (gatherRead c x iv i s) := by
  unfold gatherRead
  dsimp only
  split
  · next e => exact (ok_movePieces h).error e
  · next s1 a e =>
    have h2 : ((readPieces s1 a).1.engineReads c.team iv a).MemoryOk := ok_engineReads (ok_readPieces ((ok_movePieces h).ok e))
    refine stopsOk_ite h2 ?_
    split
    · next e2 => exact (ok_movePieces h2).error e2
    · next e2 => exact ok_engineReads (ok_readPieces ((ok_movePieces h2).ok e2))

theorem ok_gatherReads {c : ECmd} {x : GatherPack} {iv : Option (Nat × Nat)} {n i : Nat} : (gatherReads c x iv n i s).1.MemoryOk := by
  induction n generalizing s i with
  | zero => exact h
  | succ n ih =>
    unfold gatherReads
    split
    · exact h
    · next e => exact ih ((ok_gatherRead h).ok e)

theorem ok_gatherWrites {c : ECmd} {x : GatherPack} {dv : Option (Nat × Nat)} {l : List Carried} {i : Nat} :
    (gatherWrites c x dv l i s).1.MemoryOk := by
  induction l generalizing s i with
  | nil => exact h
  | cons q rest ih =>
    unfold gatherWrites
    split
    · exact h
    · next e => exact ih (ok_putPoisoned ((ok_movePieces h).ok e))

theorem ok_gatherSome {c : ECmd} {x : GatherPack} {dv : Option (Nat × Nat)} {l : List Carried} : (gatherSome c x dv l s).MemoryOk := by
  refine ok_foldl _ _ (fun t q ht => ?_) h
  split
  · next e => exact ok_putSome ((ok_movePieces ht).ok e)
  · exact ht

theorem ok_gatherRun {c : ECmd} : (gatherRun c s).MemoryOk := by
  unfold gatherRun
  dsimp only
  split
  · split
    · next e => exact ok_engStop h fun _ => ok_gatherSome (ok_of_fst (ok_gatherReads h) e)
    · next e =>
      have h1 := ok_of_fst (ok_gatherReads h) e
      split
      · next e2 => exact ok_endCommand (ok_of_fst (ok_gatherWrites h1) e2)
      · exact ok_engStop h fun _ => ok_gatherSome h1
  · exact ok_endCommand h

theorem ok_mcastRun {c : ECmd} : (mcastRun c s).MemoryOk := by
  unfold mcastRun
  dsimp only
  split
  · next e =>
    have h1 := (ok_movePieces h).ok e
    refine ok_endCommand (ok_foldl _ _ (fun t p ht => ?_) (ok_engineReads (ok_readPieces h1)))
    split
    · next e2 => exact ok_putPoisoned ((ok_movePieces ht).ok e2)
    · exact ht
  · exact ok_engStop h fun _ => ok_foldl _ _ (fun _ _ ht => ok_moveSome ht) h

/-! ### The journal (Machine/Engine) -/

omit h in
/-- The state that a journal entry's addition leaves. -/
def JournalOk : JournalStep → Prop
  | .over t => t.MemoryOk
  | .wait t => t.MemoryOk
  | .protect _ _ => True

theorem ok_journalSkip {e : JEntry} : JournalOk (e.skip s) := ok_event h

theorem ok_journalEntry {e : JEntry} {flat loc : Nat} : JournalOk (e.add flat loc s) := by
  unfold JEntry.add
  split
  · exact ok_journalSkip h
  split
  · exact h
  split
  · exact ok_journalSkip (ok_of_fst (ok_checkRead h) ‹_›)
  · next e => exact ok_store _ _ _ (ok_of_fst (ok_checkRead h) e)

theorem ok_journalAdd {c : ECmd} {e : JEntry} : JournalOk (journalAdd c e s) := by
  unfold journalAdd
  have ht := ok_translate h (w := cmdWho c c.user) (kind := 2) (va := e.addr.toNat)
  split
  · exact ok_of_fst ht ‹_›
  · next s1 k _ e1 =>
    have h1 := ok_of_fst ht e1
    have hq : (if k = 1 then s1.firstTouch c.ctx c.core (dieOf c.core) e.addr.toNat else (s1, .noFrame)).1.MemoryOk :=
      ok_ite_fst (ok_firstTouch h1) h1
    split
    · exact ok_journalSkip h1
    · next e2 =>
      have h2 := ok_translate (ok_of_fst hq e2) (w := cmdWho c c.user) (kind := 2) (va := e.addr.toNat)
      split
      · exact ok_journalEntry (ok_of_fst h2 ‹_›)
      · trivial
      · exact ok_of_fst h2 ‹_›
      · exact ok_journalSkip (ok_of_fst h2 ‹_›)
  · trivial
  · exact ok_journalEntry (ok_of_fst ht ‹_›)

theorem ok_journalDrop {die : Nat} {e : JEntry} : (s.journalDrop die e).MemoryOk := h

theorem ok_journalRun {c : ECmd} {l : List (Nat × JEntry)} : (journalRun c l s).MemoryOk := by
  induction l generalizing s with
  | nil => exact ok_endCommand h
  | cons q r ih =>
    obtain ⟨die, e⟩ := q
    unfold journalRun
    have hj := ok_journalAdd h (c := c) (e := e)
    split
    · next t e1 =>
      have ht : t.MemoryOk := by rw [e1] at hj; exact hj
      exact ih (ok_journalDrop ht)
    · next t e1 =>
      rw [e1] at hj
      exact hj
    · exact ok_freezeEngine h

theorem ok_execJrnlAdd {a b : SReg} : NextOk (execJrnlAdd a b s) :=
  nextOk_ite (ok_trapS h) (nextOk_ite (ok_trapScalar h) (nextOk_ite (ok_trapS h) (nextOk_ite (ok_stall h) (ok_nextPc (ok_setDie h)))))

theorem ok_execJrnlCommit {a : SReg} : NextOk (execJrnlCommit a s) := by
  refine ok_engGate h fun t ht => ?_
  exact nextOk_ite (ok_trapS ht) (nextOk_ite (ok_trapS ht) (ok_nextPc (ok_launch ht)))

theorem ok_execJrnlDrop {a : SReg} : NextOk (execJrnlDrop a s) := nextOk_ite (ok_trapS h) (nextOk_ite (ok_trapS h) h)

theorem ok_execEngineCommandComplete {cmd : Nat} : NextOk (execEngineCommandComplete cmd s) := by
  unfold execEngineCommandComplete
  split
  · exact h
  split
  · exact h
  next c _ _ =>
  have h1 := ok_asServed h (core := c.core) (ctx := c.ctx)
  dsimp only
  split
  · exact ok_unlessHeld h1 (ok_serveAts (ok_copyRun h1))
  · exact ok_serveAts (ok_gatherRun h1)
  · exact ok_serveAts (ok_mcastRun h1)
  · exact ok_unlessHeld h1 (ok_ite (ok_endCommand h1) h1)
  · exact ok_serveAts (ok_journalRun h1)
  · exact h1

end

end Sys2Proof.Proofs
end

section
/-! The canonical form of memory (continued): the placement of teams, their saves, and the almanac. -/

namespace Sys2Proof.Proofs

open Sys2Proof.Machine Sys2Proof.Laws

set_option Elab.async false

/-- The state that an attempt of the distributor leaves, whether it has placed anything or not. -/
def placedState : Placed → State
  | .ok t => t
  | .no t => t
  | .later t => t

def PlacedOk (p : Placed) : Prop := (placedState p).MemoryOk

theorem PlacedOk.of_eq {p q : Placed} (h : PlacedOk p) (e : p = q) : PlacedOk q := e ▸ h

/-- The state that a look for register rows leaves. -/
def BlocksOk : Blocks → Prop
  | .ok t _ => t.MemoryOk
  | .no t => t.MemoryOk
  | .later => True

/-- The state that a scan of the distributor's queues leaves. -/
def ScanOk : Scan → Prop
  | .placed t => t.MemoryOk
  | .go t => t.MemoryOk
  | .stop t => t.MemoryOk

theorem ScanOk.of_eq {p q : Scan} (h : ScanOk p) (e : p = q) : ScanOk q := e ▸ h

section
variable {s : State} (h : s.MemoryOk)
include h

/-! ### The placement of teams (Machine/Placement) -/

theorem ok_enterCore {core ctx : Nat} : (s.enterCore core ctx).MemoryOk := ok_ite h (ok_setCore h)
theorem ok_leaveCore {core ctx : Nat} : (s.leaveCore core ctx).MemoryOk := ok_ite h (ok_setCore h)

theorem ok_seatTeam {key team core base cbase : Nat} {x : Grid} {slots rows : List Nat} {stk : List (Option Nat)} :
    (s.seatTeam key team core x slots base cbase rows stk).MemoryOk := by
  have hv : (((List.range (descGroups x.desc)).foldl (fun (t : State) i =>
      t.setGroupAt core (slots.getD i 0) (placedGroup x team i (teamKey key team) s.time (s.cycles core)
        ((s.enterCore core x.ctx).descFor core x.ctx) ((rows.drop (i * descHalves x.desc)).take (descHalves x.desc)) (stk.getD i none)))
      (s.enterCore core x.ctx)).clearVault (dieOf core) base (descVault x.desc)).MemoryOk :=
    ok_clearVault _ _ _ (ok_foldl _ _ (fun _ _ ht => ok_setGroupAt ht) (ok_enterCore h))
  exact ok_setGrid (ok_setTeam (ok_ite (ok_setCore (ok_clearVault _ _ _ hv)) (ok_clearVault _ _ _ hv)))

theorem ok_blocksFor {core : Nat} {l : List Nat} : BlocksOk (s.blocksFor core l) := by
  unfold State.blocksFor
  split
  · exact h
  split
  · trivial
  · dsimp only
    split <;> exact ok_compact h

theorem ok_tryCores {key team : Nat} {x : Grid} {l : List Nat} : PlacedOk (s.tryCores key team x l) := by
  induction l generalizing s with
  | nil => exact h
  | cons c r ih =>
    unfold State.tryCores
    dsimp only
    split
    · have hb := ok_blocksFor h (core := c) (l := List.replicate (descGroups x.desc * descHalves x.desc) 128)
      split
      · exact h
      · next e => rw [e] at hb; exact ih hb
      · next e => rw [e] at hb; exact ok_seatTeam hb
    · exact ih h

theorem ok_released {p : Placed} (hp : PlacedOk p) : PlacedOk (s.released p) := by
  cases p with
  | ok t => exact hp
  | no t => exact h
  | later t => exact h

theorem ok_placeTeam {key team : Nat} {x : Grid} {f : Nat → Bool} : PlacedOk (s.placeTeam key team x f) := by
  unfold State.placeTeam
  exact ok_tryCores h

/-- The recursion is taken apart by `delta`, before the induction: to derive an equation of `placeTeams` Lean
would evaluate the list of the candidate cores. -/
theorem ok_placeTeams {key n i : Nat} : PlacedOk (s.placeTeams key n i) := by
  delta State.placeTeams
  induction n generalizing s i with
  | zero => exact h
  | succ n ih =>
    dsimp only [State.placeTeams._f] at ih ⊢
    cases s.grid? key with
    | none => exact h
    | some x =>
      have hp := ok_placeTeam h (key := key) (team := i) (x := x) (f := fun _ => true)
      dsimp only
      generalize s.placeTeam key i x (fun _ => true) = p at hp ⊢
      cases p with
      | ok s1 => exact ih hp
      | no _ => exact hp
      | later _ => exact hp

theorem ok_setQueueAt {die level : Nat} {l : List QEntry} : (s.setQueueAt die level l).MemoryOk := h

/-! ### Saves and restores (Machine/Save) -/

theorem ok_stopTeam {key : Nat} : (s.stopTeam key).MemoryOk := by
  unfold State.stopTeam
  split <;> exact h

theorem ok_stopTeams {l : List Nat} : (s.stopTeams l).MemoryOk := ok_foldl l _ (fun _ _ ht => ok_stopTeam ht) h
theorem ok_freeMatrix {key : Nat} {t : Team} : (s.freeMatrix key t).MemoryOk := ok_ite h h
theorem ok_forgetPages {l : List WalkReq} : (s.forgetPages l).MemoryOk := h

theorem ok_queueResume {key : Nat} {t : Team} : (s.queueResume key t).MemoryOk := by
  unfold State.queueResume
  split <;> exact h

theorem ok_dropResume {key : Nat} : (s.dropResume key).MemoryOk := h

theorem ok_saveTeam {key : Nat} {t : Team} : (s.saveTeam key t).MemoryOk := by
  unfold State.saveTeam
  exact ok_queueResume (ok_leaveCore (ok_setTeam (ok_same (s := (s.forgetPages (pagesAsked (s.savables key))).freeMatrix key t)
    (ok_freeMatrix (ok_forgetPages h)))))

theorem ok_waitRow : s.waitRow.MemoryOk := h

theorem ok_writeImage {key : Nat} : (s.writeImage key).MemoryOk := by
  unfold State.writeImage
  split
  · exact h
  · next t _ =>
    dsimp only
    have hu : ∀ l : List Nat, ((l.foldl (fun (u : State) f => u.store (65536 * f)
        ((List.range 65536).map fun i => Config.freeByte s.tick (65536 * f + i)) false) (s.asContext (s.teamCtx t))).withKey
        s.cur.key).MemoryOk :=
      fun l => ok_withKey (ok_foldl l _ (fun _ _ ht => ok_store _ _ _ ht) (ok_asContext h))
    exact ok_ite (ok_waitRow (hu _)) (hu _)

theorem ok_trySave {key : Nat} {t : Team} : (s.trySave key t).MemoryOk := ok_ite (ok_writeImage (ok_saveTeam h)) h

theorem ok_execTeamSave {ctx index team : Nat} : NextOk (execTeamSave ctx index team s) := by
  refine ok_unlessHeld h (ok_foldl _ _ (fun u g hu => ?_) h)
  split
  · exact ok_trySave hu
  · exact hu

theorem ok_refuseSave {t : Team} : (s.refuseSave t).MemoryOk := by
  unfold State.refuseSave
  split <;> exact h

theorem ok_stopGang {l : List Nat} : (s.stopGang l).MemoryOk :=
  ok_ite (ok_stopTeams h) (ok_foldl _ _ (fun _ _ ht => ok_refuseSave ht) h)

theorem ok_restoreTeam {key : Nat} {t : Team} {img : SaveImage} : PlacedOk (s.restoreTeam key t img) := by
  unfold State.restoreTeam
  dsimp only
  split
  · split
    · have hb := ok_blocksFor h (core := t.core) (l := blockSizes img.groups)
      split
      · exact h
      · next e => rw [e] at hb; exact hb
      · next s1 _ e =>
        have h1 : s1.MemoryOk := by rw [e] at hb; exact hb
        refine ok_setTeam (ok_dropResume ?_)
        split
        · exact ok_setCore (ok_foldl _ _ (fun _ _ ht => ok_setGroupAt ht) (ok_refill _ _ _ _ _ (ok_enterCore h1)))
        · exact ok_foldl _ _ (fun _ _ ht => ok_setGroupAt ht) (ok_refill _ _ _ _ _ (ok_enterCore h1))
    · exact h
  · exact h

theorem ok_restoreAll {l : List Nat} : PlacedOk (s.restoreAll l) := by
  induction l generalizing s with
  | nil => exact h
  | cons k r ih =>
    unfold State.restoreAll
    split
    · split
      · split
        · next e => exact ih ((ok_restoreTeam h).of_eq e)
        · exact ok_restoreTeam h
      · exact ih h
    · exact ih h

theorem ok_restoreGang {key : Nat} : PlacedOk (s.restoreGang key) := by
  unfold State.restoreGang
  split
  · exact h
  · split
    · exact h
    · exact ok_released h (ok_restoreAll h)

/-! ### The ends of grids, commit windows, Vigil (Machine/Almanac) -/

theorem ok_writeStatus {x : Grid} : (s.writeStatus x).MemoryOk := ok_deviceWrite h
theorem ok_dropGrid {key : Nat} : (s.dropGrid key).MemoryOk := h

theorem ok_finishGrid {key : Nat} {x : Grid} : (s.finishGrid key x).MemoryOk :=
  ok_ite (ok_recordDone (ok_writeStatus (ok_dropGrid h))) (ok_recordFailed (ok_dropGrid h))

theorem ok_emptyTeam {key : Nat} {t : Team} {b : Bool} : (s.emptyTeam key t b).MemoryOk := by
  unfold State.emptyTeam
  exact ok_leaveCore (ok_foldl _ _ (fun _ _ hu => ok_releaseLocks hu) (ok_setCore (ok_same (s := State.dropResume _ key)
    (ok_dropResume (ok_freeMatrix (ok_forgetPages h))))))

theorem ok_discardTeams {gk : Nat} : (s.discardTeams gk).MemoryOk := ok_foldl _ _ (fun _ _ ht => ok_emptyTeam ht) h

theorem ok_retireTeam {gk tk : Nat} {t : Team} {x : Grid} : (s.retireTeam gk tk t x).MemoryOk :=
  ok_ite (ok_finishGrid (ok_setGrid (ok_emptyTeam h))) (ok_setGrid (ok_emptyTeam h))

theorem ok_execTeamRetirement {ctx index team : Nat} : NextOk (execTeamRetirement ctx index team s) := by
  unfold execTeamRetirement
  split
  · exact ok_unlessHeld h (ok_retireTeam h)
  split
  · exact ok_retireTeam h
  · exact h

theorem ok_setAudit {ctx index v : Nat} : (s.setAudit ctx index v).MemoryOk := by
  unfold State.setAudit
  split
  · exact ok_deviceWrite h
  · exact h

theorem ok_touchAudit {ctx index : Nat} : (s.touchAudit ctx index).MemoryOk := by
  unfold State.touchAudit
  split
  · exact ok_touch h
  · exact h

theorem ok_vigilSelect {x : Grid} : (s.vigilSelect x).MemoryOk :=
  ok_ite (ok_ite (ok_setAudit (ok_setGrid (ok_discardTeams (ok_same h)))) h) h

theorem ok_publishLine {ctx : Nat} {w : Sealed} {l : CLine} : (s.publishLine ctx w l).MemoryOk := by
  unfold State.publishLine
  split
  · exact h
  · exact ok_touch (ok_putPoisoned h)

theorem ok_publishAll {x : Grid} : (s.publishAll x).MemoryOk :=
  ok_foldl _ _ (fun _ _ ht => ok_foldl _ _ (fun _ _ hu => ok_publishLine hu) ht) (ok_asContext h)

theorem ok_execCommitPublish {ctx index : Nat} : NextOk (execCommitPublish ctx index s) := by
  unfold execCommitPublish
  dsimp only
  split
  · exact h
  · exact nextOk_ite (nextOk_ite (ok_setGrid h)
      (ok_unlessHeld h (ok_vigilSelect (ok_recordDone (ok_writeStatus (ok_dropGrid (ok_publishAll h))))))) h

theorem ok_abortStop {gk : Nat} {t : State} (e : s.abortStop gk = some t) : t.MemoryOk := by
  unfold State.abortStop at e
  dsimp only at e
  split at e
  · cases e
  · cases e; exact ok_stopTeams h

theorem ok_unqueue {ctx index : Nat} : (s.unqueue ctx index).MemoryOk := h

theorem ok_abortRecord {gk : Nat} {x : Grid} {l : List Nat} : (s.abortRecord gk x l).MemoryOk := by
  unfold State.abortRecord
  split
  · exact ok_dropGrid h
  · exact ok_ite (ok_toCheck (ok_writeHead (ok_setGrid h))) (ok_recordFailed (ok_writeStatus (ok_dropGrid h)))

theorem ok_execCommitAbort {ctx index : Nat} : NextOk (execCommitAbort ctx index s) := by
  unfold execCommitAbort
  dsimp only
  split
  · exact h
  split
  · split
    · next e => exact ok_abortStop h e
    · exact nextOk_ite (ok_unlessHeld h (ok_abortRecord (ok_unqueue (ok_discardTeams h)))) h
  · exact h

theorem ok_execVigilReplay {ctx index : Nat} : NextOk (execVigilReplay ctx index s) := by
  unfold execVigilReplay
  dsimp only
  split
  · exact h
  next x _ =>
  split
  · have hp := ok_released h (ok_placeTeam h (key := replayKey ctx index) (team := x.placed) (x := x)
      (f := fun c => x.origin x.placed != some (clusterOf c)))
    split <;> exact hp.of_eq ‹_›
  · exact h

theorem ok_verdict {x : Grid} {o : Nat × Nat} {v : Nat} : (s.verdict x o v).MemoryOk := ok_ite (ok_setAudit h) (ok_event (ok_setAudit h))

theorem ok_execVigilVerdict {ctx index : Nat} : NextOk (execVigilVerdict ctx index s) := by
  unfold execVigilVerdict
  dsimp only
  split
  · exact h
  split
  · exact h
  split
  · split
    · next e => exact ok_abortStop h e
    · exact nextOk_ite (ok_unlessHeld h (ok_verdict (ok_dropGrid (ok_discardTeams h)))) h
  · exact nextOk_ite (ok_unlessHeld h (ok_verdict (ok_dropGrid h))) h

theorem ok_dropReplay {ctx index : Nat} : (s.dropReplay ctx index).MemoryOk := by
  unfold State.dropReplay
  dsimp only
  split
  · split
    · exact ok_event (ok_dropGrid (ok_discardTeams h))
    · exact h
  · exact h

theorem ok_execAlmanacRecordWrite {ctx index offset : Nat} {bytes : List Byte} :
    NextOk (execAlmanacRecordWrite ctx index offset bytes s) := by
  unfold execAlmanacRecordWrite
  split
  · exact h
  · exact nextOk_ite (ok_unlessHeld h (ok_ite (ok_dropReplay (ok_touchAudit (ok_writeAs h))) (ok_writeAs h))) h

theorem ok_enqueue {ctx index : Nat} {r d : BitVec 512} : (s.enqueue ctx index r d).MemoryOk := ok_setQueueAt (ok_recordState h)

theorem ok_checkRecord {ctx index : Nat} {r : BitVec 512} : (s.checkRecord ctx index r).MemoryOk := by
  refine ok_ite (ok_recordFailed h) (ok_ite (ok_recordDone (ok_recordState h)) ?_)
  split
  · exact ok_recordFailed (ok_touch h)
  · dsimp only
    split
    · exact ok_recordFailed (ok_touch h)
    · exact ok_enqueue (ok_touch h)

theorem ok_execRecordCheck {ctx index : Nat} : NextOk (execRecordCheck ctx index s) := by
  refine nextOk_ite (ok_unlessHeld h ?_) h
  split
  · exact ok_ite (ok_checkRecord (ok_setCtx h)) (ok_touchRecord (ok_setCtx h))
  · exact ok_touchRecord (ok_setCtx h)

/-! ### The distributor (Machine/Distributor) -/

theorem ok_dequeue {die level : Nat} : (s.dequeue die level).MemoryOk := h

theorem ok_headPlaced {die level : Nat} : (s.headPlaced die level).MemoryOk := by
  unfold State.headPlaced
  split <;> exact h

theorem ok_execRecordAging {die level : Nat} : NextOk (execRecordAging die level s) := by
  unfold execRecordAging
  split
  · exact h
  · exact nextOk_ite (ok_setQueueAt (ok_setQueueAt h)) h

theorem ok_execHeadBlocking {die level : Nat} : NextOk (execHeadBlocking die level s) := by
  unfold execHeadBlocking
  split
  · exact h
  · split
    · exact ok_foldl _ _ (fun _ _ ht => ok_stopGang ht) h
    · exact h

theorem ok_served {level die : Nat} : (s.served level die).MemoryOk := h

theorem ok_noteFailing {die level : Nat} : (s.noteFailing die level).MemoryOk := by
  unfold State.noteFailing
  split
  · exact ok_ite (ok_setQueueAt h) h
  · exact h

theorem ok_noteEntry {die level : Nat} {e : QEntry} : (s.noteEntry die level e).MemoryOk := ok_ite (ok_noteFailing h) h

theorem ok_accept {die : Nat} {e : QEntry} : PlacedOk (s.accept die e) := by
  unfold State.accept
  dsimp only
  split
  · exact h
  · have h1 := ok_recordState (ctx := e.ctx) (index := e.index) (st := rsRunning)
      (ok_same (t := { s.addLocks e.ctx s.nextCmd (recordLocks s (recKind e.record) die (blockWords e.desc)) with
        ecmds := s.ecmds ++ [⟨s.nextCmd, engKindOf (recKind e.record), blockWords e.desc, 256 * die, recordTeam, 0, e.ctx, true, 0, false,
          none, some e.index⟩]
        nextCmd := s.nextCmd + 1 }) (ok_addLocks h (ctx := e.ctx) (cmd := s.nextCmd)
          (l := recordLocks s (recKind e.record) die (blockWords e.desc))))
    exact ok_ite (ok_deliverProgram h1) (ok_ite (ok_endCommand h1) h1)

theorem ok_tryEntry {die level : Nat} {e : QEntry} : PlacedOk (s.tryEntry die level e) := by
  unfold State.tryEntry
  dsimp only
  split
  · split
    · next e1 => exact ok_dequeue ((ok_accept h).of_eq e1)
    · exact ok_accept h
  have h0 := ok_setGrid h (k := gridKey e.ctx e.index) (x := s.entryGrid e)
  split
  · exact h
  split
  · have hp := ok_released h (ok_placeTeam h0 (key := gridKey e.ctx e.index) (team := (s.entryGrid e).placed) (x := s.entryGrid e)
      (f := fun _ => true))
    split
    · next s1 e1 =>
      have h1 : s1.MemoryOk := hp.of_eq e1
      have h2 : (if (s.entryGrid e).placed = 0 then s1.recordState e.ctx e.index rsRunning else s1).MemoryOk := ok_ite (ok_recordState h1) h1
      exact ok_ite (ok_dequeue h2) (ok_headPlaced h2)
    · exact hp
  · have hp := ok_released h (ok_placeTeams h0 (key := gridKey e.ctx e.index) (n := recTeams e.record) (i := 0))
    split
    · next e1 => exact ok_dequeue (ok_recordState (hp.of_eq e1))
    · exact hp

theorem ok_tryHead {die level : Nat} {e : QEntry} : PlacedOk (s.tryHead die level e) := by
  unfold State.tryHead
  split
  · exact ok_restoreGang h
  · exact ok_tryEntry h

theorem ok_scanBlocking {level : Nat} {l : List Nat} : ScanOk (s.scanBlocking level l) := by
  induction l generalizing s with
  | nil => exact h
  | cons d r ih =>
    unfold State.scanBlocking
    split
    · exact ih h
    split
    · split
      · next e => exact ok_served ((ok_tryHead h).of_eq e)
      · next e => exact ih ((ok_tryHead h).of_eq e)
      · next e => exact (ok_tryHead h).of_eq e
    · exact ih h

theorem ok_scanHeads {level : Nat} {held : Bool} {l : List Nat} : ScanOk (s.scanHeads level held l) := by
  induction l generalizing s with
  | nil => exact h
  | cons d r ih =>
    unfold State.scanHeads
    split
    · exact ih h
    split
    · exact ih h
    · split
      · next e => exact ok_served ((ok_tryHead h).of_eq e)
      · next e => exact ih (ok_noteFailing ((ok_tryHead h).of_eq e))
      · next e => exact (ok_tryHead h).of_eq e

theorem ok_scanGangs {level : Nat} {l : List (Nat × QEntry)} : ScanOk (s.scanGangs level l) := by
  induction l generalizing s with
  | nil => exact h
  | cons p r ih =>
    unfold State.scanGangs
    split
    · next e => exact ok_served ((ok_tryHead h).of_eq e)
    · next e => exact ih (ok_noteEntry ((ok_tryHead h).of_eq e))
    · next e => exact (ok_tryHead h).of_eq e

theorem ok_scan {held : Bool} {l : List Nat} : (s.scan held l).MemoryOk := by
  induction l generalizing s held with
  | nil => exact h
  | cons l r ih =>
    unfold State.scan
    split
    · split <;> next e => exact (ok_scanBlocking h).of_eq e
    · split
      · next e => exact (ok_scanGangs h).of_eq e
      · next e => exact (ok_scanGangs h).of_eq e
      · next s1 e =>
        have h1 : s1.MemoryOk := (ok_scanGangs h).of_eq e
        dsimp only
        split
        · next e2 => exact (ok_scanHeads h1).of_eq e2
        · next e2 => exact (ok_scanHeads h1).of_eq e2
        · next e2 => exact ih ((ok_scanHeads h1).of_eq e2)

theorem ok_execPlacementStep : NextOk (execPlacementStep s) := ok_unlessHeld h (ok_scan h)
theorem ok_execTeamRestore {ctx index team : Nat} : NextOk (execTeamRestore ctx index team s) := ok_unlessHeld h (ok_ite (ok_scan h) h)

end

end Sys2Proof.Proofs
end

section
/-! The canonical form of memory (continued): the services, Equinox, the fabric, power, and the mailbox. -/

namespace Sys2Proof.Proofs

open Sys2Proof.Machine Sys2Proof.Laws

set_option Elab.async false

section
variable {s : State} (h : s.MemoryOk)
include h

/-! ### Completions, page responses, snapshots of the batch table (Machine/Service) -/

theorem ok_execLoadDataArrival {core slot n : Nat} {path : Path} : NextOk (execLoadDataArrival core slot path n s) := by
  unfold execLoadDataArrival
  dsimp only
  split
  · exact h
  · exact nextOk_ite h (ok_setGroupAt h)

theorem ok_accessDone {core slot n : Nat} {path : Path} {a : Access} : (s.accessDone core slot path n a).MemoryOk := by
  unfold State.accessDone
  dsimp only
  split
  · exact ok_ite (ok_haltGroup (ok_setGroupAt h)) (ok_setGroupAt h)
  · exact ok_setGroupAt h

theorem ok_execAccessComplete {core slot n : Nat} {path : Path} : NextOk (execAccessComplete core slot path n s) := by
  unfold execAccessComplete
  split
  · exact h
  · exact ok_ite (ok_serveAts (ok_accessDone h)) h

theorem ok_assistPush {team : Nat} {l : List (Nat × List W32)} {t : State} (e : s.assistPush team l = some t) : t.MemoryOk := by
  induction l generalizing s with
  | nil => cases e; exact h
  | cons q r ih =>
    unfold State.assistPush at e
    split at e
    · exact ih h e
    · split at e
      · cases e
      · exact ih (ok_setTeam h) e

theorem ok_execFpSubnormalAssist {core slot : Nat} : NextOk (execFpSubnormalAssist core slot s) := by
  unfold execFpSubnormalAssist
  dsimp only
  split
  · exact h
  split
  · exact h
  · next e => exact ok_setGroupAt (ok_setCore (ok_assistPush h e))

theorem ok_execWalkRequest {core : Nat} {r : WalkReq} : NextOk (execWalkRequest core r s) :=
  nextOk_ite h (nextOk_ite (ok_setGroupAt (ok_setCore h)) (ok_setCore h))

theorem ok_groupResponse {core slot : Nat} {b : Bool} : (s.groupResponse core slot b).MemoryOk := ok_ite (ok_setGroupAt h) (ok_setGroupAt h)
theorem ok_engineResponse {c : ECmd} {b : Bool} : (s.engineResponse c b).MemoryOk := ok_ite h (ok_endCause h)

theorem ok_progResponse {stack sdue : Nat} {p : NmProg} {b : Bool} : (s.progResponse stack sdue p b).MemoryOk := by
  have h1 : ({ s with cur := { s.cur with stack := stack, sdue := sdue, stream := .sdue } } : State).MemoryOk := h
  exact ok_ite (ok_setProg h1) (ok_progFail h1)

theorem ok_matrixResponse {core : Nat} {m : MCmd} {r : WalkReq} {b : Bool} : (s.matrixResponse core m r b).MemoryOk :=
  ok_ite (ok_setCore h) (ok_mxDone h)

theorem ok_batchResponse {die : Nat} {x : Batch} {r : WalkReq} {b : Bool} : (s.batchResponse die x r b).MemoryOk := by
  refine ok_ite (ok_setDie h) ?_
  split
  · exact ok_rowOver (ok_setDie h)
  · exact ok_setDie h

/-- The state that a page response leaves is that of the requester which asked. -/
theorem ok_asked {who : Requester} {b : Bool} {q : WalkReq × State} (e : s.asked who b = some q) : q.2.MemoryOk := by
  have group : ∀ core slot, (match (s.groupAt core slot).pageReq with
      | some r => if r.who = who then some (r, s.groupResponse core slot b) else none
      | none => none) = some q → q.2.MemoryOk := by
    intro core slot e
    split at e
    · split at e
      · cases e; exact ok_groupResponse h
      · cases e
    · cases e
  cases who with
  | scalar core slot => exact group core slot e
  | lane core slot => exact group core slot e
  | command id =>
    simp only [State.asked, Option.orElse_eq_orElse, Option.orElse_eq_or, Option.or_eq_some_iff, List.findSome?_eq_some_iff,
      Option.ite_none_right_eq_some, Option.map_eq_some_iff] at e
    obtain ⟨_, _, _, -, ⟨_, _, _, -, ⟨-, _, -, rfl⟩, -⟩, -⟩ | ⟨-, ⟨_, _, _, -, ⟨-, _, -, rfl⟩, -⟩ |
      ⟨-, ⟨_, _, _, -, ⟨_, _, _, -, ⟨-, _, -, rfl⟩, -⟩, -⟩ |
      ⟨-, _, _, _, -, ⟨_, _, _, -, ⟨-, _, -, rfl⟩, -⟩, -⟩⟩⟩ := e
    · exact ok_progResponse h
    · exact ok_engineResponse h
    · exact ok_matrixResponse h
    · exact ok_batchResponse h

theorem ok_execPageRequestResponse {who : Requester} {b : Bool} : NextOk (execPageRequestResponse who b s) := by
  unfold execPageRequestResponse
  split
  · exact h
  next p _ =>
  have h1 : ({ s with priOut := s.priOut.erase p } : State).MemoryOk := h
  refine ok_unlessHeld h (ok_nextPage ?_)
  split
  · next e => exact ok_ite (ok_asked h1 e) h1
  · exact h1

theorem ok_execAtsInvalidateRequest {pasid : Nat} {va : Word} : NextOk (execAtsInvalidateRequest pasid va s) := by
  unfold execAtsInvalidateRequest
  exact ok_serveAts (ok_same h)

theorem ok_snapEntry {ctx base i : Nat} : (s.snapEntry ctx base i).1.MemoryOk := by
  unfold State.snapEntry
  split
  · exact h
  · exact ok_ite_fst (ok_same (ok_touch h)) (ok_touch h)

theorem ok_snapEntries {cluster ctx base array n i : Nat} : (s.snapEntries cluster ctx base array n i).MemoryOk := by
  induction n generalizing s i with
  | zero => exact h
  | succ n ih =>
    unfold State.snapEntries
    split
    · next e =>
      have h1 := ok_of_fst (ok_snapEntry h) e
      exact ih (ok_ite (ok_deviceWrite h1) h1)
    · exact ih (ok_of_fst (ok_snapEntry h) ‹_›)

theorem ok_execBatchTableSnapshot {cluster ctx : Nat} : NextOk (execBatchTableSnapshot cluster ctx s) := by
  unfold execBatchTableSnapshot
  split
  · exact h
  · exact nextOk_ite h (ok_unlessHeld h (ok_deviceWrite (ok_snapEntries (ok_same h))))

/-! ### Equinox (Machine/Equinox) -/

theorem ok_stepDone {d n : Nat} : (s.stepDone d n).MemoryOk := ok_ite h h
theorem ok_drainedCut : s.drainedCut.MemoryOk := ok_ite h h
theorem ok_markersMet : s.markersMet.MemoryOk := ok_ite (ok_drainedCut (ok_same h)) h
theorem ok_sendMarker {f : Nat} : (s.sendMarker f).MemoryOk := h

theorem ok_freezeFlow {m : FabricMsg} : (s.freezeFlow m).MemoryOk := by
  unfold State.freezeFlow
  exact ok_foldl _ _ (fun _ _ ht => ok_send ht) (ok_send (ok_event (ok_setFlow h)))

theorem ok_landMessage {m : FabricMsg} {t : State} (e : s.landMessage m = some t) : t.MemoryOk := by
  unfold State.landMessage at e
  split at e
  · cases e; exact ok_freezeFlow h
  split at e
  · cases e; exact h
  split at e
  · cases e
  · cases e; exact ok_messageWrite m h

theorem ok_keepMessage {m : FabricMsg} : (s.keepMessage m).MemoryOk := h

theorem ok_letIn {m : FabricMsg} : (s.letIn m).MemoryOk := by
  unfold State.letIn
  dsimp only
  split
  · exact ok_keepMessage h
  split
  · next e => exact ok_landMessage h e
  · exact ok_keepMessage h

theorem ok_letOn {m : FabricMsg} : (s.letOn m).MemoryOk := by
  unfold State.letOn
  dsimp only
  split
  · exact h
  split
  · next e => exact ok_landMessage (ok_setFlow h) e
  · exact h

theorem ok_gap {m : FabricMsg} : (s.gap m).MemoryOk := ok_ite h (ok_ite (ok_send h) (ok_letIn (ok_setFlow (ok_send h))))

theorem ok_execFabricMessageArrival {m : FabricMsg} : NextOk (execFabricMessageArrival m s) :=
  nextOk_ite h (nextOk_ite (ok_letOn h) (nextOk_ite (ok_send h) (nextOk_ite (ok_letIn (ok_setFlow h)) (nextOk_ite (ok_gap h) h))))

theorem ok_execCutMarkerReceived {f : Nat} : NextOk (execCutMarkerReceived f s) :=
  nextOk_ite (ok_markersMet (ok_same (ok_ite (ok_setFlow h) h))) (ok_ite (ok_setFlow h) h)

theorem ok_warmPages : s.warmPages.MemoryOk := ok_foldl _ _ (fun _ _ ht => ok_foldl _ _ (fun _ _ hu => ok_warm hu) ht) h

theorem ok_takeCut : s.takeCut.MemoryOk := by
  unfold State.takeCut
  exact ok_markersMet (ok_foldl _ _ (fun _ _ ht => ok_sendMarker ht) (ok_foldl _ _ (fun _ _ ht => ok_letIn ht) (ok_flushQueue (ok_same h))))

theorem ok_execStackSnapshotAck {stack : Nat} : NextOk (execStackSnapshotAck stack s) :=
  nextOk_ite (ok_ite (ok_takeCut (ok_same (ok_warmPages h))) (ok_same (ok_warmPages h))) h

theorem ok_execShadowCopy {frame : Nat} : NextOk (execShadowCopy frame s) := nextOk_ite h h

theorem ok_cutImage {frame : Nat} : (s.cutImage frame).1.MemoryOk := by
  unfold State.cutImage
  dsimp only
  split
  · exact h
  · exact ok_same (ok_checkRead (s := { s with eqx := { s.eqx with queued := [] } }) h)

theorem ok_execDrainFrame {frame : Nat} : NextOk (execDrainFrame frame s) := by
  unfold execDrainFrame
  split
  · split
    · exact h
    · next ctx _ _ => exact ok_drainedCut (ok_flushQueue (ok_same (ok_cutImage (frame := frame) (ok_asContext (ctx := ctx) h))))
  · exact h

theorem ok_execCutFailed : NextOk (execCutFailed s) := nextOk_ite (ok_event (ok_flushQueue (ok_same h))) h

/-! ### Collectives (Machine/Collective) -/

theorem ok_collPart {w : Who} {x : CollPack} {out : List Byte × List Bool} {off : Nat} : (collPart w x out off s).MemoryOk := by
  unfold collPart
  split
  · next e => exact ok_putSome ((ok_movePieces h).ok e)
  · exact h

theorem ok_advance {d : Nat} {x : Domain} : (s.advance d x).MemoryOk := ok_stepDone (ok_same h)

theorem ok_collRun {c : ECmd} {x : CollPack} {d : Domain} {l : List Contribution} : (collRun c x d l s).MemoryOk := by
  unfold collRun
  dsimp only
  split
  · exact ok_engStop h fun _ => h
  · next s1 a e =>
    have h1 : ((readPieces s1 a).1.engineReads c.team none a).MemoryOk := ok_engineReads (ok_readPieces ((ok_movePieces h).ok e))
    split
    · exact ok_engStop h fun _ => ok_collPart h1
    · next e2 => exact ok_advance (ok_endCommand (ok_putPoisoned ((ok_movePieces h1).ok e2)))

theorem ok_execCollectiveStepComplete {cmd : Nat} {l : List Contribution} : NextOk (execCollectiveStepComplete cmd l s) := by
  unfold execCollectiveStepComplete
  split
  · exact h
  dsimp only
  split
  · exact h
  · exact nextOk_ite h (ok_unlessHeld h (ok_serveAts (ok_withKey (ok_collRun (ok_asServed h)))))

/-! ### Scrubbing, migration, power (Machine/Recovery, Machine/Power) -/

theorem ok_logAt {a code : Nat} {scrub : Bool} : (s.logAt a code scrub).MemoryOk := (logAt_same s a code scrub).ok h
theorem ok_meetMark {scrub : Bool} {p : Nat × Mark} : (s.meetMark scrub p).1.MemoryOk := (meetMark_same s scrub p).ok h
theorem ok_scrubTags {a n : Nat} : (s.scrubTags a n).MemoryOk := ok_ite h (ok_foldl _ _ (fun _ _ ht => ok_logAt ht) h)

theorem ok_execScrubPass {stack frame granule : Nat} : NextOk (execScrubPass stack frame granule s) := by
  unfold execScrubPass
  split
  · exact h
  dsimp only
  split
  · exact h
  · exact ok_scrubTags (ok_foldl _ _ (fun _ _ ht => ok_ite (ok_same (ok_meetMark ht)) (ok_meetMark ht)) h)

theorem ok_meetAll {l : List (Nat × Mark)} : (s.meetAll l).MemoryOk := ok_foldl l _ (fun _ _ ht => ok_meetMark ht) h
theorem ok_migrationAbort {ctx n : Nat} {va : Word} : (s.migrationAbort ctx va n).MemoryOk := ok_event (ok_logAt h)

theorem ok_migrateTo {ctx level ea dst : Nat} {va e : Word} {g : Granule} : (s.migrateTo ctx va level e ea dst g).1.MemoryOk := by
  unfold State.migrateTo
  have h0 : (if e.getLsbD 10 then s.withKey (s.ctxAt ctx).key else s.withKey none).MemoryOk := ok_ite (ok_withKey h) (ok_withKey h)
  exact ok_ite_fst (ok_withKey (ok_migrationAbort (ok_meetAll h0)))
    (ok_dropTlb (ok_withKey (ok_writeLeaf _ _ _ _ _ (ok_withKey (ok_copyFrames _ _ _ _ (ok_setCtx (ok_meetAll h0)))))))

omit h in
/-- The state that a migration leaves, where it has not been put off. -/
def MigratedOk : Migrated → Prop
  | .later => True
  | .refused t _ => t.MemoryOk
  | .done t => t.MemoryOk

theorem ok_migrate {ctx : Nat} {va : Word} {g : Granule} : MigratedOk (s.migrate ctx va g) := by
  unfold State.migrate
  split
  · exact ok_migrationAbort h
  dsimp only
  split
  · exact ok_migrationAbort h
  split
  · exact h
  split
  · exact ok_migrationAbort h
  split
  · exact h
  split
  · trivial
  split
  · exact h
  split
  · trivial
  split
  · exact ok_of_fst (ok_migrateTo h) ‹_›
  · exact ok_of_fst (ok_migrateTo h) ‹_›

theorem ok_execSupplySagTrip {die : Nat} : NextOk (execSupplySagTrip die s) := nextOk_ite h h
theorem ok_execSupplySagClear {die : Nat} : NextOk (execSupplySagClear die s) := nextOk_ite h h
theorem ok_execClockStepUp {die : Nat} : NextOk (execClockStepUp die s) := nextOk_ite h h
theorem ok_execBloomFilterClear {stack : Nat} : NextOk (execBloomFilterClear stack s) := nextOk_ite h h

theorem ok_execSensorSample : NextOk (execSensorSample s) :=
  nextOk_ite h (ok_foldl _ _ (fun _ _ ht => ok_event ht) (ok_same h))

theorem ok_execModuleReset {cap : Capability} {boot : Boot} : NextOk (execModuleReset cap boot s) := by
  cases e : execModuleReset cap boot s with
  | next t => exact ok_moduleReset h e
  | fault _ => trivial
  | refused _ => trivial

/-! ### The mailbox (Machine/Mailbox) -/

theorem ok_answer {hd : MbHdr} {op result value : Nat} {b : Option (List Byte)} : (s.answer hd op result value b).MemoryOk := ok_ite h h
theorem ok_mbTake {hd : MbHdr} {op : Nat} {ctx : Option Nat} {o : MbOperands} : (s.mbTake hd op ctx o).MemoryOk := ok_ite h h

/-- A mailbox command keeps the form where its work does. -/
theorem ok_mbRun {hd : MbHdr} {op : Nat} {ctx : Option Nat} {o : MbOperands} {run : State → State × Bool}
    (hr : ∀ t : State, t.MemoryOk → (run t).1.MemoryOk) : NextOk (mbRun hd op ctx o run s) := by
  unfold mbRun
  dsimp only
  split
  · exact h
  · have h2 := fun b : Bool => ok_mbTake (hd := hd) (op := op) (ctx := ctx) (o := o)
      (ok_ite (c := b = true) (ok_same (t := { s with inbox := s.inbox.filter fun q => q.1 != hd.slot % 16 }) h) h)
    exact nextOk_ite (h2 _) (hr _ (h2 _))

theorem ok_mbChecked {hd : MbHdr} {op bad : Nat} {ctx : Option Nat} {o : MbOperands} {f : State → State}
    (hf : ∀ t : State, t.MemoryOk → (f t).MemoryOk) : NextOk (mbChecked hd op ctx o bad f s) := by
  unfold mbChecked
  refine ok_mbRun h fun t ht => ?_
  exact ok_ite (ok_answer ht) (ok_answer (hf t ht))

theorem ok_mbReads {hd : MbHdr} {op value : Nat} {b : Option (List Byte)} : NextOk (mbReads hd op value b s) :=
  ok_mbRun h fun _ ht => ok_ite (ok_answer ht) (ok_answer ht)

theorem ok_mbWaits {hd : MbHdr} {op bad : Nat} {ctx : Option Nat} {waits : Bool} {f : State → State}
    (hf : ∀ t : State, t.MemoryOk → (f t).MemoryOk) : NextOk (mbWaits hd op ctx waits bad f s) :=
  nextOk_ite (ok_mbRun h fun _ ht => ht) (ok_mbChecked h hf)

theorem ok_writeContext {ctx : Nat} {d : BitVec 1024} : (s.writeContext ctx d).MemoryOk := ok_ite h h

theorem ok_dropContext {ctx : Nat} : (s.dropContext ctx).MemoryOk := by
  unfold State.dropContext
  generalize Ctx.init = c
  exact ok_same (s := s.dropTlb ctx none) (ok_dropTlb h)

theorem ok_invalidate {ctx : Nat} : (s.invalidate ctx).1.MemoryOk := ok_ite_fst (ok_setCtx (ok_dropTlb h)) (ok_setCtx (ok_dropTlb h))

theorem ok_execInvalidateTranslations {hd : MbHdr} {ctx : Nat} : NextOk (execInvalidateTranslations hd ctx s) := by
  unfold execInvalidateTranslations
  refine ok_mbRun h fun t ht => ?_
  refine ok_ite_fst (ok_answer ht) ?_
  split
  · exact ok_of_fst (ok_invalidate ht) ‹_›
  · next e => exact ok_answer (ok_setCtx (ok_of_fst (ok_invalidate ht) e))

theorem ok_leaveTeam {g : Group} : (s.leaveTeam g).MemoryOk := by
  unfold State.leaveTeam
  split
  · exact h
  · dsimp only
    split <;> exact h

theorem ok_freeSlot {core slot : Nat} : (s.freeSlot core slot).MemoryOk :=
  ok_leaveCore (ok_setGroupAt (ok_setCore (ok_leaveTeam h)))

theorem ok_execPreempt {hd : MbHdr} {ctx : Nat} {task : Option Nat} : NextOk (execPreempt hd ctx task s) :=
  ok_mbChecked h fun _ ht => ok_foldl _ _ (fun _ _ hu => ok_stopGang hu) ht

theorem ok_execEquinoxDisarm {hd : MbHdr} : NextOk (execEquinoxDisarm hd s) :=
  ok_mbChecked h fun _ ht => ok_foldl _ _ (fun _ _ hu => ok_letIn hu) (ok_same ht)

theorem ok_execMigratePage {hd : MbHdr} {ctx : Nat} {va : Word} {g : Granule} : NextOk (execMigratePage hd ctx va g s) := by
  unfold execMigratePage
  refine ok_mbRun h fun t ht => ?_
  refine ok_ite_fst (ok_answer ht) ?_
  have hm := ok_migrate ht (ctx := ctx) (va := va) (g := g)
  split
  · exact ht
  · next e => rw [e] at hm; exact ok_answer hm
  · next e => rw [e] at hm; exact ok_answer hm

theorem ok_execUnknownMailboxOp {hd : MbHdr} {op : BitVec 8} : NextOk (execUnknownMailboxOp hd op s) :=
  nextOk_ite h (ok_mbRun h fun _ ht => ok_answer ht)

end

end Sys2Proof.Proofs
end

section
/-! The canonical form of memory (continued): the instructions and events, one by one. -/

namespace Sys2Proof.Proofs

open Sys2Proof.Machine Sys2Proof.Laws

set_option Elab.async false

section
variable {s : State} (h : s.MemoryOk)
include h

/-! ### The shapes of lane words (Machine/LaneArith and its neighbours): each is `runLane` of its own operands -/

theorem ok_laneWord {w : L3} {pair : Bool} {srcs : List VReg} {masks : List Nat} {f : Env → LaneDo} :
    NextOk (laneWord w pair srcs masks f s) := ok_runLane h
theorem ok_laneMask {w : L3} {pair : Bool} {srcs : List VReg} {f : Env → List (Nat × Bool × Flags)} :
    NextOk (laneMask w pair srcs f s) := ok_runLane h
theorem ok_maskWord {w : L3} {srcs : List Nat} {f : Env → Word} : NextOk (maskWord w srcs f s) := ok_runLane h
theorem ok_float2 {w : L3} {op : FVal → FVal → FVal × Flags} : NextOk (float2 w op s) := ok_laneWord h
theorem ok_floatIntegral {w : L3} {mode : Rnd} : NextOk (floatIntegral w mode s) := ok_laneWord h
theorem ok_int2 {w : L3} {op : Int → Int → Int} : NextOk (int2 w op s) := ok_laneWord h
theorem ok_bits2 {w : L3} {op : Word → Word → Word} : NextOk (bits2 w op s) := ok_laneWord h
theorem ok_laneShift {w : L3} {op : Nat → Nat → Word} : NextOk (laneShift w op s) := ok_runLane h
theorem ok_laneCount {w : L3} {f : Nat → Nat} : NextOk (laneCount w f s) := ok_runLane h
theorem ok_applyWord {w : L3} {ds : List Bool} : NextOk (applyWord w ds s) := by
  unfold applyWord
  exact ok_runLane h
theorem ok_softWord {w : L3} {merge : Bool} : NextOk (softWord w merge s) := by
  unfold softWord
  exact ok_runLane h
theorem ok_acrossWord {w : L3} {srcs : List (VReg × Bool)} {bound : Nat} {across : List Nat} {reach : Env → Nat → Nat × Nat}
    {f : Env → LaneDo} : NextOk (acrossWord w srcs bound across reach f s) := by
  unfold acrossWord
  exact ok_runLane h
theorem ok_exchWord {w : L3} {srcs : List (VReg × Bool)} {bound : Nat} {f : Env → LaneDo} : NextOk (exchWord w srcs bound f s) := ok_runLane h

/-! Lane words of a shape of their own -/

theorem ok_execOsnorm {w : L3} : NextOk (execOsnorm w s) := by
  unfold execOsnorm
  exact ok_runLane h

theorem ok_execCvt {w : L3} : NextOk (execCvt w s) := by
  unfold execCvt
  exact ok_runLane h

theorem ok_execQblk {w : L3} : NextOk (execQblk w s) := by
  unfold execQblk
  exact ok_runLane h

theorem ok_execXscan {w : L3} : NextOk (execXscan w s) := by
  unfold execXscan
  exact ok_runLane h

theorem ok_execSample {w : L3} : NextOk (execSample w s) := by
  unfold execSample
  exact ok_runLane h

theorem ok_execMpop {w : L3} : NextOk (execMpop w s) := by
  unfold execMpop
  exact ok_runLane h

theorem ok_execRand {w : L3} : NextOk (execRand w s) := by
  unfold execRand
  exact ok_runLane h

theorem ok_execXbfly {w : L3} : NextOk (execXbfly w s) := by
  unfold execXbfly
  exact ok_acrossWord h

theorem ok_execXperm {w : L3} : NextOk (execXperm w s) := by
  unfold execXperm
  exact ok_acrossWord h

theorem ok_execXbcast {w : L3} : NextOk (execXbcast w s) := by
  unfold execXbcast
  exact ok_acrossWord h

theorem ok_execIfWord {w : L3} : NextOk (execIfWord w s) := by
  unfold execIfWord
  exact ok_ctlWord h

theorem ok_execBreakif {w : L3} : NextOk (execBreakif w s) := by
  unfold execBreakif
  exact ok_ctlWord h

theorem ok_execExmw {w : L3} : NextOk (execExmw w s) := by
  unfold execExmw
  exact ok_ctlWord h

theorem ok_execSetUpFlow {hd : MbHdr} {desc : BitVec 576} : NextOk (execSetUpFlow hd desc s) := by
  unfold execSetUpFlow
  exact ok_mbChecked h fun _ ht => ok_setFlow ht

/-! ### The dispatch -/

/-- Whatever an instruction or an event does, the memory of its next state is in canonical form. -/
theorem ok_exec {i : Instr} : NextOk (exec i s) := by
  unfold exec
  cases i with
  | add | sub | mul | mulh | mulhz | div | divz | rem | remz | and | or | xor | andn | shl | shr | sar | rotr | min | max | minz | maxz
      | slt | sltz => exact ok_aluTwoSrc h
  | clz | popc | sextB | sextH | sextW | zextB | zextH | zextW | shli | shri | sari => exact ok_aluOneSrc h
  | sel | lhi | pchi => exact ok_scalarResult h
  | addi | andi | ori | xori | slti => exact ok_aluImm h
  | lds | ldz => exact ok_scalarLoad h
  | st => exact ok_execSt h
  | satomW | satomD => exact ok_satom h
  | b | call | movk | rngseed | stackCacheWriteback | attestationRequest => exact h
  | bcEq | bcNe | bcLt | bcGe | bcLtz | bcGez => exact ok_branchIf h
  | callr | ret | jr => exact ok_jumpReg h
  | lissue => exact ok_execLissue h
  | lqwait => exact nextOk_ite h h
  | spop => exact ok_execSpop h
  | regroup => exact ok_execRegroup h
  | bar => exact ok_execBar h
  | bararrive => exact ok_execBararrive h
  | barwait => exact ok_execBarwait h
  | fence | fenceAcq | fenceRel => exact ok_fenceWord h
  | waitp => exact ok_execWaitp h
  | waitg => exact ok_execWaitg h
  | waitgTimeout => exact ok_execWaitgTimeout h
  | yield => exact ok_execYield h
  | sleep => exact ok_execSleep h
  | sleepExpiry => exact ok_execSleepExpiry h
  | fnfence => exact ok_execFnfence h
  | racq => exact ok_execRacq h
  | rrel => exact ok_execRrel h
  | tlaunch => exact ok_execTlaunch h
  | gexit => exact ok_execGexit h
  | groupExitComplete => exact ok_execGroupExitComplete h
  | tretire => exact ok_execTretire h
  | mloop => exact ok_execMloop h
  | mstore => exact ok_execMstore h
  | mzero => exact ok_execMzero h
  | mfence => exact ok_execMfence h
  | mwait => exact ok_execMwait h
  | matrixCommandComplete => exact ok_execMatrixCommandComplete h
  | bfqpost => exact ok_execBfqpost h
  | bfqwait => exact ok_execBfqwait h
  | batchFormTimeout => exact ok_execBatchFormTimeout h
  | batchComplete => exact ok_execBatchComplete h
  | copy => exact ok_execCopy h
  | gather => exact ok_execGather h
  | mcast => exact ok_execMcast h
  | coll => exact ok_execColl h
  | nmlaunch => exact ok_execNmlaunch h
  | engineCommandComplete => exact ok_execEngineCommandComplete h
  | collectiveStepComplete => exact ok_execCollectiveStepComplete h
  | jrnlAdd => exact ok_execJrnlAdd h
  | jrnlCommit => exact ok_execJrnlCommit h
  | jrnlDrop => exact ok_execJrnlDrop h
  | trap => exact ok_trapScalar h
  | eret => exact ok_execEret h
  | bkpt => exact ok_trapS h
  | tlbfill => exact ok_execTlbfill h
  | tlbinv => exact ok_execTlbinv h
  | fload => exact ok_execFload h
  | setfmt => exact ok_execSetfmt h
  | csrr => exact ok_execCsrr h
  | csrw => exact ok_execCsrw h
  | csrx => exact ok_execCsrx h
  | laneQueueScalarEffect => exact ok_execLaneQueueScalarEffect h
  | functionRegisterSwitch => exact ok_execFunctionRegisterSwitch h
  | fadd | fsub | fmul | fmin | fmax => exact ok_float2 h
  | ffma | fsel | fclass | imad | bfx | bfi | brev | isel | mov | movi | dqblk | fkey | funkey => exact ok_laneWord h
  | fcmp | icmp | vote => exact ok_laneMask h
  | ftrunc | fround => exact ok_floatIntegral h
  | apply | applyd | apply2 => exact ok_applyWord h
  | osmax | osmerge => exact ok_softWord h
  | iadd | isub | imul | imulh | imin | imax => exact ok_int2 h
  | laneAnd | laneOr | laneXor => exact ok_bits2 h
  | laneShl | laneShr | laneSar => exact ok_laneShift h
  | lanePopc | laneClz => exact ok_laneCount h
  | xred => exact ok_exchWord h
  | mand | mor | mnot => exact ok_maskWord h
  | osnorm => exact ok_execOsnorm h
  | cvt => exact ok_execCvt h
  | qblk => exact ok_execQblk h
  | xscan => exact ok_execXscan h
  | sample => exact ok_execSample h
  | mpop => exact ok_execMpop h
  | rand => exact ok_execRand h
  | xbfly => exact ok_execXbfly h
  | xperm => exact ok_execXperm h
  | xbcast => exact ok_execXbcast h
  | lret => exact ok_execLret h
  | vld | vst | vldv | vstv | vldm | vstm | vatom | vatomv | nmatom => exact ok_memWord h
  | vpref => exact ok_execVpref h
  | nmfence => exact ok_execNmfence h
  | rpf => exact ok_execRpf h
  | accrd => exact ok_execAccrd h
  | accwr => exact ok_execAccwr h
  | ifWord => exact ok_execIfWord h
  | breakif => exact ok_execBreakif h
  | exmw => exact ok_execExmw h
  | elseWord | endifWord | loopany | exmr => exact ok_ctlWord h
  | endloop => exact ok_execEndloop h
  | pairFaddF32 | pairFsubF32 | pairFmulF32 | pairFmacF32 | pairFminF32 | pairFmaxF32 | pairFaddF16 | pairFsubF16 | pairFmulF16 |
      pairFmacF16 | pairIaddS32 | pairIsubS32 | pairAndB32 | pairOrB32 | pairXorB32 | pairShlB32 | pairShrB32 | pairSarS32 | pairIminS32
      | pairImaxS32 | pairMovB32 | pairCvtF32S32 | pairCvtS32F32 | pairFkeyF32 | pairXbflyB32 => exact ok_pairWord h
  | nld => exact ok_execNld h
  | nst => exact ok_execNst h
  | nfadd | nfmul | nfmax | nfmin => exact ok_wideFloat2 h
  | nfma => exact ok_execNfma h
  | napply => exact ok_execNapply h
  | ncvt => exact ok_execNcvt h
  | nscale => exact ok_execNscale h
  | natom => exact ok_execNatom h
  | nlock => exact ok_execNlock h
  | nunlock => exact ok_execNunlock h
  | nloopSet => exact ok_execNloopSet h
  | nloopStep => exact ok_execNloopStep h
  | nbr => exact ok_execNbr h
  | nend => exact ok_execNend h
  | nsignal => exact ok_execNsignal h
  | nmov => exact ok_execNmov h
  | niadd => exact ok_execNiadd h
  | ncmp => exact ok_execNcmp h
  | nsel => exact ok_execNsel h
  | nwait => exact ok_execNwait h
  | nwaitExpiry => exact ok_execNwaitExpiry h
  | nmProgramStart => exact ok_execNmProgramStart h
  | nmatomPerform => exact ok_execNmatomPerform h
  | depcntDecrement => exact ok_unlessHeld h (ok_decrement h)
  | almanacRecordWrite => exact ok_execAlmanacRecordWrite h
  | recordCheck => exact ok_execRecordCheck h
  | recordAging => exact ok_execRecordAging h
  | headBlocking => exact ok_execHeadBlocking h
  | placementStep => exact ok_execPlacementStep h
  | teamRetirement => exact ok_execTeamRetirement h
  | commitPublish => exact ok_execCommitPublish h
  | commitAbort => exact ok_execCommitAbort h
  | vigilReplay => exact ok_execVigilReplay h
  | vigilVerdict => exact ok_execVigilVerdict h
  | groupSwap => exact ok_enterVacant h
  | starvationFlag => exact ok_execStarvationFlag h
  | forcedSwap => exact ok_execForcedSwap h
  | dependenceResolved => exact ok_execDependenceResolved h
  | compaction => exact ok_ite (ok_compact h) h
  | teamSave => exact ok_execTeamSave h
  | teamRestore => exact ok_execTeamRestore h
  | fpSubnormalAssist => exact ok_execFpSubnormalAssist h
  | walkRequest => exact ok_execWalkRequest h
  | pageRequestResponse => exact ok_execPageRequestResponse h
  | atsInvalidateRequest => exact ok_execAtsInvalidateRequest h
  | accessComplete => exact ok_execAccessComplete h
  | loadDataArrival => exact ok_execLoadDataArrival h
  | batchTableSnapshot => exact ok_execBatchTableSnapshot h
  | scrubPass => exact ok_execScrubPass h
  | bloomFilterClear => exact ok_execBloomFilterClear h
  | stackSnapshotAck => exact ok_execStackSnapshotAck h
  | cutMarkerReceived => exact ok_execCutMarkerReceived h
  | shadowCopy => exact ok_execShadowCopy h
  | drainFrame => exact ok_execDrainFrame h
  | cutFailed => exact ok_execCutFailed h
  | fabricMessageArrival => exact ok_execFabricMessageArrival h
  | supplySagTrip => exact ok_execSupplySagTrip h
  | supplySagClear => exact ok_execSupplySagClear h
  | clockStepUp => exact ok_execClockStepUp h
  | sensorSample => exact ok_execSensorSample h
  | moduleReset => exact ok_execModuleReset h
  | createContext => exact ok_mbChecked h fun _ ht => ok_writeContext ht
  | registerAlmanacRegion | placeBar2Window | registerAuditArray | registerBatchTable | writeScopeTable |
      enableDistributorPreemption | releaseCommandLocks | setUpDomain | equinoxArm | equinoxAcknowledge | setAge
      | setScrubPeriod | setFilterSchedule | setRepeatThreshold | setVigilExponent => exact ok_mbChecked h fun _ ht => ht
  | releaseContext => exact ok_mbWaits h fun _ ht => ok_dropContext ht
  | grantFrames => exact ok_mbWaits h fun _ ht => ok_formatFrames _ _ _ ht
  | addPagePool | addSaveAreaPool => exact ok_mbWaits h fun _ ht => ok_setCtx (ok_formatFrames _ _ _ ht)
  | releaseSlot => exact ok_mbWaits h fun _ ht => ok_freeSlot ht
  | resetFlow => exact ok_mbChecked h fun _ ht => ok_setFlow ht
  | setUpFlow => exact ok_execSetUpFlow h
  | invalidateTranslations => exact ok_execInvalidateTranslations h
  | preempt => exact ok_execPreempt h
  | equinoxDisarm => exact ok_execEquinoxDisarm h
  | migratePage => exact ok_execMigratePage h
  | readCapabilityBlock | readPhysicalMap | readSensor => exact ok_mbReads h
  | illegalOpcode => exact ok_rejectWord h
  | fetchFault => exact ok_execFetchFault h
  | unknownMailboxOp => exact ok_execUnknownMailboxOp h

end
end Sys2Proof.Proofs
end

section
/-! The canonical form of memory (continued): a step. -/

namespace Sys2Proof.Proofs

open Sys2Proof.Machine Sys2Proof.Laws

set_option Elab.async false

/-- A turn acts on a state that keeps the form. -/
def TurnOk : Turn → Prop
  | .word t => t.MemoryOk
  | .effect _ t => t.MemoryOk
  | .settled t => t.MemoryOk
  | .nothing => True

theorem turnOk_ite {u : Turn} {c : Prop} [Decidable c] (hu : TurnOk u) : TurnOk (if c then u else .nothing) := by
  split
  · exact hu
  · trivial

section
variable {s : State} (h : s.MemoryOk)
include h

/-! ### Turns and steps (Machine/Streams, Machine/Step) -/

theorem ok_laneIdle {mreg : Nat} : NextOk (laneIdle mreg s) := ok_runLane h

theorem ok_runDecoded {d : Decoded} : NextOk (runDecoded d s) := by
  cases d with
  | instr i => exact ok_exec h
  | idle n mreg => exact ok_laneIdle h
  | reject e =>
    cases e with
    | illegalOpcode => exact ok_exec (i := .illegalOpcode) h
    | reservedField | pairConflict | wrongFly => exact ok_rejectWord h

/-- Whatever a fetch answers is executed or ends in a state that keeps the form. -/
theorem ok_runWord : NextOk (runWord s) := by
  unfold runWord
  have hf := ok_fetch h
  generalize s.fetch = r at hf ⊢
  obtain ⟨s1, w | _ | _ | _ | _ | _⟩ := r
  · exact ok_runDecoded (ok_noteMask hf)
  · exact ok_exec h
  · exact ok_fetchProtected hf
  · exact ok_fetchBad hf
  · exact ok_fetchWaits hf
  · exact ok_fetchWaits hf

theorem ok_scalarTurn : TurnOk (scalarTurn s) := turnOk_ite h

theorem ok_laneTurn : TurnOk (laneTurn s) := by
  unfold laneTurn
  dsimp only
  split
  · trivial
  split
  · exact turnOk_ite h
  · exact turnOk_ite h
  · exact turnOk_ite h
  · exact turnOk_ite h
  · exact turnOk_ite h
  · exact turnOk_ite h
  · trivial

theorem ok_retryTurn : TurnOk (retryTurn s) := by
  unfold retryTurn
  split
  · exact h
  · trivial

theorem ok_sdueTurn : TurnOk (sdueTurn s) := by
  unfold sdueTurn
  split
  · dsimp only
    split
    · trivial
    split
    · exact ok_progFail (s := { s with cur := { s.cur with stream := .sdue, mreg := 0 } }) h
    · exact h
  · trivial

theorem ok_runTurn {u : Turn} (hu : TurnOk u) : NextOk (runTurn s u) := by
  cases u with
  | word t => exact ok_runWord hu
  | effect i t => exact ok_exec hu
  | settled t => exact hu
  | nothing => exact h

theorem ok_atGroup {core slot : Nat} : (s.atGroup core slot).MemoryOk :=
  ok_same (ok_ite (c := (s.groupAt core slot).mode = .walker) (ok_withKey (k := none) h)
    (ok_asServed (core := core) (ctx := (s.groupAt core slot).ctx) h))

theorem ok_atSdue {stack n : Nat} : (s.atSdue stack n).MemoryOk := by
  unfold State.atSdue
  dsimp only
  split <;> exact h

/-- A turn is taken where the unit exists and the module is not in reset. -/
theorem ok_taken {absent : Bool} {u : Turn} (hu : TurnOk u) :
    NextOk (if absent then .fault .noSuchUnit else if s.inReset then .next s else runTurn s u) :=
  nextOk_ite trivial (nextOk_ite h (ok_runTurn h hu))

theorem ok_act {a : Agent} : NextOk (s.act a) := by
  cases a with
  | idle => exact h
  | event i => exact nextOk_ite h (nextOk_ite h (ok_exec h))
  | scalar c k => exact ok_taken h (ok_scalarTurn (ok_atGroup h))
  | lane c k => exact ok_taken h (ok_laneTurn (ok_atGroup h))
  | retry c k => exact ok_taken h (ok_retryTurn (ok_atGroup h))
  | access c k n j => exact nextOk_ite trivial (nextOk_ite h (ok_performLater (ok_atGroup h)))
  | sdue k n => exact ok_taken h (ok_sdueTurn (ok_atSdue h))

end

/-- Settles O60: beginning a step keeps the form, and so does every agent's act. -/
theorem memoryStaysCanonical : Obligations.MemoryStaysCanonical := by
  unfold Obligations.MemoryStaysCanonical
  intro s t h e
  have ha : NextOk (step s) := ok_act (ok_begin h)
  rw [e] at ha
  exact ha

end Sys2Proof.Proofs
end
